-- ==== Sys2Proof/Word.lean ====
section
/-! DEFINITION. The words of the block: bytes, 32-bit register words and stamps, the 64-bit microtick count. -/

namespace Sys2Proof

/-- Smallest addressable unit (R9, R392). -/
abbrev Byte := BitVec 8

/-- A register or memory word: 32 bits, accessed whole (R11, R365). -/
abbrev Word := BitVec 32

/-- The stamp of a safe signal: the low 32 bits of the microtick count (R87). -/
abbrev Stamp := BitVec 32

/-- The 64-bit microtick count of the channel link hub (R83). -/
abbrev Tick := BitVec 64

end Sys2Proof
end

