-- ==== Sys2Proof/Syntax.lean ====
section
/-! DEFINITION. The commands of the block: one constructor per row of spec/opcode_table.json, with what
the step takes from outside as its operands. Every bounded number is bounded by its type. -/

namespace Sys2Proof

/-- The two lanes (R22). -/
inductive Lane where
  | a | b
  deriving DecidableEq, Repr, Inhabited

/-- Who makes a bus access (R14, R344, R436, R357, R495). -/
inductive Requester where
  | pair | checker | bootRom | debugger | host
  deriving DecidableEq, Repr, Inhabited

/-- One lane's reading of the contacts of SW2 to SW6, closed is 1: SW6 in [19:16], SW2 in [15:12] to SW5
in [3:0] (R477, R490). -/
structure SealRead where
  code  : BitVec 20
  ncode : BitVec 20
  deriving DecidableEq, Repr, Inhabited

/-- The contacts of SW1 as each lane reads them: the on contact in bit 1, the off contact in bit 0, closed is 1 (R477, R478). -/
structure Sw1Read where
  a : BitVec 2
  b : BitVec 2
  deriving DecidableEq, Repr, Inhabited

/-- What the start-up steps that test hardware find (R445, R469, R470): true is a pass; and the bits of fuse words that read
otherwise in this boot than the array holds them, at normal and at strict margin (R431). `vl24` is VL24 in mV, through whose rising
threshold power-good returns (R510). -/
structure StartObs where
  vl24       : Int
  validClear : Bool
  fuseRead   : Bool
  fuses      : List (Fin 512 × Word × Word)
  caskSelf   : Bool
  march      : Bool
  marchClear : Bool
  deriving DecidableEq, Repr, Inhabited

/-- What the steps of SEAL_LATCH_READ after the latch find in hardware: the readback of both lanes
(R152), the loader's reads of the slot (R380), and the channels whose output-stage test fails (R459). -/
structure LoadObs where
  readback  : Bool
  slotReads : Bool
  stageFail : List (Fin 48)
  deriving DecidableEq, Repr, Inhabited

/-- What start-up test 4 finds: each lane has passed it (R445). -/
structure PressTest where
  a : Bool
  b : Bool
  deriving DecidableEq, Repr, Inhabited

/-- What a field side senses in one microtick (R65): the converters' results before saturation, the voltages
of terminals A and B in steps of 5 mV and the current of the active element in steps of the range in use; the
front-end temperature; and which elements limit their current. -/
structure FieldObs where
  va     : Int
  vb     : Int
  ia     : Int
  temp   : BitVec 8
  limHs  : Bool
  limLs  : Bool
  limSrc : Bool
  deriving DecidableEq, Repr, Inhabited

/-- The checks of one front-end exercise, true where the check failed (R456, FE_SELF). -/
structure ExerciseObs where
  av : Bool
  ai : Bool
  bv : Bool
  bi : Bool
  swap : Bool
  ref : Bool
  mbd : Bool
  deriving DecidableEq, Repr, Inhabited

/-- What a tasting slice finds (R448 to R450): the first failing step of the slice, whether the restore
read back equal, the result that is compared with the other lane's, and its duration in 1/256 µs. -/
structure SliceObs where
  failStep  : Option (Fin 4)
  restoreOk : Bool
  result    : Bool
  dur       : Nat
  deriving DecidableEq, Repr, Inhabited

/-- The wires of a lane that a fault drives otherwise in one microtick (R214 to R217): the health pair as its enable
generator sees it, none where it is as the comparator drives it, and the dual-rail device-fault lines of the five
detectors outside the lanes: 0 lockstep checker, 1 readback engines, 2 memory error control, 3 seal readers, 4 supply
monitors. -/
structure LaneWires where
  pair  : Option (BitVec 2)
  lines : List (Fin 5 × BitVec 2)
  deriving DecidableEq, Repr, Inhabited

/-- The shadow flag pair as a lane's injection monitor sees it (R219, R220). -/
inductive ShadowFlag where
  | none
  | column (j : Fin 64)
  | entryParity
  | exitParity
  deriving DecidableEq, Repr, Inhabited

/-- An Ethernet frame between the ports: `tci` is the 802.1Q tag, `rtag` the 802.1CB sequence number. -/
structure Frame where
  dst     : BitVec 48
  src     : BitVec 48
  tci     : Option (BitVec 16)
  rtag    : Option (BitVec 16)
  etype   : BitVec 16
  payload : List Byte
  fcsOk   : Bool
  deriving DecidableEq, Repr, Inhabited

/-- Link speeds (NET_PSTAT.speed). -/
inductive Speed where
  | m100 | m1000 | g2500
  deriving DecidableEq, Repr, Inhabited

/-- An error present in a stored memory word at an access: wrong data bits, wrong check bits, wrong
address bits, and the two bits of the valid pair (R365 to R368). -/
structure WordUpset where
  data  : BitVec 32
  check : BitVec 7
  addr  : BitVec 18
  vpair : BitVec 2
  deriving DecidableEq, Repr, Inhabited

/-- The error bits that a Cask page shows when it is read (R371, R373): wrong stored bits, numbered 72 to a word of data and
spare area, and the bits in which the page that answers differs from the page number in the prefix. -/
structure PageUpset where
  bits : List Nat
  pfx  : BitVec 13
  deriving DecidableEq, Repr, Inhabited

/-- What the outputs of the two cores first differ in (TND_LSE.cls, R342). -/
inductive LockDiff where
  | fetch | dataAddr | writeData | access | tcm | irqDebug | mirror
  deriving DecidableEq, Repr, Inhabited

/-- How fuse pulses end in a programming call (R438, R440, R442): which of the fuses to blow, in their order, stays 0 at four
pulses, and at which the power-fail warning comes, or the supply or RESET_N cuts the call; none where it does not happen. -/
structure PulseObs where
  failAfter : Option Nat
  warnAfter : Option Nat
  cutAfter  : Option Nat
  deriving DecidableEq, Repr, Inhabited

/-- A field of the fuse shadows (R435); of the hashes a byte, of the trim a word. -/
inductive ShadowField where
  | devId | policy | level
  | customer (i : Fin 32)
  | vendor (i : Fin 32)
  | trim (i : Fin 152)
  deriving DecidableEq, Repr, Inhabited

/-- A fault in one form of the fuse shadows: the field, and the bits that change (R435). -/
structure ShadowUpset where
  field : ShadowField
  bits  : BitVec 64
  deriving DecidableEq, Repr, Inhabited

/-- A host SPI request as received (R499 to R504). -/
structure SpiReq where
  op    : Byte
  addr  : BitVec 24
  len   : BitVec 16
  data  : List Byte
  crc   : BitVec 16
  deriving DecidableEq, Repr, Inhabited

/-- What a fault changes in the state that one half of the session engine holds (R298). -/
inductive HalfField where
  | state | vLast | base | peerTs | window | rejection
  deriving DecidableEq, Repr, Inhabited

/-- A fault in one half of the session engine: the session, and the bits that change. -/
structure HalfUpset where
  sid   : Fin 160
  field : HalfField
  bits  : BitVec 64
  deriving DecidableEq, Repr, Inhabited

/-- What a microtick brings to a lane: the clocks that it counts since the last one (R84), its wires, and a fault in its half of
the session engine (R298) and in its form of the fuse shadows, Lane A's the true one (R435). -/
structure LaneTick where
  clocks : Nat
  wires  : LaneWires
  half   : Option HalfUpset
  shadow : Option ShadowUpset
  deriving DecidableEq, Repr, Inhabited

/-- What a lane finds at a cycle start: the clocks that its evaluation takes (R158), and the step command as it receives it, none
where that is the hub's (R112). -/
structure CycleObs where
  clocks : Nat
  step   : Option Int
  deriving DecidableEq, Repr, Inhabited

/-- A fault in a lane's net memory (R154, R221): the net, an analog net n as 4096 + n, and the stored bits that change. -/
structure NetUpset where
  net  : Fin 4352
  bits : BitVec 49
  deriving DecidableEq, Repr, Inhabited

/-- A fault in a lane's set on its way to the comparator: the bits that change in its words, and after how many words the set ends
early (R211). -/
structure SetFault where
  flips : List (Nat × BitVec 64)
  cut   : Option Nat
  deriving DecidableEq, Repr, Inhabited

/-- A fault in the comparator at an update point: the bits that change in the delayed words, the columns that show a wrong code,
and the tree whose result a node drops (R213, R214). -/
structure CompareFault where
  flips : List (Nat × BitVec 64)
  mask  : BitVec 64
  drop  : Option Nat
  deriving DecidableEq, Repr, Inhabited

/-- What the debugger writes with `dmactive`: the hart selected (R357), and whether it clears `cmderr` in `abstractcs`. -/
structure DmControl where
  active : Bool
  hart   : Bool
  clear  : Bool
  deriving DecidableEq, Repr, Inhabited

/-- Who reads memory, and whether it is a fetch (R344, R493). -/
structure ReadBy where
  who   : Requester
  fetch : Bool
  deriving DecidableEq, Repr, Inhabited

/-- A register write with what meets it in its clock: the W1C bits that hardware sets, and the write of another requester to the same
register (R13, R14). -/
structure WriteWord where
  word : Word
  set  : Word
  tie  : Option (Requester × Word)
  deriving DecidableEq, Repr, Inhabited

/-- The commands: one constructor per row of the opcode table, in its order. -/
inductive Instr where
  | resetNLow (ns : Nat)
  | powerGoodLost
  | startupBegin (bm0 bm1 : Bool) (obs : StartObs)
  | initEntryTimeout
  | initEntryReturn (press : PressTest) (cmpOk : Bool)
  | sealLatchRead (ra rb : SealRead) (obs : LoadObs)
  | acceptPairAppend
  | microtick (ca cb : LaneTick)
  | laneTickTimeout (l : Lane)
  | enableMonitorTimeout (l : Lane)
  | fieldSample (ch : Fin 48) (o : FieldObs)
  | uplinkFrameReceived (ch : Fin 48) (frame : Option (BitVec 64)) (codeErr : Bool)
  | downlinkFrameReceived (ch : Fin 48) (frame : Option (BitVec 64)) (codeErr : Bool)
  | logicSilentTimeout (ch : Fin 48) (l : Lane)
  | programmedStateTimeout (ch : Fin 48)
  | linkAcquisition (ch : Fin 48)
  | auxWordApply (ch : Fin 48)
  | feCommit (ch : Fin 48)
  | feReopen (ch : Fin 48)
  | configEchoTimeout (ch : Fin 48) (reg : Fin 12)
  | sourceLimitTrip (ch : Fin 48)
  | sourceRetry (ch : Fin 48) (lim : Bool)
  | indeterminateFlag (ch : Fin 48)
  | wireBreakFault (ch : Fin 48)
  | dipStart (ch : Fin 48)
  | dipWindowClose (slot : Fin 48)
  | feExercise (ch : Fin 48) (o : ExerciseObs)
  | feSelfTimeout (ch : Fin 48)
  | outputStageTest (ch : Fin 48)
  | outputStageTestDone (ch : Fin 48) (pass : Bool)
  | currentLimitTrip (ch : Fin 48)
  | currentLimitLatchClear (ch : Fin 48)
  | supplyBandChange (ch : Fin 48) (mv : Int)
  | bridgingTimeout (ch : Fin 48)
  | bridgingTimerReset (ch : Fin 48)
  | supplyLatchClear (ch : Fin 48)
  | darkTestSlotStart (k : Fin 96)
  | darkTestObservationClose (k : Fin 96)
  | darkTestRestoreClose (k : Fin 96)
  | offStateFeedDetect (ch : Fin 48)
  | openLoadFlag (ch : Fin 48)
  | sharingBlockEnd
  | groupCurrentBlockEnd
  | overloadStdqRelease (g : Fin 6)
  | laneACycleStart (c : CycleObs) (o : SliceObs) (upset : List NetUpset)
  | laneBCycleStart (c : CycleObs) (o : SliceObs) (upset : List NetUpset)
  | windowClose (l : Lane) (slot : Fin 2048)
  | evaluationOverrun (l : Lane) (clocks : Nat)
  | sliceOverrun (l : Lane) (step : Fin 4)
  | coverageDeadline
  | laneRelease (l : Lane) (f : SetFault) (parityFlips : List (Nat × BitVec 64))
  | outputUpdatePoint (f : CompareFault)
  | shadowSlotCheck (fa fb : Option ShadowFlag)
  | configReadbackPass (us : Nat) (flipsA flipsB : List (Nat × Byte))
  | syncInEdge (widthNs : Nat)
  | syncSourceTimeout
  | syncRearm (req : Requester) (w : Word)
  | hostRequestWrite (req : Requester) (w : Word)
  | forcedMismatch (req : Requester) (w : Word)
  | sessionSendInstant (sid : Fin 160)
  | telegramReceived
  | consumerWatchdog (sid : Fin 160)
  | echoAgeWindow (sid : Fin 160)
  | failedDwellEnd (sid : Fin 160)
  | frameReceived (port : Fin 5) (f : Frame) (rxNs : Nat)
  | nextHopRetry (sid : Fin 160)
  | egressTransmit (port : Fin 5)
  | xoffRepeat (port : Fin 5) (cls : Fin 2)
  | bufferXon (port : Fin 5) (cls : Fin 2)
  | addressAgeing
  | linkChange (port : Fin 5) (up : Option Speed)
  | gateCycleStart (port : Fin 5)
  | gateListCommit (req : Requester) (port : Fin 5) (w : Word)
  | gptpSyncInterval (port : Fin 5)
  | syncReceiptTimeout (port : Fin 5)
  | frerRecoveryReset (sid : Fin 160)
  | streamFrame (e : Fin 8)
  | forwardingEnable (req : Option Requester) (w : Word)
  | splitRequest (req : Requester) (w : Word)
  | splitPoint (differ : Bool)
  | splitRequestLapse
  | mergeRequest (req : Requester) (w : Word)
  | mergePoint
  | mergeComplete (diff : Option LockDiff)
  | mergeTimeout
  | splitBudgetWarning
  | splitBudgetExpired
  | lockstepMismatch (cls : LockDiff)
  | diagnosticKick (req : Requester) (w : Word)
  | diagnosticDeadline
  | machineTimerInterrupt
  | hostMailboxWrite (req : Requester) (w : Word)
  | pairMailboxWrite (req : Requester) (w : Word)
  | status
  | fuseService (offset : BitVec 24) (o : PulseObs)
  | checkFirmwareInTheCask
  | bootFirmwareFromSram
  | programSlot (req : Requester) (idx : Fin 16) (addr : Word) (o : PulseObs)
  | blowLock (req : Requester) (idx : Fin 16) (o : PulseObs)
  | raiseThermometer (req : Requester) (level : Byte) (o : PulseObs)
  | fuseShadowMismatch
  | dmactiveWrite (v : DmControl)
  | debugPermitLapse
  | debugHalt
  | debugResume
  | singleStep (pc : Word)
  | accessRegister (write : Bool) (regno : BitVec 16) (value : Word)
  | accessMemory (write : Bool) (addr : Word) (value : Word)
  | memoryRead (by_ : ReadBy) (addr : Word) (u : Option WordUpset) (p : Option PageUpset)
  | memoryWrite (req : Requester) (addr : Word) (value : Word) (be : BitVec 4) (u : Option WordUpset)
  | deadlineWindowClose (e : Fin 16)
  | logRelease (req : Requester) (w : Word)
  | edcLockSet (req : Requester) (w : Word)
  | scrubStart (req : Requester) (w : Word)
  | scrubAbort (req : Requester) (w : Word)
  | scrubEnd
  | bankRemap (req : Requester) (w : Word)
  | remapComplete (same : Bool)
  | appendARecord (req : Requester) (w : Word)
  | appendCommit
  | startRacking (req : Requester) (w : Word)
  | retirePage (req : Requester) (w : Word)
  | writeSlotPage (req : Requester) (w : Word)
  | lookUpTheLiveRecord (req : Requester) (w : Word)
  | eventQueuePost (source code : Byte) (detail : BitVec 16) (data : List Byte)
  | eventAppend
  | rackingTrigger
  | rackingSeal
  | powerFailWarning (mv : Int)
  | powerFailWarningClear
  | holdupConnect (mv : Int)
  | internalRailOutOfBand (rail : Fin 6) (mv : Int)
  | sw1On
  | sw1Off (r : Sw1Read)
  | sealReadInRun (ra rb : SealRead)
  | sealReadOutsideRun (ra rb : SealRead)
  | restartRequest (req : Requester) (w : Word)
  | restartReset
  | bstOrderWrite (req : Requester) (hi : Bool) (w : Word)
  | readWords (r : SpiReq)
  | writeWords (r : SpiReq)
  | repeatTheTrailer (r : SpiReq)
  | hcsNAbort (r : Option SpiReq)
  | registerWrite (req : Requester) (addr : Word) (w : WriteWord)
  | holdupDisconnect (mv : Int)
  | pauseTimerExpiry (port : Fin 5) (queue : Fin 8)
  | announceReceiptTimeout (port : Fin 5)
  | latchingRegisterRead (req : Requester) (addr : Word)
  | unknownOpcode (r : SpiReq)
  deriving DecidableEq, Repr

end Sys2Proof
end

