-- ==== Sys2Proof/Decode.lean ====
section
/-! DEFINITION. The command that a word spells by the bits of spec/opcode_table.json. No row of the table
gives any bits: commands come from outside, not from words, so every word spells none. -/

namespace Sys2Proof

/-- The command spelt by a word of `nbits` bits: none, as no row has an encoding. -/
def decodeTableWord (_nbits _w : Nat) : Option Instr := none

end Sys2Proof
end

