-- ==== Sys2Proof/Machine/RegMap.lean ====
section
/-! DEFINITION. The register map of the block: every register of the spec with its address, its fields,
their access codes and reset values, transcribed from the register tables of the chapters (R80, R115, R158,
R232, R268, R271, R306, R338, R339, R363, R390, R423, R444, R464, R489, R490, R497, R505). -/

namespace Sys2Proof

/-- Access codes (R12). -/
inductive Acc where
  | ro | rw | w1c | wo | rws | rwi
  deriving DecidableEq, Repr

/-- A field of a register: its address and its bits. -/
structure Fld where
  addr : Nat
  hi : Nat
  lo : Nat
  deriving DecidableEq, Repr

/-- A field of a register description. -/
structure FDesc where
  hi : Nat
  lo : Nat
  acc : Acc
  reset : Nat
  deriving DecidableEq, Repr

/-- A register, or an array of `count` registers `stride` bytes apart. -/
structure RDesc where
  name : String
  base : Nat
  stride : Nat
  count : Nat
  fields : List FDesc
  deriving DecidableEq, Repr

/-- Whether the description covers the register at an address. -/
def RDesc.covers (d : RDesc) (a : Nat) : Bool :=
  if d.stride = 0 then a == d.base
  else d.base ≤ a && a < d.base + d.stride * d.count && (a - d.base) % d.stride == 0

/-! ### Addresses and fields by name -/

def R.CHN_CFG (n : Nat) : Nat := 0x40010000 + n * 0x100
def F.CHN_CFG_srcch (n : Nat) : Fld := ⟨R.CHN_CFG n, 21, 16⟩
def F.CHN_CFG_srcsel (n : Nat) : Fld := ⟨R.CHN_CFG n, 15, 14⟩
def F.CHN_CFG_itype (n : Nat) : Fld := ⟨R.CHN_CFG n, 13, 12⟩
def F.CHN_CFG_irng (n : Nat) : Fld := ⟨R.CHN_CFG n, 11, 11⟩
def F.CHN_CFG_mode (n : Nat) : Fld := ⟨R.CHN_CFG n, 2, 0⟩
def R.CHN_FILT (n : Nat) : Nat := 0x40010004 + n * 0x100
def F.CHN_FILT_n (n : Nat) : Fld := ⟨R.CHN_FILT n, 27, 16⟩
def F.CHN_FILT_deb (n : Nat) : Fld := ⟨R.CHN_FILT n, 15, 0⟩
def R.CHN_STAT (n : Nat) : Nat := 0x40010010 + n * 0x100
def F.CHN_STAT_valid (n : Nat) : Fld := ⟨R.CHN_STAT n, 31, 31⟩
def F.CHN_STAT_lnk (n : Nat) : Fld := ⟨R.CHN_STAT n, 30, 30⟩
def F.CHN_STAT_mode (n : Nat) : Fld := ⟨R.CHN_STAT n, 29, 27⟩
def F.CHN_STAT_in (n : Nat) : Fld := ⟨R.CHN_STAT n, 26, 26⟩
def F.CHN_STAT_raw (n : Nat) : Fld := ⟨R.CHN_STAT n, 25, 25⟩
def F.CHN_STAT_band (n : Nat) : Fld := ⟨R.CHN_STAT n, 24, 23⟩
def F.CHN_STAT_brb (n : Nat) : Fld := ⟨R.CHN_STAT n, 22, 22⟩
def F.CHN_STAT_slow (n : Nat) : Fld := ⟨R.CHN_STAT n, 21, 21⟩
def F.CHN_STAT_ovl (n : Nat) : Fld := ⟨R.CHN_STAT n, 20, 20⟩
def F.CHN_STAT_flt (n : Nat) : Fld := ⟨R.CHN_STAT n, 19, 19⟩
def F.CHN_STAT_tpa (n : Nat) : Fld := ⟨R.CHN_STAT n, 18, 18⟩
def F.CHN_STAT_ind (n : Nat) : Fld := ⟨R.CHN_STAT n, 17, 17⟩
def F.CHN_STAT_seq (n : Nat) : Fld := ⟨R.CHN_STAT n, 3, 0⟩
def R.CHN_FAULT (n : Nat) : Nat := 0x40010014 + n * 0x100
def F.CHN_FAULT_outf (n : Nat) : Fld := ⟨R.CHN_FAULT n, 10, 10⟩
def F.CHN_FAULT_cnte (n : Nat) : Fld := ⟨R.CHN_FAULT n, 9, 9⟩
def F.CHN_FAULT_srct (n : Nat) : Fld := ⟨R.CHN_FAULT n, 8, 8⟩
def F.CHN_FAULT_self (n : Nat) : Fld := ⟨R.CHN_FAULT n, 7, 7⟩
def F.CHN_FAULT_cfge (n : Nat) : Fld := ⟨R.CHN_FAULT n, 6, 6⟩
def F.CHN_FAULT_wbrk (n : Nat) : Fld := ⟨R.CHN_FAULT n, 5, 5⟩
def F.CHN_FAULT_xfd (n : Nat) : Fld := ⟨R.CHN_FAULT n, 4, 4⟩
def F.CHN_FAULT_xsh (n : Nat) : Fld := ⟨R.CHN_FAULT n, 3, 3⟩
def F.CHN_FAULT_lnkl (n : Nat) : Fld := ⟨R.CHN_FAULT n, 2, 2⟩
def F.CHN_FAULT_seqe (n : Nat) : Fld := ⟨R.CHN_FAULT n, 1, 1⟩
def F.CHN_FAULT_crce (n : Nat) : Fld := ⟨R.CHN_FAULT n, 0, 0⟩
def R.CHN_FTS (n : Nat) : Nat := 0x40010018 + n * 0x100
def F.CHN_FTS_ts (n : Nat) : Fld := ⟨R.CHN_FTS n, 31, 0⟩
def R.CHN_XSRC (n : Nat) : Nat := 0x4001001c + n * 0x100
def F.CHN_XSRC_vld (n : Nat) : Fld := ⟨R.CHN_XSRC n, 31, 31⟩
def F.CHN_XSRC_slot (n : Nat) : Fld := ⟨R.CHN_XSRC n, 5, 0⟩
def R.CHN_V (n : Nat) : Nat := 0x40010020 + n * 0x100
def F.CHN_V_xtp (n : Nat) : Fld := ⟨R.CHN_V n, 31, 31⟩
def F.CHN_V_sat (n : Nat) : Fld := ⟨R.CHN_V n, 30, 30⟩
def F.CHN_V_raw (n : Nat) : Fld := ⟨R.CHN_V n, 29, 16⟩
def F.CHN_V_cal (n : Nat) : Fld := ⟨R.CHN_V n, 15, 0⟩
def R.CHN_I (n : Nat) : Nat := 0x40010024 + n * 0x100
def F.CHN_I_xtp (n : Nat) : Fld := ⟨R.CHN_I n, 31, 31⟩
def F.CHN_I_sat (n : Nat) : Fld := ⟨R.CHN_I n, 30, 30⟩
def F.CHN_I_raw (n : Nat) : Fld := ⟨R.CHN_I n, 29, 16⟩
def F.CHN_I_cal (n : Nat) : Fld := ⟨R.CHN_I n, 15, 0⟩
def R.CHN_VIT (n : Nat) : Nat := 0x40010028 + n * 0x100
def F.CHN_VIT_idx (n : Nat) : Fld := ⟨R.CHN_VIT n, 31, 0⟩
def R.CHN_VB (n : Nat) : Nat := 0x4001002c + n * 0x100
def F.CHN_VB_raw (n : Nat) : Fld := ⟨R.CHN_VB n, 29, 16⟩
def F.CHN_VB_val (n : Nat) : Fld := ⟨R.CHN_VB n, 15, 0⟩
def R.CHN_TEMP (n : Nat) : Nat := 0x40010030 + n * 0x100
def F.CHN_TEMP_t (n : Nat) : Fld := ⟨R.CHN_TEMP n, 7, 0⟩
def R.CHN_POS (n : Nat) : Nat := 0x40010034 + n * 0x100
def F.CHN_POS_pos (n : Nat) : Fld := ⟨R.CHN_POS n, 31, 0⟩
def R.CHN_EDGE (n : Nat) : Nat := 0x40010038 + n * 0x100
def F.CHN_EDGE_pos (n : Nat) : Fld := ⟨R.CHN_EDGE n, 31, 0⟩
def R.CHN_ERRC (n : Nat) : Nat := 0x4001003c + n * 0x100
def F.CHN_ERRC_seqc (n : Nat) : Fld := ⟨R.CHN_ERRC n, 31, 16⟩
def F.CHN_ERRC_crcc (n : Nat) : Fld := ⟨R.CHN_ERRC n, 15, 0⟩
def R.CHN_TPCFG : Nat := 0x4001f000
def F.CHN_TPCFG_pms : Fld := ⟨R.CHN_TPCFG, 25, 16⟩
def F.CHN_TPCFG_dip : Fld := ⟨R.CHN_TPCFG, 9, 0⟩
def R.CHN_VLDLO : Nat := 0x4001f004
def F.CHN_VLDLO_v : Fld := ⟨R.CHN_VLDLO, 31, 0⟩
def R.CHN_VLDHI : Nat := 0x4001f008
def F.CHN_VLDHI_v : Fld := ⟨R.CHN_VLDHI, 15, 0⟩
def R.CHN_CALQLO : Nat := 0x4001f014
def F.CHN_CALQLO_q : Fld := ⟨R.CHN_CALQLO, 31, 0⟩
def R.CHN_CALQHI : Nat := 0x4001f018
def F.CHN_CALQHI_q : Fld := ⟨R.CHN_CALQHI, 15, 0⟩
def R.CHN_OCFG (n : Nat) : Nat := 0x40010008 + n * 0x100
def F.CHN_OCFG_ol (n : Nat) : Fld := ⟨R.CHN_OCFG n, 28, 28⟩
def F.CHN_OCFG_otype (n : Nat) : Fld := ⟨R.CHN_OCFG n, 23, 22⟩
def F.CHN_OCFG_par (n : Nat) : Fld := ⟨R.CHN_OCFG n, 21, 20⟩
def F.CHN_OCFG_lead (n : Nat) : Fld := ⟨R.CHN_OCFG n, 5, 0⟩
def R.CHN_LST (n : Nat) : Nat := 0x4001000c + n * 0x100
def F.CHN_LST_lsst (n : Nat) : Fld := ⟨R.CHN_LST n, 17, 16⟩
def F.CHN_LST_lsto (n : Nat) : Fld := ⟨R.CHN_LST n, 13, 0⟩
def R.CHN_ODET (n : Nat) : Nat := 0x40010040 + n * 0x100
def F.CHN_ODET_reqa (n : Nat) : Fld := ⟨R.CHN_ODET n, 31, 31⟩
def F.CHN_ODET_reqb (n : Nat) : Fld := ⟨R.CHN_ODET n, 30, 30⟩
def F.CHN_ODET_dtrun (n : Nat) : Fld := ⟨R.CHN_ODET n, 29, 29⟩
def F.CHN_ODET_dtdue (n : Nat) : Fld := ⟨R.CHN_ODET n, 28, 28⟩
def F.CHN_ODET_ol (n : Nat) : Fld := ⟨R.CHN_ODET n, 27, 27⟩
def F.CHN_ODET_dfr (n : Nat) : Fld := ⟨R.CHN_ODET n, 26, 26⟩
def F.CHN_ODET_first (n : Nat) : Fld := ⟨R.CHN_ODET n, 23, 16⟩
def F.CHN_ODET_last (n : Nat) : Fld := ⟨R.CHN_ODET n, 7, 0⟩
def R.CHN_OTS (n : Nat) : Nat := 0x40010044 + n * 0x100
def F.CHN_OTS_ts (n : Nat) : Fld := ⟨R.CHN_OTS n, 31, 0⟩
def R.CHN_DTR (n : Nat) : Nat := 0x40010048 + n * 0x100
def F.CHN_DTR_hsc (n : Nat) : Fld := ⟨R.CHN_DTR n, 31, 16⟩
def F.CHN_DTR_lsc (n : Nat) : Fld := ⟨R.CHN_DTR n, 15, 0⟩
def R.CHN_IAVG (n : Nat) : Nat := 0x4001004c + n * 0x100
def F.CHN_IAVG_iavg (n : Nat) : Fld := ⟨R.CHN_IAVG n, 15, 0⟩
def R.CHN_IENLO : Nat := 0x4001f00c
def F.CHN_IENLO_en : Fld := ⟨R.CHN_IENLO, 31, 0⟩
def R.CHN_IENHI : Nat := 0x4001f010
def F.CHN_IENHI_en : Fld := ⟨R.CHN_IENHI, 15, 0⟩
def R.PRS_CYC : Nat := 0x40030f00
def F.PRS_CYC_cdiv : Fld := ⟨R.PRS_CYC, 3, 0⟩
def R.PRS_SYNC : Nat := 0x40030f04
def F.PRS_SYNC_rearm : Fld := ⟨R.PRS_SYNC, 31, 31⟩
def F.PRS_SYNC_pdiv : Fld := ⟨R.PRS_SYNC, 23, 16⟩
def F.PRS_SYNC_offs : Fld := ⟨R.PRS_SYNC, 13, 8⟩
def F.PRS_SYNC_rtrim : Fld := ⟨R.PRS_SYNC, 2, 2⟩
def F.PRS_SYNC_src : Fld := ⟨R.PRS_SYNC, 1, 0⟩
def R.PRS_SSTAT : Nat := 0x40030f08
def F.PRS_SSTAT_lock : Fld := ⟨R.PRS_SSTAT, 31, 31⟩
def F.PRS_SSTAT_lost : Fld := ⟨R.PRS_SSTAT, 30, 30⟩
def F.PRS_SSTAT_lostev : Fld := ⟨R.PRS_SSTAT, 29, 29⟩
def F.PRS_SSTAT_lcause : Fld := ⟨R.PRS_SSTAT, 28, 27⟩
def F.PRS_SSTAT_phi : Fld := ⟨R.PRS_SSTAT, 15, 8⟩
def F.PRS_SSTAT_err : Fld := ⟨R.PRS_SSTAT, 7, 0⟩
def R.PRS_STRIM : Nat := 0x40030f0c
def F.PRS_STRIM_trim : Fld := ⟨R.PRS_STRIM, 15, 0⟩
def R.PRS_TICKL : Nat := 0x40030f10
def F.PRS_TICKL_tick : Fld := ⟨R.PRS_TICKL, 31, 0⟩
def R.PRS_TICKH : Nat := 0x40030f14
def F.PRS_TICKH_tick : Fld := ⟨R.PRS_TICKH, 31, 0⟩
def R.PRS_LTCK : Nat := 0x40030f18
def F.PRS_LTCK_bmax : Fld := ⟨R.PRS_LTCK, 31, 24⟩
def F.PRS_LTCK_bmin : Fld := ⟨R.PRS_LTCK, 23, 16⟩
def F.PRS_LTCK_amax : Fld := ⟨R.PRS_LTCK, 15, 8⟩
def F.PRS_LTCK_amin : Fld := ⟨R.PRS_LTCK, 7, 0⟩
def R.PRS_VIN : Nat := 0x40030000
def F.PRS_VIN_acc : Fld := ⟨R.PRS_VIN, 31, 31⟩
def F.PRS_VIN_slot : Fld := ⟨R.PRS_VIN, 25, 24⟩
def F.PRS_VIN_fp : Fld := ⟨R.PRS_VIN, 15, 0⟩
def R.PRS_VREJ : Nat := 0x40030004
def F.PRS_VREJ_reason : Fld := ⟨R.PRS_VREJ, 31, 24⟩
def F.PRS_VREJ_offs : Fld := ⟨R.PRS_VREJ, 23, 0⟩
def R.PRS_VUSE : Nat := 0x40030008
def F.PRS_VUSE_cells : Fld := ⟨R.PRS_VUSE, 27, 16⟩
def F.PRS_VUSE_ses : Fld := ⟨R.PRS_VUSE, 15, 8⟩
def F.PRS_VUSE_str : Fld := ⟨R.PRS_VUSE, 3, 0⟩
def R.PRS_EVAL : Nat := 0x4003000c
def F.PRS_EVAL_ranks : Fld := ⟨R.PRS_EVAL, 24, 16⟩
def F.PRS_EVAL_elen : Fld := ⟨R.PRS_EVAL, 8, 0⟩
def R.PRS_ETIME : Nat := 0x40030010
def F.PRS_ETIME_bmax : Fld := ⟨R.PRS_ETIME, 31, 16⟩
def F.PRS_ETIME_amax : Fld := ⟨R.PRS_ETIME, 15, 0⟩
def R.PRS_RBK : Nat := 0x40030014
def F.PRS_RBK_passes : Fld := ⟨R.PRS_RBK, 31, 16⟩
def F.PRS_RBK_ptime : Fld := ⟨R.PRS_RBK, 15, 0⟩
def R.PRS_HREQ : Nat := 0x40030020
def F.PRS_HREQ_req : Fld := ⟨R.PRS_HREQ, 15, 0⟩
def R.PRS_NSEL : Nat := 0x40030030
def F.PRS_NSEL_ana : Fld := ⟨R.PRS_NSEL, 31, 31⟩
def F.PRS_NSEL_net : Fld := ⟨R.PRS_NSEL, 11, 0⟩
def R.PRS_NVAL : Nat := 0x40030034
def F.PRS_NVAL_agree : Fld := ⟨R.PRS_NVAL, 31, 31⟩
def F.PRS_NVAL_vld : Fld := ⟨R.PRS_NVAL, 30, 30⟩
def F.PRS_NVAL_bval : Fld := ⟨R.PRS_NVAL, 16, 16⟩
def F.PRS_NVAL_aval : Fld := ⟨R.PRS_NVAL, 15, 0⟩
def R.PRS_NTS : Nat := 0x40030038
def F.PRS_NTS_ts : Fld := ⟨R.PRS_NTS, 31, 0⟩
def R.PRS_IEN : Nat := 0x40030f1c
def F.PRS_IEN_lost : Fld := ⟨R.PRS_IEN, 0, 0⟩
def R.CMP_STAT : Nat := 0x40040000
def F.CMP_STAT_enaa : Fld := ⟨R.CMP_STAT, 31, 31⟩
def F.CMP_STAT_enab : Fld := ⟨R.CMP_STAT, 30, 30⟩
def F.CMP_STAT_hlth : Fld := ⟨R.CMP_STAT, 29, 29⟩
def F.CMP_STAT_injok : Fld := ⟨R.CMP_STAT, 28, 28⟩
def F.CMP_STAT_cause : Fld := ⟨R.CMP_STAT, 15, 8⟩
def R.CMP_CNT : Nat := 0x40040004
def F.CMP_CNT_cnt : Fld := ⟨R.CMP_CNT, 31, 0⟩
def R.CMP_INJ : Nat := 0x40040008
def F.CMP_INJ_pass : Fld := ⟨R.CMP_INJ, 31, 16⟩
def F.CMP_INJ_step : Fld := ⟨R.CMP_INJ, 6, 0⟩
def R.CMP_MLOC : Nat := 0x4004000c
def F.CMP_MLOC_vld : Fld := ⟨R.CMP_MLOC, 31, 31⟩
def F.CMP_MLOC_kind : Fld := ⟨R.CMP_MLOC, 30, 28⟩
def F.CMP_MLOC_outx : Fld := ⟨R.CMP_MLOC, 27, 27⟩
def F.CMP_MLOC_slot : Fld := ⟨R.CMP_MLOC, 26, 16⟩
def F.CMP_MLOC_net : Fld := ⟨R.CMP_MLOC, 11, 0⟩
def R.CMP_MA : Nat := 0x40040010
def F.CMP_MA_word : Fld := ⟨R.CMP_MA, 31, 0⟩
def R.CMP_MB : Nat := 0x40040014
def F.CMP_MB_word : Fld := ⟨R.CMP_MB, 31, 0⟩
def R.CMP_MTS : Nat := 0x40040018
def F.CMP_MTS_ts : Fld := ⟨R.CMP_MTS, 31, 0⟩
def R.CMP_ESTOP : Nat := 0x4004001c
def F.CMP_ESTOP_ts : Fld := ⟨R.CMP_ESTOP, 31, 0⟩
def R.CMP_TEST : Nat := 0x40040020
def F.CMP_TEST_force : Fld := ⟨R.CMP_TEST, 31, 31⟩
def F.CMP_TEST_slot : Fld := ⟨R.CMP_TEST, 10, 0⟩
def R.CMP_IEN : Nat := 0x40040024
def F.CMP_IEN_cause : Fld := ⟨R.CMP_IEN, 0, 0⟩
def R.FSG_CFG (n : Nat) : Nat := 0x40020000 + n * 0x40
def F.FSG_CFG_use (n : Nat) : Fld := ⟨R.FSG_CFG n, 31, 31⟩
def F.FSG_CFG_dti (n : Nat) : Fld := ⟨R.FSG_CFG n, 29, 16⟩
def F.FSG_CFG_dtw (n : Nat) : Fld := ⟨R.FSG_CFG n, 15, 7⟩
def F.FSG_CFG_brg (n : Nat) : Fld := ⟨R.FSG_CFG n, 3, 0⟩
def R.FSG_STAT (n : Nat) : Nat := 0x40020004 + n * 0x40
def F.FSG_STAT_trip (n : Nat) : Fld := ⟨R.FSG_STAT n, 31, 31⟩
def F.FSG_STAT_band (n : Nat) : Fld := ⟨R.FSG_STAT n, 30, 28⟩
def F.FSG_STAT_brt (n : Nat) : Fld := ⟨R.FSG_STAT n, 13, 0⟩
def R.FSG_IMEAN (n : Nat) : Nat := 0x40020008 + n * 0x40
def F.FSG_IMEAN_peak (n : Nat) : Fld := ⟨R.FSG_IMEAN n, 31, 16⟩
def F.FSG_IMEAN_mean (n : Nat) : Fld := ⟨R.FSG_IMEAN n, 15, 0⟩
def R.FSG_FLT (n : Nat) : Nat := 0x4002000c + n * 0x40
def F.FSG_FLT_mshed (n : Nat) : Fld := ⟨R.FSG_FLT n, 5, 5⟩
def F.FSG_FLT_ovl (n : Nat) : Fld := ⟨R.FSG_FLT n, 4, 4⟩
def F.FSG_FLT_over (n : Nat) : Fld := ⟨R.FSG_FLT n, 3, 3⟩
def F.FSG_FLT_sagx (n : Nat) : Fld := ⟨R.FSG_FLT n, 2, 2⟩
def F.FSG_FLT_under (n : Nat) : Fld := ⟨R.FSG_FLT n, 1, 1⟩
def F.FSG_FLT_sag (n : Nat) : Fld := ⟨R.FSG_FLT n, 0, 0⟩
def R.FSG_FTS (n : Nat) : Nat := 0x40020010 + n * 0x40
def F.FSG_FTS_ts (n : Nat) : Fld := ⟨R.FSG_FTS n, 31, 0⟩
def R.FSG_SAGC (n : Nat) : Nat := 0x40020014 + n * 0x40
def F.FSG_SAGC_cnt (n : Nat) : Fld := ⟨R.FSG_SAGC n, 31, 16⟩
def F.FSG_SAGC_lmax (n : Nat) : Fld := ⟨R.FSG_SAGC n, 15, 0⟩
def R.FSG_MOD : Nat := 0x40020f00
def F.FSG_MOD_peak : Fld := ⟨R.FSG_MOD, 31, 16⟩
def F.FSG_MOD_sum : Fld := ⟨R.FSG_MOD, 15, 0⟩
def R.FSG_MFLT : Nat := 0x40020f04
def F.FSG_MFLT_cnt : Fld := ⟨R.FSG_MFLT, 15, 8⟩
def F.FSG_MFLT_ev : Fld := ⟨R.FSG_MFLT, 0, 0⟩
def R.FSG_DTSTAT : Nat := 0x40020f08
def F.FSG_DTSTAT_rounds : Fld := ⟨R.FSG_DTSTAT, 31, 16⟩
def F.FSG_DTSTAT_slots : Fld := ⟨R.FSG_DTSTAT, 6, 0⟩
def R.FSG_IEN : Nat := 0x40020f0c
def F.FSG_IEN_mod : Fld := ⟨R.FSG_IEN, 6, 6⟩
def F.FSG_IEN_grp : Fld := ⟨R.FSG_IEN, 5, 0⟩
def R.SES_CFG (n : Nat) : Nat := 0x40050000 + n * 0x40
def F.SES_CFG_plen (n : Nat) : Fld := ⟨R.SES_CFG n, 20, 16⟩
def F.SES_CFG_pmask (n : Nat) : Fld := ⟨R.SES_CFG n, 12, 8⟩
def F.SES_CFG_frer (n : Nat) : Fld := ⟨R.SES_CFG n, 7, 7⟩
def F.SES_CFG_xport (n : Nat) : Fld := ⟨R.SES_CFG n, 5, 4⟩
def F.SES_CFG_role (n : Nat) : Fld := ⟨R.SES_CFG n, 1, 0⟩
def R.SES_CID (n : Nat) : Nat := 0x40050004 + n * 0x40
def F.SES_CID_cid (n : Nat) : Fld := ⟨R.SES_CID n, 31, 0⟩
def R.SES_PER (n : Nat) : Nat := 0x40050008 + n * 0x40
def F.SES_PER_period (n : Nat) : Fld := ⟨R.SES_PER n, 19, 0⟩
def R.SES_LIM (n : Nat) : Nat := 0x4005000c + n * 0x40
def F.SES_LIM_lim (n : Nat) : Fld := ⟨R.SES_LIM n, 23, 0⟩
def R.SES_STAT (n : Nat) : Nat := 0x40050010 + n * 0x40
def F.SES_STAT_state (n : Nat) : Fld := ⟨R.SES_STAT n, 31, 29⟩
def F.SES_STAT_pfs (n : Nat) : Fld := ⟨R.SES_STAT n, 28, 28⟩
def F.SES_STAT_popn (n : Nat) : Fld := ⟨R.SES_STAT n, 27, 27⟩
def F.SES_STAT_ok (n : Nat) : Fld := ⟨R.SES_STAT n, 26, 26⟩
def F.SES_STAT_fcode (n : Nat) : Fld := ⟨R.SES_STAT n, 19, 16⟩
def F.SES_STAT_opens (n : Nat) : Fld := ⟨R.SES_STAT n, 15, 8⟩
def F.SES_STAT_fails (n : Nat) : Fld := ⟨R.SES_STAT n, 7, 0⟩
def R.SES_VTX (n : Nat) : Nat := 0x40050014 + n * 0x40
def F.SES_VTX_v (n : Nat) : Fld := ⟨R.SES_VTX n, 31, 0⟩
def R.SES_VRX (n : Nat) : Nat := 0x40050018 + n * 0x40
def F.SES_VRX_v (n : Nat) : Fld := ⟨R.SES_VRX n, 31, 0⟩
def R.SES_AGE (n : Nat) : Nat := 0x4005001c + n * 0x40
def F.SES_AGE_max (n : Nat) : Fld := ⟨R.SES_AGE n, 31, 16⟩
def F.SES_AGE_last (n : Nat) : Fld := ⟨R.SES_AGE n, 15, 0⟩
def R.SES_ACC (n : Nat) : Nat := 0x40050020 + n * 0x40
def F.SES_ACC_cnt (n : Nat) : Fld := ⟨R.SES_ACC n, 31, 0⟩
def R.SES_REJ (n : Nat) : Nat := 0x40050024 + n * 0x40
def F.SES_REJ_fmt (n : Nat) : Fld := ⟨R.SES_REJ n, 31, 24⟩
def F.SES_REJ_c32 (n : Nat) : Fld := ⟨R.SES_REJ n, 23, 12⟩
def F.SES_REJ_c16 (n : Nat) : Fld := ⟨R.SES_REJ n, 11, 0⟩
def R.SES_STALE (n : Nat) : Nat := 0x40050028 + n * 0x40
def F.SES_STALE_seq (n : Nat) : Fld := ⟨R.SES_STALE n, 31, 16⟩
def F.SES_STALE_echo (n : Nat) : Fld := ⟨R.SES_STALE n, 15, 0⟩
def R.SES_FTS (n : Nat) : Nat := 0x4005002c + n * 0x40
def F.SES_FTS_ts (n : Nat) : Fld := ⟨R.SES_FTS n, 31, 0⟩
def R.SES_RTS (n : Nat) : Nat := 0x40050030 + n * 0x40
def F.SES_RTS_ts (n : Nat) : Fld := ⟨R.SES_RTS n, 31, 0⟩
def R.SES_EV (n : Nat) : Nat := 0x40050034 + n * 0x40
def F.SES_EV_flt (n : Nat) : Fld := ⟨R.SES_EV n, 1, 1⟩
def F.SES_EV_run (n : Nat) : Fld := ⟨R.SES_EV n, 0, 0⟩
def R.SES_GSTAT : Nat := 0x4005f000
def F.SES_GSTAT_nrun : Fld := ⟨R.SES_GSTAT, 23, 16⟩
def F.SES_GSTAT_nflt : Fld := ⟨R.SES_GSTAT, 15, 8⟩
def F.SES_GSTAT_nuse : Fld := ⟨R.SES_GSTAT, 7, 0⟩
def R.SES_UNK : Nat := 0x4005f004
def F.SES_UNK_cnt : Fld := ⟨R.SES_UNK, 31, 0⟩
def R.SES_QDROP : Nat := 0x4005f008
def F.SES_QDROP_drop : Fld := ⟨R.SES_QDROP, 31, 16⟩
def F.SES_QDROP_qmax : Fld := ⟨R.SES_QDROP, 6, 0⟩
def R.SES_BITS : Nat := 0x4005f00c
def F.SES_BITS_out : Fld := ⟨R.SES_BITS, 31, 16⟩
def F.SES_BITS_in : Fld := ⟨R.SES_BITS, 15, 0⟩
def R.SES_IEN : Nat := 0x4005f010
def F.SES_IEN_flt : Fld := ⟨R.SES_IEN, 1, 1⟩
def F.SES_IEN_run : Fld := ⟨R.SES_IEN, 0, 0⟩
def R.SES_PEND (n : Nat) : Nat := 0x4005f014 + n * 0x4
def F.SES_PEND_s (n : Nat) : Fld := ⟨R.SES_PEND n, 31, 0⟩
def R.NET_PCFG (n : Nat) : Nat := 0x40060000 + n * 0x100
def F.NET_PCFG_en (n : Nat) : Fld := ⟨R.NET_PCFG n, 31, 31⟩
def F.NET_PCFG_rbrk (n : Nat) : Fld := ⟨R.NET_PCFG n, 30, 30⟩
def F.NET_PCFG_fc (n : Nat) : Fld := ⟨R.NET_PCFG n, 29, 28⟩
def F.NET_PCFG_ct (n : Nat) : Fld := ⟨R.NET_PCFG n, 27, 27⟩
def F.NET_PCFG_mfs (n : Nat) : Fld := ⟨R.NET_PCFG n, 26, 26⟩
def F.NET_PCFG_phm (n : Nat) : Fld := ⟨R.NET_PCFG n, 25, 24⟩
def F.NET_PCFG_spd (n : Nat) : Fld := ⟨R.NET_PCFG n, 23, 21⟩
def F.NET_PCFG_pcp (n : Nat) : Fld := ⟨R.NET_PCFG n, 14, 12⟩
def F.NET_PCFG_pvid (n : Nat) : Fld := ⟨R.NET_PCFG n, 11, 0⟩
def R.NET_PSTAT (n : Nat) : Nat := 0x40060004 + n * 0x100
def F.NET_PSTAT_link (n : Nat) : Fld := ⟨R.NET_PSTAT n, 31, 31⟩
def F.NET_PSTAT_speed (n : Nat) : Fld := ⟨R.NET_PSTAT n, 30, 28⟩
def F.NET_PSTAT_role (n : Nat) : Fld := ⟨R.NET_PSTAT n, 27, 26⟩
def F.NET_PSTAT_ascap (n : Nat) : Fld := ⟨R.NET_PSTAT n, 25, 25⟩
def F.NET_PSTAT_pq (n : Nat) : Fld := ⟨R.NET_PSTAT n, 23, 16⟩
def F.NET_PSTAT_pdly (n : Nat) : Fld := ⟨R.NET_PSTAT n, 15, 0⟩
def R.NET_PMAP (n : Nat) : Nat := 0x40060008 + n * 0x100
def F.NET_PMAP_map (n : Nat) : Fld := ⟨R.NET_PMAP n, 23, 0⟩
def R.NET_RXF (n : Nat) : Nat := 0x4006000c + n * 0x100
def F.NET_RXF_cnt (n : Nat) : Fld := ⟨R.NET_RXF n, 31, 0⟩
def R.NET_TXF (n : Nat) : Nat := 0x40060010 + n * 0x100
def F.NET_TXF_cnt (n : Nat) : Fld := ⟨R.NET_TXF n, 31, 0⟩
def R.NET_ERR (n : Nat) : Nat := 0x40060014 + n * 0x100
def F.NET_ERR_rxe (n : Nat) : Fld := ⟨R.NET_ERR n, 31, 16⟩
def F.NET_ERR_cte (n : Nat) : Fld := ⟨R.NET_ERR n, 15, 0⟩
def R.NET_QDROP (n : Nat) : Nat := 0x40060018 + n * 0x100
def F.NET_QDROP_tail (n : Nat) : Fld := ⟨R.NET_QDROP n, 31, 16⟩
def F.NET_QDROP_hdr (n : Nat) : Fld := ⟨R.NET_QDROP n, 15, 8⟩
def F.NET_QDROP_gate (n : Nat) : Fld := ⟨R.NET_QDROP n, 7, 0⟩
def R.NET_FCNT (n : Nat) : Nat := 0x4006001c + n * 0x100
def F.NET_FCNT_rx (n : Nat) : Fld := ⟨R.NET_FCNT n, 31, 16⟩
def F.NET_FCNT_tx (n : Nat) : Fld := ⟨R.NET_FCNT n, 15, 0⟩
def R.NET_GCFG (n : Nat) : Nat := 0x40060020 + n * 0x100
def F.NET_GCFG_en (n : Nat) : Fld := ⟨R.NET_GCFG n, 31, 31⟩
def F.NET_GCFG_commit (n : Nat) : Fld := ⟨R.NET_GCFG n, 30, 30⟩
def F.NET_GCFG_pend (n : Nat) : Fld := ⟨R.NET_GCFG n, 29, 29⟩
def F.NET_GCFG_last (n : Nat) : Fld := ⟨R.NET_GCFG n, 5, 0⟩
def R.NET_GSEL (n : Nat) : Nat := 0x40060024 + n * 0x100
def F.NET_GSEL_idx (n : Nat) : Fld := ⟨R.NET_GSEL n, 5, 0⟩
def R.NET_GENT (n : Nat) : Nat := 0x40060028 + n * 0x100
def F.NET_GENT_gates (n : Nat) : Fld := ⟨R.NET_GENT n, 31, 24⟩
def F.NET_GENT_intv (n : Nat) : Fld := ⟨R.NET_GENT n, 23, 0⟩
def R.NET_CTL : Nat := 0x40060f00
def F.NET_CTL_fwd : Fld := ⟨R.NET_CTL, 31, 31⟩
def F.NET_CTL_ll1 : Fld := ⟨R.NET_CTL, 26, 24⟩
def F.NET_CTL_ll0 : Fld := ⟨R.NET_CTL, 22, 20⟩
def F.NET_CTL_age : Fld := ⟨R.NET_CTL, 15, 0⟩
def R.NET_BUF : Nat := 0x40060f04
def F.NET_BUF_peak : Fld := ⟨R.NET_BUF, 31, 16⟩
def F.NET_BUF_used : Fld := ⟨R.NET_BUF, 15, 0⟩
def R.NET_VSEL : Nat := 0x40060f08
def F.NET_VSEL_idx : Fld := ⟨R.NET_VSEL, 7, 0⟩
def R.NET_VDAT : Nat := 0x40060f0c
def F.NET_VDAT_vld : Fld := ⟨R.NET_VDAT, 31, 31⟩
def F.NET_VDAT_ring : Fld := ⟨R.NET_VDAT, 30, 30⟩
def F.NET_VDAT_mem : Fld := ⟨R.NET_VDAT, 29, 25⟩
def F.NET_VDAT_untag : Fld := ⟨R.NET_VDAT, 24, 20⟩
def F.NET_VDAT_vid : Fld := ⟨R.NET_VDAT, 11, 0⟩
def R.NET_SSEL : Nat := 0x40060f10
def F.NET_SSEL_idx : Fld := ⟨R.NET_SSEL, 5, 0⟩
def R.NET_SDAT0 : Nat := 0x40060f14
def F.NET_SDAT0_mach : Fld := ⟨R.NET_SDAT0, 31, 0⟩
def R.NET_SDAT1 : Nat := 0x40060f18
def F.NET_SDAT1_vld : Fld := ⟨R.NET_SDAT1, 31, 31⟩
def F.NET_SDAT1_pmask : Fld := ⟨R.NET_SDAT1, 20, 16⟩
def F.NET_SDAT1_macl : Fld := ⟨R.NET_SDAT1, 15, 0⟩
def R.NET_MACL : Nat := 0x40060f1c
def F.NET_MACL_mac : Fld := ⟨R.NET_MACL, 31, 0⟩
def R.NET_MACH : Nat := 0x40060f20
def F.NET_MACH_mac : Fld := ⟨R.NET_MACH, 15, 0⟩
def R.NET_IP4 : Nat := 0x40060f24
def F.NET_IP4_addr : Fld := ⟨R.NET_IP4, 31, 0⟩
def R.NET_IP4M : Nat := 0x40060f28
def F.NET_IP4M_plen : Fld := ⟨R.NET_IP4M, 5, 0⟩
def R.NET_GW4 : Nat := 0x40060f2c
def F.NET_GW4_addr : Fld := ⟨R.NET_GW4, 31, 0⟩
def R.NET_TCFG : Nat := 0x40060f30
def F.NET_TCFG_pri1 : Fld := ⟨R.NET_TCFG, 31, 24⟩
def F.NET_TCFG_pri2 : Fld := ⟨R.NET_TCFG, 23, 16⟩
def F.NET_TCFG_gmc : Fld := ⟨R.NET_TCFG, 15, 15⟩
def F.NET_TCFG_dom : Fld := ⟨R.NET_TCFG, 14, 8⟩
def F.NET_TCFG_lsi : Fld := ⟨R.NET_TCFG, 3, 0⟩
def R.NET_TSTAT : Nat := 0x40060f34
def F.NET_TSTAT_sync : Fld := ⟨R.NET_TSTAT, 31, 31⟩
def F.NET_TSTAT_gm : Fld := ⟨R.NET_TSTAT, 30, 30⟩
def F.NET_TSTAT_sport : Fld := ⟨R.NET_TSTAT, 29, 27⟩
def F.NET_TSTAT_offs : Fld := ⟨R.NET_TSTAT, 15, 0⟩
def R.NET_TNS : Nat := 0x40060f38
def F.NET_TNS_ns : Fld := ⟨R.NET_TNS, 31, 0⟩
def R.NET_TSECL : Nat := 0x40060f3c
def F.NET_TSECL_sec : Fld := ⟨R.NET_TSECL, 31, 0⟩
def R.NET_TSECH : Nat := 0x40060f40
def F.NET_TSECH_sec : Fld := ⟨R.NET_TSECH, 15, 0⟩
def R.NET_FRER : Nat := 0x40060f44
def F.NET_FRER_disc : Fld := ⟨R.NET_FRER, 31, 16⟩
def F.NET_FRER_rogue : Fld := ⟨R.NET_FRER, 15, 0⟩
def R.NET_NUNR : Nat := 0x40060f48
def F.NET_NUNR_unr : Fld := ⟨R.NET_NUNR, 7, 0⟩
def R.NET_EV : Nat := 0x40060f4c
def F.NET_EV_qdrop : Fld := ⟨R.NET_EV, 7, 7⟩
def F.NET_EV_unr : Fld := ⟨R.NET_EV, 6, 6⟩
def F.NET_EV_sync : Fld := ⟨R.NET_EV, 5, 5⟩
def F.NET_EV_link : Fld := ⟨R.NET_EV, 4, 0⟩
def R.NET_EVEN : Nat := 0x40060f50
def F.NET_EVEN_en : Fld := ⟨R.NET_EVEN, 7, 0⟩
def R.MST_CFG (n : Nat) : Nat := 0x40070000 + n * 0x20
def F.MST_CFG_stid (n : Nat) : Fld := ⟨R.MST_CFG n, 31, 16⟩
def F.MST_CFG_pmask (n : Nat) : Fld := ⟨R.MST_CFG n, 15, 11⟩
def F.MST_CFG_dec (n : Nat) : Fld := ⟨R.MST_CFG n, 7, 4⟩
def F.MST_CFG_qty (n : Nat) : Fld := ⟨R.MST_CFG n, 1, 0⟩
def R.MST_CMLO (n : Nat) : Nat := 0x40070004 + n * 0x20
def F.MST_CMLO_cmask (n : Nat) : Fld := ⟨R.MST_CMLO n, 31, 0⟩
def R.MST_CMHI (n : Nat) : Nat := 0x40070008 + n * 0x20
def F.MST_CMHI_cmask (n : Nat) : Fld := ⟨R.MST_CMHI n, 15, 0⟩
def R.MST_NSET (n : Nat) : Nat := 0x4007000c + n * 0x20
def F.MST_NSET_m (n : Nat) : Fld := ⟨R.MST_NSET n, 22, 16⟩
def F.MST_NSET_nset (n : Nat) : Fld := ⟨R.MST_NSET n, 8, 0⟩
def R.MST_FRM (n : Nat) : Nat := 0x40070010 + n * 0x20
def F.MST_FRM_cnt (n : Nat) : Fld := ⟨R.MST_FRM n, 31, 0⟩
def R.MST_RATE (n : Nat) : Nat := 0x40070014 + n * 0x20
def F.MST_RATE_kbps (n : Nat) : Fld := ⟨R.MST_RATE n, 31, 0⟩
def R.MST_STAT : Nat := 0x40070f00
def F.MST_STAT_run : Fld := ⟨R.MST_STAT, 31, 31⟩
def F.MST_STAT_sync : Fld := ⟨R.MST_STAT, 30, 30⟩
def F.MST_STAT_nstr : Fld := ⟨R.MST_STAT, 3, 0⟩
def R.MST_TOT : Nat := 0x40070f04
def F.MST_TOT_kbps : Fld := ⟨R.MST_TOT, 31, 0⟩
def R.MST_EV : Nat := 0x40070f08
def F.MST_EV_run : Fld := ⟨R.MST_EV, 0, 0⟩
def R.MST_EVEN : Nat := 0x40070f0c
def F.MST_EVEN_en : Fld := ⟨R.MST_EVEN, 0, 0⟩
def R.TND_STAT : Nat := 0x40080000
def F.TND_STAT_mode : Fld := ⟨R.TND_STAT, 31, 30⟩
def F.TND_STAT_spend : Fld := ⟨R.TND_STAT, 29, 29⟩
def F.TND_STAT_mpend : Fld := ⟨R.TND_STAT, 28, 28⟩
def F.TND_STAT_ddlarm : Fld := ⟨R.TND_STAT, 27, 27⟩
def R.TND_SPLIT : Nat := 0x40080004
def F.TND_SPLIT_go : Fld := ⟨R.TND_SPLIT, 31, 31⟩
def F.TND_SPLIT_bud : Fld := ⟨R.TND_SPLIT, 7, 0⟩
def R.TND_SENT : Nat := 0x40080008
def F.TND_SENT_addr : Fld := ⟨R.TND_SENT, 31, 0⟩
def R.TND_SBANK : Nat := 0x4008000c
def F.TND_SBANK_mask : Fld := ⟨R.TND_SBANK, 15, 0⟩
def R.TND_MERGE : Nat := 0x40080010
def F.TND_MERGE_go : Fld := ⟨R.TND_MERGE, 31, 31⟩
def R.TND_STIME : Nat := 0x40080014
def F.TND_STIME_s : Fld := ⟨R.TND_STIME, 31, 0⟩
def R.TND_SDUR : Nat := 0x40080018
def F.TND_SDUR_last : Fld := ⟨R.TND_SDUR, 31, 0⟩
def R.TND_SMAX : Nat := 0x4008001c
def F.TND_SMAX_max : Fld := ⟨R.TND_SMAX, 31, 0⟩
def R.TND_SCNT : Nat := 0x40080020
def F.TND_SCNT_splits : Fld := ⟨R.TND_SCNT, 31, 16⟩
def F.TND_SCNT_merges : Fld := ⟨R.TND_SCNT, 15, 0⟩
def R.TND_DDL : Nat := 0x40080024
def F.TND_DDL_ms : Fld := ⟨R.TND_DDL, 9, 0⟩
def R.TND_KICK : Nat := 0x40080028
def F.TND_KICK_code : Fld := ⟨R.TND_KICK, 7, 0⟩
def R.TND_DDLR : Nat := 0x4008002c
def F.TND_DDLR_rem : Fld := ⟨R.TND_DDLR, 19, 0⟩
def R.TND_MTIMEL : Nat := 0x40080030
def F.TND_MTIMEL_t : Fld := ⟨R.TND_MTIMEL, 31, 0⟩
def R.TND_MTIMEH : Nat := 0x40080034
def F.TND_MTIMEH_t : Fld := ⟨R.TND_MTIMEH, 31, 0⟩
def R.TND_MTCMPL : Nat := 0x40080038
def F.TND_MTCMPL_c : Fld := ⟨R.TND_MTCMPL, 31, 0⟩
def R.TND_MTCMPH : Nat := 0x4008003c
def F.TND_MTCMPH_c : Fld := ⟨R.TND_MTCMPH, 31, 0⟩
def R.TND_IPEND : Nat := 0x40080040
def F.TND_IPEND_line : Fld := ⟨R.TND_IPEND, 13, 0⟩
def R.TND_IEN : Nat := 0x40080044
def F.TND_IEN_en : Fld := ⟨R.TND_IEN, 13, 0⟩
def R.TND_MSIP : Nat := 0x40080048
def F.TND_MSIP_msip : Fld := ⟨R.TND_MSIP, 0, 0⟩
def R.TND_HMBX : Nat := 0x4008004c
def F.TND_HMBX_msg : Fld := ⟨R.TND_HMBX, 31, 0⟩
def R.TND_PMBX : Nat := 0x40080050
def F.TND_PMBX_msg : Fld := ⟨R.TND_PMBX, 31, 0⟩
def R.TND_CMBX : Nat := 0x40080054
def F.TND_CMBX_msg : Fld := ⟨R.TND_CMBX, 31, 0⟩
def R.TND_LSE : Nat := 0x40080058
def F.TND_LSE_vld : Fld := ⟨R.TND_LSE, 31, 31⟩
def F.TND_LSE_cls : Fld := ⟨R.TND_LSE, 30, 28⟩
def R.TND_LSTS : Nat := 0x4008005c
def F.TND_LSTS_ts : Fld := ⟨R.TND_LSTS, 31, 0⟩
def R.TND_DBG : Nat := 0x40080060
def F.TND_DBG_fuse : Fld := ⟨R.TND_DBG, 31, 31⟩
def F.TND_DBG_sw1 : Fld := ⟨R.TND_DBG, 30, 30⟩
def F.TND_DBG_ener : Fld := ⟨R.TND_DBG, 29, 29⟩
def F.TND_DBG_perm : Fld := ⟨R.TND_DBG, 28, 28⟩
def F.TND_DBG_act : Fld := ⟨R.TND_DBG, 27, 27⟩
def F.TND_DBG_halt : Fld := ⟨R.TND_DBG, 26, 26⟩
def F.TND_DBG_drops : Fld := ⟨R.TND_DBG, 7, 0⟩
def R.TND_EV : Nat := 0x40080064
def F.TND_EV_kbad : Fld := ⟨R.TND_EV, 6, 6⟩
def F.TND_EV_drop : Fld := ⟨R.TND_EV, 5, 5⟩
def F.TND_EV_cmbx : Fld := ⟨R.TND_EV, 4, 4⟩
def F.TND_EV_sto : Fld := ⟨R.TND_EV, 3, 3⟩
def F.TND_EV_bwarn : Fld := ⟨R.TND_EV, 2, 2⟩
def F.TND_EV_mdone : Fld := ⟨R.TND_EV, 1, 1⟩
def F.TND_EV_sdone : Fld := ⟨R.TND_EV, 0, 0⟩
def R.TND_EVEN : Nat := 0x40080068
def F.TND_EVEN_en : Fld := ⟨R.TND_EVEN, 6, 0⟩
def R.EDC_CFG : Nat := 0x40090000
def F.EDC_CFG_thr : Fld := ⟨R.EDC_CFG, 23, 16⟩
def F.EDC_CFG_pdl : Fld := ⟨R.EDC_CFG, 15, 0⟩
def R.EDC_LOCK : Nat := 0x40090004
def F.EDC_LOCK_lock : Fld := ⟨R.EDC_LOCK, 0, 0⟩
def R.EDC_CCFG : Nat := 0x40090008
def F.EDC_CCFG_t : Fld := ⟨R.EDC_CCFG, 1, 0⟩
def R.EDC_SREG (n : Nat) : Nat := 0x40090010 + n * 0x4
def F.EDC_SREG_en (n : Nat) : Fld := ⟨R.EDC_SREG n, 31, 31⟩
def F.EDC_SREG_top (n : Nat) : Fld := ⟨R.EDC_SREG n, 24, 16⟩
def F.EDC_SREG_base (n : Nat) : Fld := ⟨R.EDC_SREG n, 7, 0⟩
def R.EDC_STAT : Nat := 0x40090020
def F.EDC_STAT_vclr : Fld := ⟨R.EDC_STAT, 31, 31⟩
def F.EDC_STAT_lock : Fld := ⟨R.EDC_STAT, 30, 30⟩
def F.EDC_STAT_nlog : Fld := ⟨R.EDC_STAT, 4, 0⟩
def R.EDC_EV : Nat := 0x40090024
def F.EDC_EV_rmdone : Fld := ⟨R.EDC_EV, 6, 6⟩
def F.EDC_EV_scdone : Fld := ⟨R.EDC_EV, 5, 5⟩
def F.EDC_EV_ovf : Fld := ⟨R.EDC_EV, 4, 4⟩
def F.EDC_EV_ue : Fld := ⟨R.EDC_EV, 3, 3⟩
def F.EDC_EV_hard : Fld := ⟨R.EDC_EV, 2, 2⟩
def F.EDC_EV_pers : Fld := ⟨R.EDC_EV, 1, 1⟩
def F.EDC_EV_ce : Fld := ⟨R.EDC_EV, 0, 0⟩
def R.EDC_EVEN : Nat := 0x40090028
def F.EDC_EVEN_en : Fld := ⟨R.EDC_EVEN, 6, 0⟩
def R.EDC_LSEL : Nat := 0x40090030
def F.EDC_LSEL_idx : Fld := ⟨R.EDC_LSEL, 3, 0⟩
def R.EDC_LADDR : Nat := 0x40090034
def F.EDC_LADDR_addr : Fld := ⟨R.EDC_LADDR, 31, 0⟩
def R.EDC_LINFO : Nat := 0x40090038
def F.EDC_LINFO_vld : Fld := ⟨R.EDC_LINFO, 31, 31⟩
def F.EDC_LINFO_mem : Fld := ⟨R.EDC_LINFO, 30, 28⟩
def F.EDC_LINFO_cls : Fld := ⟨R.EDC_LINFO, 27, 25⟩
def F.EDC_LINFO_ws : Fld := ⟨R.EDC_LINFO, 24, 24⟩
def F.EDC_LINFO_pers : Fld := ⟨R.EDC_LINFO, 23, 23⟩
def F.EDC_LINFO_hard : Fld := ⟨R.EDC_LINFO, 22, 22⟩
def F.EDC_LINFO_ret : Fld := ⟨R.EDC_LINFO, 21, 21⟩
def F.EDC_LINFO_srel : Fld := ⟨R.EDC_LINFO, 20, 20⟩
def F.EDC_LINFO_dlrun : Fld := ⟨R.EDC_LINFO, 19, 19⟩
def F.EDC_LINFO_cnt : Fld := ⟨R.EDC_LINFO, 7, 0⟩
def R.EDC_LFTS : Nat := 0x4009003c
def F.EDC_LFTS_ts : Fld := ⟨R.EDC_LFTS, 31, 0⟩
def R.EDC_LLTS : Nat := 0x40090040
def F.EDC_LLTS_ts : Fld := ⟨R.EDC_LLTS, 31, 0⟩
def R.EDC_LDL : Nat := 0x40090044
def F.EDC_LDL_end : Fld := ⟨R.EDC_LDL, 31, 0⟩
def R.EDC_LREL : Nat := 0x40090048
def F.EDC_LREL_go : Fld := ⟨R.EDC_LREL, 31, 31⟩
def F.EDC_LREL_idx : Fld := ⟨R.EDC_LREL, 3, 0⟩
def R.EDC_LOVF : Nat := 0x4009004c
def F.EDC_LOVF_cnt : Fld := ⟨R.EDC_LOVF, 31, 0⟩
def R.EDC_UEADDR : Nat := 0x40090050
def F.EDC_UEADDR_addr : Fld := ⟨R.EDC_UEADDR, 31, 0⟩
def R.EDC_UEINFO : Nat := 0x40090054
def F.EDC_UEINFO_vld : Fld := ⟨R.EDC_UEINFO, 31, 31⟩
def F.EDC_UEINFO_mem : Fld := ⟨R.EDC_UEINFO, 30, 28⟩
def F.EDC_UEINFO_cls : Fld := ⟨R.EDC_UEINFO, 27, 25⟩
def F.EDC_UEINFO_srel : Fld := ⟨R.EDC_UEINFO, 24, 24⟩
def F.EDC_UEINFO_cnt : Fld := ⟨R.EDC_UEINFO, 15, 0⟩
def R.EDC_UETS : Nat := 0x40090058
def F.EDC_UETS_ts : Fld := ⟨R.EDC_UETS, 31, 0⟩
def R.EDC_SCCTL : Nat := 0x40090060
def F.EDC_SCCTL_go : Fld := ⟨R.EDC_SCCTL, 31, 31⟩
def F.EDC_SCCTL_busy : Fld := ⟨R.EDC_SCCTL, 30, 30⟩
def F.EDC_SCCTL_abort : Fld := ⟨R.EDC_SCCTL, 29, 29⟩
def F.EDC_SCCTL_mode : Fld := ⟨R.EDC_SCCTL, 28, 28⟩
def F.EDC_SCCTL_tgt : Fld := ⟨R.EDC_SCCTL, 27, 26⟩
def R.EDC_SCBASE : Nat := 0x40090064
def F.EDC_SCBASE_addr : Fld := ⟨R.EDC_SCBASE, 31, 0⟩
def R.EDC_SCEND : Nat := 0x40090068
def F.EDC_SCEND_addr : Fld := ⟨R.EDC_SCEND, 31, 0⟩
def R.EDC_SCCHK : Nat := 0x4009006c
def F.EDC_SCCHK_cnt : Fld := ⟨R.EDC_SCCHK, 31, 0⟩
def R.EDC_SCCOR : Nat := 0x40090070
def F.EDC_SCCOR_cnt : Fld := ⟨R.EDC_SCCOR, 31, 0⟩
def R.EDC_SCUNC : Nat := 0x40090074
def F.EDC_SCUNC_cnt : Fld := ⟨R.EDC_SCUNC, 31, 0⟩
def R.EDC_SCFUA : Nat := 0x40090078
def F.EDC_SCFUA_addr : Fld := ⟨R.EDC_SCFUA, 31, 0⟩
def R.EDC_SCSTAT : Nat := 0x4009007c
def F.EDC_SCSTAT_done : Fld := ⟨R.EDC_SCSTAT, 31, 31⟩
def F.EDC_SCSTAT_fvld : Fld := ⟨R.EDC_SCSTAT, 30, 30⟩
def F.EDC_SCSTAT_abrt : Fld := ⟨R.EDC_SCSTAT, 29, 29⟩
def R.EDC_SCINV : Nat := 0x40090080
def F.EDC_SCINV_cnt : Fld := ⟨R.EDC_SCINV, 31, 0⟩
def R.EDC_REMAP : Nat := 0x40090084
def F.EDC_REMAP_go : Fld := ⟨R.EDC_REMAP, 31, 31⟩
def F.EDC_REMAP_busy : Fld := ⟨R.EDC_REMAP, 30, 30⟩
def F.EDC_REMAP_done : Fld := ⟨R.EDC_REMAP, 29, 29⟩
def F.EDC_REMAP_fail : Fld := ⟨R.EDC_REMAP, 28, 28⟩
def F.EDC_REMAP_bank : Fld := ⟨R.EDC_REMAP, 19, 16⟩
def R.CSK_STAT : Nat := 0x400a0000
def F.CSK_STAT_rdy : Fld := ⟨R.CSK_STAT, 31, 31⟩
def F.CSK_STAT_rack : Fld := ⟨R.CSK_STAT, 30, 30⟩
def F.CSK_STAT_pfw : Fld := ⟨R.CSK_STAT, 29, 29⟩
def F.CSK_STAT_full : Fld := ⟨R.CSK_STAT, 28, 28⟩
def F.CSK_STAT_nocal : Fld := ⟨R.CSK_STAT, 27, 27⟩
def F.CSK_STAT_fail : Fld := ⟨R.CSK_STAT, 26, 26⟩
def F.CSK_STAT_fill : Fld := ⟨R.CSK_STAT, 9, 0⟩
def R.CSK_EPOCH : Nat := 0x400a0004
def F.CSK_EPOCH_epoch : Fld := ⟨R.CSK_EPOCH, 31, 0⟩
def R.CSK_BOOT : Nat := 0x400a0008
def F.CSK_BOOT_boot : Fld := ⟨R.CSK_BOOT, 31, 0⟩
def R.CSK_PAGES : Nat := 0x400a000c
def F.CSK_PAGES_used : Fld := ⟨R.CSK_PAGES, 31, 16⟩
def F.CSK_PAGES_usable : Fld := ⟨R.CSK_PAGES, 15, 0⟩
def R.CSK_RCFG : Nat := 0x400a0010
def F.CSK_RCFG_fill : Fld := ⟨R.CSK_RCFG, 6, 0⟩
def R.CSK_CMD : Nat := 0x400a0014
def F.CSK_CMD_go : Fld := ⟨R.CSK_CMD, 31, 31⟩
def F.CSK_CMD_busy : Fld := ⟨R.CSK_CMD, 30, 30⟩
def F.CSK_CMD_err : Fld := ⟨R.CSK_CMD, 27, 24⟩
def F.CSK_CMD_op : Fld := ⟨R.CSK_CMD, 19, 16⟩
def R.CSK_SADDR : Nat := 0x400a0018
def F.CSK_SADDR_addr : Fld := ⟨R.CSK_SADDR, 31, 0⟩
def R.CSK_RHDR : Nat := 0x400a001c
def F.CSK_RHDR_type : Fld := ⟨R.CSK_RHDR, 23, 16⟩
def F.CSK_RHDR_len : Fld := ⟨R.CSK_RHDR, 10, 0⟩
def R.CSK_PAGE : Nat := 0x400a0020
def F.CSK_PAGE_page : Fld := ⟨R.CSK_PAGE, 12, 0⟩
def R.CSK_RKEY : Nat := 0x400a0024
def F.CSK_RKEY_key : Fld := ⟨R.CSK_RKEY, 31, 0⟩
def R.CSK_RGEN : Nat := 0x400a0028
def F.CSK_RGEN_gen : Fld := ⟨R.CSK_RGEN, 31, 0⟩
def R.CSK_RLOC : Nat := 0x400a002c
def F.CSK_RLOC_addr : Fld := ⟨R.CSK_RLOC, 31, 0⟩
def R.CSK_EVQ : Nat := 0x400a0030
def F.CSK_EVQ_lost : Fld := ⟨R.CSK_EVQ, 31, 16⟩
def F.CSK_EVQ_max : Fld := ⟨R.CSK_EVQ, 15, 8⟩
def F.CSK_EVQ_depth : Fld := ⟨R.CSK_EVQ, 7, 0⟩
def R.CSK_LEES : Nat := 0x400a0034
def F.CSK_LEES_cnt : Fld := ⟨R.CSK_LEES, 8, 0⟩
def R.CSK_CAL : Nat := 0x400a0038
def F.CSK_CAL_vld : Fld := ⟨R.CSK_CAL, 31, 31⟩
def F.CSK_CAL_src : Fld := ⟨R.CSK_CAL, 30, 29⟩
def F.CSK_CAL_gen : Fld := ⟨R.CSK_CAL, 15, 0⟩
def R.CSK_CALCFG : Nat := 0x400a003c
def F.CSK_CALCFG_gt : Fld := ⟨R.CSK_CALCFG, 13, 8⟩
def F.CSK_CALCFG_gb : Fld := ⟨R.CSK_CALCFG, 5, 0⟩
def R.CSK_ACC : Nat := 0x400a0040
def F.CSK_ACC_vld : Fld := ⟨R.CSK_ACC, 31, 31⟩
def F.CSK_ACC_new : Fld := ⟨R.CSK_ACC, 30, 30⟩
def F.CSK_ACC_slot : Fld := ⟨R.CSK_ACC, 25, 24⟩
def F.CSK_ACC_fp : Fld := ⟨R.CSK_ACC, 15, 0⟩
def R.CSK_RTIME : Nat := 0x400a0044
def F.CSK_RTIME_us : Fld := ⟨R.CSK_RTIME, 31, 0⟩
def R.CSK_LOST : Nat := 0x400a0048
def F.CSK_LOST_rec : Fld := ⟨R.CSK_LOST, 31, 16⟩
def F.CSK_LOST_torn : Fld := ⟨R.CSK_LOST, 15, 0⟩
def R.CSK_EV : Nat := 0x400a004c
def F.CSK_EV_evlost : Fld := ⟨R.CSK_EV, 5, 5⟩
def F.CSK_EV_full : Fld := ⟨R.CSK_EV, 4, 4⟩
def F.CSK_EV_pfw : Fld := ⟨R.CSK_EV, 3, 3⟩
def F.CSK_EV_rdone : Fld := ⟨R.CSK_EV, 2, 2⟩
def F.CSK_EV_cerr : Fld := ⟨R.CSK_EV, 1, 1⟩
def F.CSK_EV_cdone : Fld := ⟨R.CSK_EV, 0, 0⟩
def R.CSK_EVEN : Nat := 0x400a0050
def F.CSK_EVEN_en : Fld := ⟨R.CSK_EVEN, 5, 0⟩
def R.OTP_STAT : Nat := 0x400b0000
def F.OTP_STAT_rd : Fld := ⟨R.OTP_STAT, 31, 31⟩
def F.OTP_STAT_ia : Fld := ⟨R.OTP_STAT, 30, 30⟩
def F.OTP_STAT_ma : Fld := ⟨R.OTP_STAT, 29, 29⟩
def F.OTP_STAT_pbusy : Fld := ⟨R.OTP_STAT, 28, 28⟩
def R.OTP_GSTAT : Nat := 0x400b0004
def F.OTP_GSTAT_st : Fld := ⟨R.OTP_GSTAT, 17, 0⟩
def R.OTP_ALARM : Nat := 0x400b0008
def F.OTP_ALARM_mrg : Fld := ⟨R.OTP_ALARM, 24, 16⟩
def F.OTP_ALARM_integ : Fld := ⟨R.OTP_ALARM, 8, 0⟩
def R.OTP_LOCK : Nat := 0x400b000c
def F.OTP_LOCK_lock : Fld := ⟨R.OTP_LOCK, 8, 0⟩
def R.OTP_USE : Nat := 0x400b0010
def F.OTP_USE_cust : Fld := ⟨R.OTP_USE, 5, 4⟩
def F.OTP_USE_trim : Fld := ⟨R.OTP_USE, 3, 2⟩
def F.OTP_USE_id : Fld := ⟨R.OTP_USE, 1, 0⟩
def R.OTP_POL : Nat := 0x400b0014
def F.OTP_POL_restr : Fld := ⟨R.OTP_POL, 31, 31⟩
def F.OTP_POL_sgn : Fld := ⟨R.OTP_POL, 2, 2⟩
def F.OTP_POL_twf : Fld := ⟨R.OTP_POL, 1, 1⟩
def F.OTP_POL_dbd : Fld := ⟨R.OTP_POL, 0, 0⟩
def R.OTP_LEVEL : Nat := 0x400b0018
def F.OTP_LEVEL_inv : Fld := ⟨R.OTP_LEVEL, 31, 31⟩
def F.OTP_LEVEL_lvl : Fld := ⟨R.OTP_LEVEL, 7, 0⟩
def R.OTP_DEVL : Nat := 0x400b001c
def F.OTP_DEVL_id : Fld := ⟨R.OTP_DEVL, 31, 0⟩
def R.OTP_DEVH : Nat := 0x400b0020
def F.OTP_DEVH_id : Fld := ⟨R.OTP_DEVH, 31, 0⟩
def R.OTP_SER : Nat := 0x400b0024
def F.OTP_SER_ser : Fld := ⟨R.OTP_SER, 31, 0⟩
def R.OTP_MFG : Nat := 0x400b0028
def F.OTP_MFG_mfg : Fld := ⟨R.OTP_MFG, 31, 0⟩
def R.OTP_PCMD : Nat := 0x400b0040
def F.OTP_PCMD_go : Fld := ⟨R.OTP_PCMD, 31, 31⟩
def F.OTP_PCMD_busy : Fld := ⟨R.OTP_PCMD, 30, 30⟩
def F.OTP_PCMD_res : Fld := ⟨R.OTP_PCMD, 27, 24⟩
def F.OTP_PCMD_op : Fld := ⟨R.OTP_PCMD, 19, 16⟩
def F.OTP_PCMD_idx : Fld := ⟨R.OTP_PCMD, 15, 12⟩
def F.OTP_PCMD_lvl : Fld := ⟨R.OTP_PCMD, 7, 0⟩
def R.OTP_PSRC : Nat := 0x400b0044
def F.OTP_PSRC_addr : Fld := ⟨R.OTP_PSRC, 31, 0⟩
def R.OTP_PRES : Nat := 0x400b0048
def F.OTP_PRES_gvld : Fld := ⟨R.OTP_PRES, 31, 31⟩
def F.OTP_PRES_word : Fld := ⟨R.OTP_PRES, 24, 16⟩
def F.OTP_PRES_blown : Fld := ⟨R.OTP_PRES, 12, 0⟩
def R.OTP_RSEL : Nat := 0x400b0050
def F.OTP_RSEL_word : Fld := ⟨R.OTP_RSEL, 8, 0⟩
def R.OTP_RNRM : Nat := 0x400b0054
def F.OTP_RNRM_v : Fld := ⟨R.OTP_RNRM, 31, 0⟩
def R.OTP_RSTR : Nat := 0x400b0058
def F.OTP_RSTR_v : Fld := ⟨R.OTP_RSTR, 31, 0⟩
def R.OTP_EV : Nat := 0x400b005c
def F.OTP_EV_perr : Fld := ⟨R.OTP_EV, 2, 2⟩
def F.OTP_EV_pdone : Fld := ⟨R.OTP_EV, 1, 1⟩
def F.OTP_EV_alarm : Fld := ⟨R.OTP_EV, 0, 0⟩
def R.OTP_EVEN : Nat := 0x400b0060
def F.OTP_EVEN_en : Fld := ⟨R.OTP_EVEN, 2, 0⟩
def R.BST_STAT : Nat := 0x400c0000
def F.BST_STAT_run : Fld := ⟨R.BST_STAT, 31, 31⟩
def F.BST_STAT_pass0 : Fld := ⟨R.BST_STAT, 30, 30⟩
def F.BST_STAT_over1s : Fld := ⟨R.BST_STAT, 29, 29⟩
def F.BST_STAT_defer : Fld := ⟨R.BST_STAT, 28, 28⟩
def F.BST_STAT_k : Fld := ⟨R.BST_STAT, 14, 12⟩
def F.BST_STAT_slice : Fld := ⟨R.BST_STAT, 4, 0⟩
def R.BST_SLA : Nat := 0x400c0004
def F.BST_SLA_id : Fld := ⟨R.BST_SLA, 31, 28⟩
def F.BST_SLA_cov : Fld := ⟨R.BST_SLA, 23, 14⟩
def F.BST_SLA_steps : Fld := ⟨R.BST_SLA, 13, 11⟩
def F.BST_SLA_dur : Fld := ⟨R.BST_SLA, 10, 0⟩
def R.BST_SLB : Nat := 0x400c0008
def F.BST_SLB_id : Fld := ⟨R.BST_SLB, 31, 28⟩
def F.BST_SLB_cov : Fld := ⟨R.BST_SLB, 23, 14⟩
def F.BST_SLB_steps : Fld := ⟨R.BST_SLB, 13, 11⟩
def F.BST_SLB_dur : Fld := ⟨R.BST_SLB, 10, 0⟩
def R.BST_SLTS : Nat := 0x400c000c
def F.BST_SLTS_ts : Fld := ⟨R.BST_SLTS, 31, 0⟩
def R.BST_PASS : Nat := 0x400c0010
def F.BST_PASS_cnt : Fld := ⟨R.BST_PASS, 31, 16⟩
def F.BST_PASS_step : Fld := ⟨R.BST_PASS, 15, 0⟩
def R.BST_PTIME : Nat := 0x400c0014
def F.BST_PTIME_us : Fld := ⟨R.BST_PTIME, 31, 0⟩
def R.BST_TDL : Nat := 0x400c0018
def F.BST_TDL_us : Fld := ⟨R.BST_TDL, 31, 0⟩
def R.BST_ORD0 : Nat := 0x400c0020
def F.BST_ORD0_ord : Fld := ⟨R.BST_ORD0, 31, 0⟩
def R.BST_ORD1 : Nat := 0x400c0024
def F.BST_ORD1_ord : Fld := ⟨R.BST_ORD1, 31, 0⟩
def R.BST_FAIL : Nat := 0x400c0028
def F.BST_FAIL_vld : Fld := ⟨R.BST_FAIL, 31, 31⟩
def F.BST_FAIL_lane : Fld := ⟨R.BST_FAIL, 30, 30⟩
def F.BST_FAIL_cause : Fld := ⟨R.BST_FAIL, 23, 16⟩
def F.BST_FAIL_where : Fld := ⟨R.BST_FAIL, 13, 0⟩
def R.BST_FTS : Nat := 0x400c002c
def F.BST_FTS_ts : Fld := ⟨R.BST_FTS, 31, 0⟩
def R.BST_SU : Nat := 0x400c0030
def F.BST_SU_done : Fld := ⟨R.BST_SU, 31, 31⟩
def F.BST_SU_ok : Fld := ⟨R.BST_SU, 5, 0⟩
def R.BST_SUT : Nat := 0x400c0034
def F.BST_SUT_us : Fld := ⟨R.BST_SUT, 31, 0⟩
def R.BST_FEX : Nat := 0x400c0038
def F.BST_FEX_cnt : Fld := ⟨R.BST_FEX, 31, 16⟩
def F.BST_FEX_last : Fld := ⟨R.BST_FEX, 5, 0⟩
def R.BST_ODEFLO : Nat := 0x400c003c
def F.BST_ODEFLO_d : Fld := ⟨R.BST_ODEFLO, 31, 0⟩
def R.BST_ODEFHI : Nat := 0x400c0040
def F.BST_ODEFHI_d : Fld := ⟨R.BST_ODEFHI, 15, 0⟩
def R.BST_EV : Nat := 0x400c0044
def F.BST_EV_odone : Fld := ⟨R.BST_EV, 2, 2⟩
def F.BST_EV_ordrej : Fld := ⟨R.BST_EV, 1, 1⟩
def F.BST_EV_pdone : Fld := ⟨R.BST_EV, 0, 0⟩
def R.BST_EVEN : Nat := 0x400c0048
def F.BST_EVEN_en : Fld := ⟨R.BST_EVEN, 2, 0⟩
def R.SYS_STATE : Nat := 0x40000000
def F.SYS_STATE_split : Fld := ⟨R.SYS_STATE, 8, 8⟩
def F.SYS_STATE_state : Fld := ⟨R.SYS_STATE, 3, 0⟩
def R.SYS_FAULT : Nat := 0x40000004
def F.SYS_FAULT_vld : Fld := ⟨R.SYS_FAULT, 31, 31⟩
def F.SYS_FAULT_inrun : Fld := ⟨R.SYS_FAULT, 30, 30⟩
def F.SYS_FAULT_cause : Fld := ⟨R.SYS_FAULT, 7, 0⟩
def R.SYS_FTS : Nat := 0x40000008
def F.SYS_FTS_ts : Fld := ⟨R.SYS_FTS, 31, 0⟩
def R.SYS_RCAUSE : Nat := 0x4000000c
def F.SYS_RCAUSE_reqh : Fld := ⟨R.SYS_RCAUSE, 3, 3⟩
def F.SYS_RCAUSE_reqp : Fld := ⟨R.SYS_RCAUSE, 2, 2⟩
def F.SYS_RCAUSE_pin : Fld := ⟨R.SYS_RCAUSE, 1, 1⟩
def F.SYS_RCAUSE_por : Fld := ⟨R.SYS_RCAUSE, 0, 0⟩
def R.SYS_STRAP : Nat := 0x40000010
def F.SYS_STRAP_bm1 : Fld := ⟨R.SYS_STRAP, 1, 1⟩
def F.SYS_STRAP_bm0 : Fld := ⟨R.SYS_STRAP, 0, 0⟩
def R.SYS_RST : Nat := 0x40000014
def F.SYS_RST_code : Fld := ⟨R.SYS_RST, 7, 0⟩
def R.SYS_SUT : Nat := 0x40000018
def F.SYS_SUT_us : Fld := ⟨R.SYS_SUT, 31, 0⟩
def R.SYS_FWVER : Nat := 0x4000001c
def F.SYS_FWVER_ver : Fld := ⟨R.SYS_FWVER, 31, 0⟩
def R.SYS_FWSTAT : Nat := 0x40000020
def F.SYS_FWSTAT_vld : Fld := ⟨R.SYS_FWSTAT, 31, 31⟩
def F.SYS_FWSTAT_src : Fld := ⟨R.SYS_FWSTAT, 30, 30⟩
def F.SYS_FWSTAT_len : Fld := ⟨R.SYS_FWSTAT, 17, 0⟩
def R.SYS_EV : Nat := 0x40000024
def F.SYS_EV_rstrej : Fld := ⟨R.SYS_EV, 2, 2⟩
def F.SYS_EV_flt : Fld := ⟨R.SYS_EV, 1, 1⟩
def F.SYS_EV_stch : Fld := ⟨R.SYS_EV, 0, 0⟩
def R.SYS_EVEN : Nat := 0x40000028
def F.SYS_EVEN_en : Fld := ⟨R.SYS_EVEN, 2, 0⟩
def R.SYS_HIEN : Nat := 0x40000040
def F.SYS_HIEN_mbx : Fld := ⟨R.SYS_HIEN, 31, 31⟩
def F.SYS_HIEN_line : Fld := ⟨R.SYS_HIEN, 13, 0⟩
def R.SYS_HIPEND : Nat := 0x40000044
def F.SYS_HIPEND_mbx : Fld := ⟨R.SYS_HIPEND, 31, 31⟩
def F.SYS_HIPEND_line : Fld := ⟨R.SYS_HIPEND, 13, 0⟩
def R.SYS_HWIN : Nat := 0x40000048
def F.SYS_HWIN_base : Fld := ⟨R.SYS_HWIN, 31, 16⟩
def R.SYS_HSTAT : Nat := 0x4000004c
def F.SYS_HSTAT_crce : Fld := ⟨R.SYS_HSTAT, 31, 16⟩
def F.SYS_HSTAT_abrt : Fld := ⟨R.SYS_HSTAT, 15, 8⟩
def F.SYS_HSTAT_last : Fld := ⟨R.SYS_HSTAT, 7, 0⟩
def R.SYS_REFA : Nat := 0x40000050
def F.SYS_REFA_addr : Fld := ⟨R.SYS_REFA, 31, 0⟩
def R.SYS_REFI : Nat := 0x40000054
def F.SYS_REFI_vld : Fld := ⟨R.SYS_REFI, 31, 31⟩
def F.SYS_REFI_req : Fld := ⟨R.SYS_REFI, 30, 30⟩
def F.SYS_REFI_why : Fld := ⟨R.SYS_REFI, 26, 24⟩
def F.SYS_REFI_cnt : Fld := ⟨R.SYS_REFI, 15, 0⟩
def R.SEAL_NOW : Nat := 0x40001000
def F.SEAL_NOW_good : Fld := ⟨R.SEAL_NOW, 31, 31⟩
def F.SEAL_NOW_sw1 : Fld := ⟨R.SEAL_NOW, 30, 30⟩
def F.SEAL_NOW_sw6 : Fld := ⟨R.SEAL_NOW, 19, 16⟩
def F.SEAL_NOW_fp : Fld := ⟨R.SEAL_NOW, 15, 0⟩
def R.SEAL_ACC : Nat := 0x40001004
def F.SEAL_ACC_vld : Fld := ⟨R.SEAL_ACC, 31, 31⟩
def F.SEAL_ACC_sw6 : Fld := ⟨R.SEAL_ACC, 19, 16⟩
def F.SEAL_ACC_fp : Fld := ⟨R.SEAL_ACC, 15, 0⟩
def R.SEAL_RAW : Nat := 0x40001008
def F.SEAL_RAW_on1 : Fld := ⟨R.SEAL_RAW, 20, 20⟩
def F.SEAL_RAW_code : Fld := ⟨R.SEAL_RAW, 19, 0⟩
def R.SEAL_RAWN : Nat := 0x4000100c
def F.SEAL_RAWN_off1 : Fld := ⟨R.SEAL_RAWN, 20, 20⟩
def F.SEAL_RAWN_ncode : Fld := ⟨R.SEAL_RAWN, 19, 0⟩
def R.SEAL_RTS : Nat := 0x40001010
def F.SEAL_RTS_ts : Fld := ⟨R.SEAL_RTS, 31, 0⟩
def R.SEAL_EV : Nat := 0x40001014
def F.SEAL_EV_cflt : Fld := ⟨R.SEAL_EV, 3, 3⟩
def F.SEAL_EV_chg : Fld := ⟨R.SEAL_EV, 2, 2⟩
def F.SEAL_EV_sw1off : Fld := ⟨R.SEAL_EV, 1, 1⟩
def F.SEAL_EV_sw1on : Fld := ⟨R.SEAL_EV, 0, 0⟩
def R.SEAL_EVEN : Nat := 0x40001018
def F.SEAL_EVEN_en : Fld := ⟨R.SEAL_EVEN, 3, 0⟩

/-! ### The tables -/

def regsChn0 : List RDesc := [
  ⟨"CHN_CFG", 0x40010000, 0x100, 48, [⟨21, 16, .rwi, 0x0⟩, ⟨15, 14, .rwi, 0x0⟩, ⟨13, 12, .rwi, 0x0⟩, ⟨11, 11, .rwi, 0x0⟩, ⟨2, 0, .rwi, 0x0⟩]⟩,
  ⟨"CHN_FILT", 0x40010004, 0x100, 48, [⟨27, 16, .rwi, 0x1⟩, ⟨15, 0, .rwi, 0x1⟩]⟩,
  ⟨"CHN_STAT", 0x40010010, 0x100, 48, [⟨31, 31, .ro, 0x0⟩, ⟨30, 30, .ro, 0x0⟩, ⟨29, 27, .ro, 0x0⟩, ⟨26, 26, .ro, 0x0⟩, ⟨25, 25, .ro, 0x0⟩, ⟨24, 23, .ro, 0x0⟩, ⟨22, 22, .ro, 0x0⟩, ⟨21, 21, .ro, 0x0⟩, ⟨20, 20, .ro, 0x0⟩, ⟨19, 19, .ro, 0x0⟩, ⟨18, 18, .ro, 0x0⟩, ⟨17, 17, .ro, 0x0⟩, ⟨3, 0, .ro, 0x0⟩]⟩,
  ⟨"CHN_FAULT", 0x40010014, 0x100, 48, [⟨10, 10, .w1c, 0x0⟩, ⟨9, 9, .w1c, 0x0⟩, ⟨8, 8, .w1c, 0x0⟩, ⟨7, 7, .w1c, 0x0⟩, ⟨6, 6, .w1c, 0x0⟩, ⟨5, 5, .w1c, 0x0⟩, ⟨4, 4, .w1c, 0x0⟩, ⟨3, 3, .w1c, 0x0⟩, ⟨2, 2, .w1c, 0x0⟩, ⟨1, 1, .w1c, 0x0⟩, ⟨0, 0, .w1c, 0x0⟩]⟩,
  ⟨"CHN_FTS", 0x40010018, 0x100, 48, [⟨31, 0, .ro, 0x0⟩]⟩,
  ⟨"CHN_XSRC", 0x4001001c, 0x100, 48, [⟨31, 31, .ro, 0x0⟩, ⟨5, 0, .ro, 0x0⟩]⟩,
  ⟨"CHN_V", 0x40010020, 0x100, 48, [⟨31, 31, .ro, 0x0⟩, ⟨30, 30, .ro, 0x0⟩, ⟨29, 16, .ro, 0x0⟩, ⟨15, 0, .ro, 0x0⟩]⟩,
  ⟨"CHN_I", 0x40010024, 0x100, 48, [⟨31, 31, .ro, 0x0⟩, ⟨30, 30, .ro, 0x0⟩, ⟨29, 16, .ro, 0x0⟩, ⟨15, 0, .ro, 0x0⟩]⟩,
  ⟨"CHN_VIT", 0x40010028, 0x100, 48, [⟨31, 0, .ro, 0x0⟩]⟩,
  ⟨"CHN_VB", 0x4001002c, 0x100, 48, [⟨29, 16, .ro, 0x0⟩, ⟨15, 0, .ro, 0x0⟩]⟩,
  ⟨"CHN_TEMP", 0x40010030, 0x100, 48, [⟨7, 0, .ro, 0x0⟩]⟩,
  ⟨"CHN_POS", 0x40010034, 0x100, 48, [⟨31, 0, .ro, 0x0⟩]⟩]

def regsChn1 : List RDesc := [
  ⟨"CHN_EDGE", 0x40010038, 0x100, 48, [⟨31, 0, .ro, 0x0⟩]⟩,
  ⟨"CHN_ERRC", 0x4001003c, 0x100, 48, [⟨31, 16, .ro, 0x0⟩, ⟨15, 0, .ro, 0x0⟩]⟩,
  ⟨"CHN_TPCFG", 0x4001f000, 0, 1, [⟨25, 16, .rwi, 0x64⟩, ⟨9, 0, .rwi, 0x64⟩]⟩,
  ⟨"CHN_VLDLO", 0x4001f004, 0, 1, [⟨31, 0, .ro, 0x0⟩]⟩,
  ⟨"CHN_VLDHI", 0x4001f008, 0, 1, [⟨15, 0, .ro, 0x0⟩]⟩,
  ⟨"CHN_CALQLO", 0x4001f014, 0, 1, [⟨31, 0, .rws, 0x0⟩]⟩,
  ⟨"CHN_CALQHI", 0x4001f018, 0, 1, [⟨15, 0, .rws, 0x0⟩]⟩,
  ⟨"CHN_OCFG", 0x40010008, 0x100, 48, [⟨28, 28, .rwi, 0x0⟩, ⟨23, 22, .rwi, 0x0⟩, ⟨21, 20, .rwi, 0x0⟩, ⟨5, 0, .rwi, 0x0⟩]⟩,
  ⟨"CHN_LST", 0x4001000c, 0x100, 48, [⟨17, 16, .rwi, 0x0⟩, ⟨13, 0, .rwi, 0x0⟩]⟩,
  ⟨"CHN_ODET", 0x40010040, 0x100, 48, [⟨31, 31, .ro, 0x0⟩, ⟨30, 30, .ro, 0x0⟩, ⟨29, 29, .ro, 0x0⟩, ⟨28, 28, .ro, 0x0⟩, ⟨27, 27, .ro, 0x0⟩, ⟨26, 26, .ro, 0x0⟩, ⟨23, 16, .ro, 0x0⟩, ⟨7, 0, .ro, 0x0⟩]⟩,
  ⟨"CHN_OTS", 0x40010044, 0x100, 48, [⟨31, 0, .ro, 0x0⟩]⟩,
  ⟨"CHN_DTR", 0x40010048, 0x100, 48, [⟨31, 16, .ro, 0x0⟩, ⟨15, 0, .ro, 0x0⟩]⟩]

def regsChn2 : List RDesc := [
  ⟨"CHN_IAVG", 0x4001004c, 0x100, 48, [⟨15, 0, .ro, 0x0⟩]⟩,
  ⟨"CHN_IENLO", 0x4001f00c, 0, 1, [⟨31, 0, .rw, 0x0⟩]⟩,
  ⟨"CHN_IENHI", 0x4001f010, 0, 1, [⟨15, 0, .rw, 0x0⟩]⟩]

/-- The CHN registers. -/
def regsChn : List RDesc := regsChn0 ++ regsChn1 ++ regsChn2

def regsPrs0 : List RDesc := [
  ⟨"PRS_CYC", 0x40030f00, 0, 1, [⟨3, 0, .rwi, 0x1⟩]⟩,
  ⟨"PRS_SYNC", 0x40030f04, 0, 1, [⟨31, 31, .wo, 0x0⟩, ⟨23, 16, .rwi, 0x0⟩, ⟨13, 8, .rwi, 0x0⟩, ⟨2, 2, .rwi, 0x0⟩, ⟨1, 0, .rwi, 0x0⟩]⟩,
  ⟨"PRS_SSTAT", 0x40030f08, 0, 1, [⟨31, 31, .ro, 0x0⟩, ⟨30, 30, .ro, 0x0⟩, ⟨29, 29, .w1c, 0x0⟩, ⟨28, 27, .ro, 0x0⟩, ⟨15, 8, .ro, 0x0⟩, ⟨7, 0, .ro, 0x0⟩]⟩,
  ⟨"PRS_STRIM", 0x40030f0c, 0, 1, [⟨15, 0, .ro, 0x0⟩]⟩,
  ⟨"PRS_TICKL", 0x40030f10, 0, 1, [⟨31, 0, .ro, 0x0⟩]⟩,
  ⟨"PRS_TICKH", 0x40030f14, 0, 1, [⟨31, 0, .ro, 0x0⟩]⟩,
  ⟨"PRS_LTCK", 0x40030f18, 0, 1, [⟨31, 24, .ro, 0x0⟩, ⟨23, 16, .ro, 0xff⟩, ⟨15, 8, .ro, 0x0⟩, ⟨7, 0, .ro, 0xff⟩]⟩,
  ⟨"PRS_VIN", 0x40030000, 0, 1, [⟨31, 31, .ro, 0x0⟩, ⟨25, 24, .ro, 0x0⟩, ⟨15, 0, .ro, 0x0⟩]⟩,
  ⟨"PRS_VREJ", 0x40030004, 0, 1, [⟨31, 24, .ro, 0x0⟩, ⟨23, 0, .ro, 0x0⟩]⟩,
  ⟨"PRS_VUSE", 0x40030008, 0, 1, [⟨27, 16, .ro, 0x0⟩, ⟨15, 8, .ro, 0x0⟩, ⟨3, 0, .ro, 0x0⟩]⟩,
  ⟨"PRS_EVAL", 0x4003000c, 0, 1, [⟨24, 16, .ro, 0x0⟩, ⟨8, 0, .ro, 0x0⟩]⟩,
  ⟨"PRS_ETIME", 0x40030010, 0, 1, [⟨31, 16, .ro, 0x0⟩, ⟨15, 0, .ro, 0x0⟩]⟩]

def regsPrs1 : List RDesc := [
  ⟨"PRS_RBK", 0x40030014, 0, 1, [⟨31, 16, .ro, 0x0⟩, ⟨15, 0, .ro, 0x0⟩]⟩,
  ⟨"PRS_HREQ", 0x40030020, 0, 1, [⟨15, 0, .rw, 0x0⟩]⟩,
  ⟨"PRS_NSEL", 0x40030030, 0, 1, [⟨31, 31, .rw, 0x0⟩, ⟨11, 0, .rw, 0x0⟩]⟩,
  ⟨"PRS_NVAL", 0x40030034, 0, 1, [⟨31, 31, .ro, 0x0⟩, ⟨30, 30, .ro, 0x0⟩, ⟨16, 16, .ro, 0x0⟩, ⟨15, 0, .ro, 0x0⟩]⟩,
  ⟨"PRS_NTS", 0x40030038, 0, 1, [⟨31, 0, .ro, 0x0⟩]⟩,
  ⟨"PRS_IEN", 0x40030f1c, 0, 1, [⟨0, 0, .rw, 0x0⟩]⟩]

/-- The PRS registers. -/
def regsPrs : List RDesc := regsPrs0 ++ regsPrs1

def regsCmp0 : List RDesc := [
  ⟨"CMP_STAT", 0x40040000, 0, 1, [⟨31, 31, .ro, 0x0⟩, ⟨30, 30, .ro, 0x0⟩, ⟨29, 29, .ro, 0x0⟩, ⟨28, 28, .ro, 0x0⟩, ⟨15, 8, .ro, 0x0⟩]⟩,
  ⟨"CMP_CNT", 0x40040004, 0, 1, [⟨31, 0, .ro, 0x0⟩]⟩,
  ⟨"CMP_INJ", 0x40040008, 0, 1, [⟨31, 16, .ro, 0x0⟩, ⟨6, 0, .ro, 0x0⟩]⟩,
  ⟨"CMP_MLOC", 0x4004000c, 0, 1, [⟨31, 31, .ro, 0x0⟩, ⟨30, 28, .ro, 0x0⟩, ⟨27, 27, .ro, 0x0⟩, ⟨26, 16, .ro, 0x0⟩, ⟨11, 0, .ro, 0x0⟩]⟩,
  ⟨"CMP_MA", 0x40040010, 0, 1, [⟨31, 0, .ro, 0x0⟩]⟩,
  ⟨"CMP_MB", 0x40040014, 0, 1, [⟨31, 0, .ro, 0x0⟩]⟩,
  ⟨"CMP_MTS", 0x40040018, 0, 1, [⟨31, 0, .ro, 0x0⟩]⟩,
  ⟨"CMP_ESTOP", 0x4004001c, 0, 1, [⟨31, 0, .ro, 0x0⟩]⟩,
  ⟨"CMP_TEST", 0x40040020, 0, 1, [⟨31, 31, .rws, 0x0⟩, ⟨10, 0, .rws, 0x0⟩]⟩,
  ⟨"CMP_IEN", 0x40040024, 0, 1, [⟨0, 0, .rw, 0x0⟩]⟩]

/-- The CMP registers. -/
def regsCmp : List RDesc := regsCmp0

def regsFsg0 : List RDesc := [
  ⟨"FSG_CFG", 0x40020000, 0x40, 6, [⟨31, 31, .rwi, 0x0⟩, ⟨29, 16, .rwi, 0x64⟩, ⟨15, 7, .rwi, 0x64⟩, ⟨3, 0, .rwi, 0xa⟩]⟩,
  ⟨"FSG_STAT", 0x40020004, 0x40, 6, [⟨31, 31, .ro, 0x0⟩, ⟨30, 28, .ro, 0x0⟩, ⟨13, 0, .ro, 0x0⟩]⟩,
  ⟨"FSG_IMEAN", 0x40020008, 0x40, 6, [⟨31, 16, .ro, 0x0⟩, ⟨15, 0, .ro, 0x0⟩]⟩,
  ⟨"FSG_FLT", 0x4002000c, 0x40, 6, [⟨5, 5, .w1c, 0x0⟩, ⟨4, 4, .w1c, 0x0⟩, ⟨3, 3, .w1c, 0x0⟩, ⟨2, 2, .w1c, 0x0⟩, ⟨1, 1, .w1c, 0x0⟩, ⟨0, 0, .w1c, 0x0⟩]⟩,
  ⟨"FSG_FTS", 0x40020010, 0x40, 6, [⟨31, 0, .ro, 0x0⟩]⟩,
  ⟨"FSG_SAGC", 0x40020014, 0x40, 6, [⟨31, 16, .ro, 0x0⟩, ⟨15, 0, .ro, 0x0⟩]⟩,
  ⟨"FSG_MOD", 0x40020f00, 0, 1, [⟨31, 16, .ro, 0x0⟩, ⟨15, 0, .ro, 0x0⟩]⟩,
  ⟨"FSG_MFLT", 0x40020f04, 0, 1, [⟨15, 8, .ro, 0x0⟩, ⟨0, 0, .w1c, 0x0⟩]⟩,
  ⟨"FSG_DTSTAT", 0x40020f08, 0, 1, [⟨31, 16, .ro, 0x0⟩, ⟨6, 0, .ro, 0x0⟩]⟩,
  ⟨"FSG_IEN", 0x40020f0c, 0, 1, [⟨6, 6, .rw, 0x0⟩, ⟨5, 0, .rw, 0x0⟩]⟩]

/-- The FSG registers. -/
def regsFsg : List RDesc := regsFsg0

def regsSes0 : List RDesc := [
  ⟨"SES_CFG", 0x40050000, 0x40, 160, [⟨20, 16, .ro, 0x0⟩, ⟨12, 8, .ro, 0x0⟩, ⟨7, 7, .ro, 0x0⟩, ⟨5, 4, .ro, 0x0⟩, ⟨1, 0, .ro, 0x0⟩]⟩,
  ⟨"SES_CID", 0x40050004, 0x40, 160, [⟨31, 0, .ro, 0x0⟩]⟩,
  ⟨"SES_PER", 0x40050008, 0x40, 160, [⟨19, 0, .ro, 0x0⟩]⟩,
  ⟨"SES_LIM", 0x4005000c, 0x40, 160, [⟨23, 0, .ro, 0x0⟩]⟩,
  ⟨"SES_STAT", 0x40050010, 0x40, 160, [⟨31, 29, .ro, 0x0⟩, ⟨28, 28, .ro, 0x0⟩, ⟨27, 27, .ro, 0x0⟩, ⟨26, 26, .ro, 0x0⟩, ⟨19, 16, .ro, 0x0⟩, ⟨15, 8, .ro, 0x0⟩, ⟨7, 0, .ro, 0x0⟩]⟩,
  ⟨"SES_VTX", 0x40050014, 0x40, 160, [⟨31, 0, .ro, 0x0⟩]⟩,
  ⟨"SES_VRX", 0x40050018, 0x40, 160, [⟨31, 0, .ro, 0x0⟩]⟩,
  ⟨"SES_AGE", 0x4005001c, 0x40, 160, [⟨31, 16, .ro, 0x0⟩, ⟨15, 0, .ro, 0x0⟩]⟩,
  ⟨"SES_ACC", 0x40050020, 0x40, 160, [⟨31, 0, .ro, 0x0⟩]⟩,
  ⟨"SES_REJ", 0x40050024, 0x40, 160, [⟨31, 24, .ro, 0x0⟩, ⟨23, 12, .ro, 0x0⟩, ⟨11, 0, .ro, 0x0⟩]⟩,
  ⟨"SES_STALE", 0x40050028, 0x40, 160, [⟨31, 16, .ro, 0x0⟩, ⟨15, 0, .ro, 0x0⟩]⟩,
  ⟨"SES_FTS", 0x4005002c, 0x40, 160, [⟨31, 0, .ro, 0x0⟩]⟩]

def regsSes1 : List RDesc := [
  ⟨"SES_RTS", 0x40050030, 0x40, 160, [⟨31, 0, .ro, 0x0⟩]⟩,
  ⟨"SES_EV", 0x40050034, 0x40, 160, [⟨1, 1, .w1c, 0x0⟩, ⟨0, 0, .w1c, 0x0⟩]⟩,
  ⟨"SES_GSTAT", 0x4005f000, 0, 1, [⟨23, 16, .ro, 0x0⟩, ⟨15, 8, .ro, 0x0⟩, ⟨7, 0, .ro, 0x0⟩]⟩,
  ⟨"SES_UNK", 0x4005f004, 0, 1, [⟨31, 0, .ro, 0x0⟩]⟩,
  ⟨"SES_QDROP", 0x4005f008, 0, 1, [⟨31, 16, .ro, 0x0⟩, ⟨6, 0, .ro, 0x0⟩]⟩,
  ⟨"SES_BITS", 0x4005f00c, 0, 1, [⟨31, 16, .ro, 0x0⟩, ⟨15, 0, .ro, 0x0⟩]⟩,
  ⟨"SES_IEN", 0x4005f010, 0, 1, [⟨1, 1, .rw, 0x0⟩, ⟨0, 0, .rw, 0x0⟩]⟩,
  ⟨"SES_PEND", 0x4005f014, 0x4, 5, [⟨31, 0, .ro, 0x0⟩]⟩]

/-- The SES registers. -/
def regsSes : List RDesc := regsSes0 ++ regsSes1

def regsNet0 : List RDesc := [
  ⟨"NET_PCFG", 0x40060000, 0x100, 5, [⟨31, 31, .rw, 0x1⟩, ⟨30, 30, .rw, 0x0⟩, ⟨29, 28, .rw, 0x0⟩, ⟨27, 27, .rw, 0x0⟩, ⟨26, 26, .rw, 0x0⟩, ⟨25, 24, .rw, 0x0⟩, ⟨23, 21, .rw, 0x7⟩, ⟨14, 12, .rw, 0x0⟩, ⟨11, 0, .rw, 0x1⟩]⟩,
  ⟨"NET_PSTAT", 0x40060004, 0x100, 5, [⟨31, 31, .ro, 0x0⟩, ⟨30, 28, .ro, 0x0⟩, ⟨27, 26, .ro, 0x0⟩, ⟨25, 25, .ro, 0x0⟩, ⟨23, 16, .ro, 0x0⟩, ⟨15, 0, .ro, 0x0⟩]⟩,
  ⟨"NET_PMAP", 0x40060008, 0x100, 5, [⟨23, 0, .rw, 0xfac681⟩]⟩,
  ⟨"NET_RXF", 0x4006000c, 0x100, 5, [⟨31, 0, .ro, 0x0⟩]⟩,
  ⟨"NET_TXF", 0x40060010, 0x100, 5, [⟨31, 0, .ro, 0x0⟩]⟩,
  ⟨"NET_ERR", 0x40060014, 0x100, 5, [⟨31, 16, .ro, 0x0⟩, ⟨15, 0, .ro, 0x0⟩]⟩,
  ⟨"NET_QDROP", 0x40060018, 0x100, 5, [⟨31, 16, .ro, 0x0⟩, ⟨15, 8, .ro, 0x0⟩, ⟨7, 0, .ro, 0x0⟩]⟩,
  ⟨"NET_FCNT", 0x4006001c, 0x100, 5, [⟨31, 16, .ro, 0x0⟩, ⟨15, 0, .ro, 0x0⟩]⟩,
  ⟨"NET_GCFG", 0x40060020, 0x100, 5, [⟨31, 31, .rw, 0x0⟩, ⟨30, 30, .wo, 0x0⟩, ⟨29, 29, .ro, 0x0⟩, ⟨5, 0, .rw, 0x0⟩]⟩,
  ⟨"NET_GSEL", 0x40060024, 0x100, 5, [⟨5, 0, .rw, 0x0⟩]⟩,
  ⟨"NET_GENT", 0x40060028, 0x100, 5, [⟨31, 24, .rw, 0xff⟩, ⟨23, 0, .rw, 0x10⟩]⟩,
  ⟨"NET_CTL", 0x40060f00, 0, 1, [⟨31, 31, .rw, 0x0⟩, ⟨26, 24, .rw, 0x4⟩, ⟨22, 20, .rw, 0x3⟩, ⟨15, 0, .rw, 0x12c⟩]⟩]

def regsNet1 : List RDesc := [
  ⟨"NET_BUF", 0x40060f04, 0, 1, [⟨31, 16, .ro, 0x0⟩, ⟨15, 0, .ro, 0x0⟩]⟩,
  ⟨"NET_VSEL", 0x40060f08, 0, 1, [⟨7, 0, .rw, 0x0⟩]⟩,
  ⟨"NET_VDAT", 0x40060f0c, 0, 1, [⟨31, 31, .rw, 0x0⟩, ⟨30, 30, .rw, 0x0⟩, ⟨29, 25, .rw, 0x0⟩, ⟨24, 20, .rw, 0x0⟩, ⟨11, 0, .rw, 0x0⟩]⟩,
  ⟨"NET_SSEL", 0x40060f10, 0, 1, [⟨5, 0, .rw, 0x0⟩]⟩,
  ⟨"NET_SDAT0", 0x40060f14, 0, 1, [⟨31, 0, .rw, 0x0⟩]⟩,
  ⟨"NET_SDAT1", 0x40060f18, 0, 1, [⟨31, 31, .rw, 0x0⟩, ⟨20, 16, .rw, 0x0⟩, ⟨15, 0, .rw, 0x0⟩]⟩,
  ⟨"NET_MACL", 0x40060f1c, 0, 1, [⟨31, 0, .ro, 0x0⟩]⟩,
  ⟨"NET_MACH", 0x40060f20, 0, 1, [⟨15, 0, .ro, 0x0⟩]⟩,
  ⟨"NET_IP4", 0x40060f24, 0, 1, [⟨31, 0, .rw, 0x0⟩]⟩,
  ⟨"NET_IP4M", 0x40060f28, 0, 1, [⟨5, 0, .rw, 0x0⟩]⟩,
  ⟨"NET_GW4", 0x40060f2c, 0, 1, [⟨31, 0, .rw, 0x0⟩]⟩,
  ⟨"NET_TCFG", 0x40060f30, 0, 1, [⟨31, 24, .rw, 0xf8⟩, ⟨23, 16, .rw, 0xf8⟩, ⟨15, 15, .rw, 0x1⟩, ⟨14, 8, .rw, 0x0⟩, ⟨3, 0, .rw, 0xd⟩]⟩]

def regsNet2 : List RDesc := [
  ⟨"NET_TSTAT", 0x40060f34, 0, 1, [⟨31, 31, .ro, 0x0⟩, ⟨30, 30, .ro, 0x0⟩, ⟨29, 27, .ro, 0x0⟩, ⟨15, 0, .ro, 0x0⟩]⟩,
  ⟨"NET_TNS", 0x40060f38, 0, 1, [⟨31, 0, .ro, 0x0⟩]⟩,
  ⟨"NET_TSECL", 0x40060f3c, 0, 1, [⟨31, 0, .ro, 0x0⟩]⟩,
  ⟨"NET_TSECH", 0x40060f40, 0, 1, [⟨15, 0, .ro, 0x0⟩]⟩,
  ⟨"NET_FRER", 0x40060f44, 0, 1, [⟨31, 16, .ro, 0x0⟩, ⟨15, 0, .ro, 0x0⟩]⟩,
  ⟨"NET_NUNR", 0x40060f48, 0, 1, [⟨7, 0, .ro, 0x0⟩]⟩,
  ⟨"NET_EV", 0x40060f4c, 0, 1, [⟨7, 7, .w1c, 0x0⟩, ⟨6, 6, .w1c, 0x0⟩, ⟨5, 5, .w1c, 0x0⟩, ⟨4, 0, .w1c, 0x0⟩]⟩,
  ⟨"NET_EVEN", 0x40060f50, 0, 1, [⟨7, 0, .rw, 0x0⟩]⟩]

/-- The NET registers. -/
def regsNet : List RDesc := regsNet0 ++ regsNet1 ++ regsNet2

def regsMst0 : List RDesc := [
  ⟨"MST_CFG", 0x40070000, 0x20, 8, [⟨31, 16, .ro, 0x0⟩, ⟨15, 11, .ro, 0x0⟩, ⟨7, 4, .ro, 0x0⟩, ⟨1, 0, .ro, 0x0⟩]⟩,
  ⟨"MST_CMLO", 0x40070004, 0x20, 8, [⟨31, 0, .ro, 0x0⟩]⟩,
  ⟨"MST_CMHI", 0x40070008, 0x20, 8, [⟨15, 0, .ro, 0x0⟩]⟩,
  ⟨"MST_NSET", 0x4007000c, 0x20, 8, [⟨22, 16, .ro, 0x0⟩, ⟨8, 0, .ro, 0x0⟩]⟩,
  ⟨"MST_FRM", 0x40070010, 0x20, 8, [⟨31, 0, .ro, 0x0⟩]⟩,
  ⟨"MST_RATE", 0x40070014, 0x20, 8, [⟨31, 0, .ro, 0x0⟩]⟩,
  ⟨"MST_STAT", 0x40070f00, 0, 1, [⟨31, 31, .ro, 0x0⟩, ⟨30, 30, .ro, 0x0⟩, ⟨3, 0, .ro, 0x0⟩]⟩,
  ⟨"MST_TOT", 0x40070f04, 0, 1, [⟨31, 0, .ro, 0x0⟩]⟩,
  ⟨"MST_EV", 0x40070f08, 0, 1, [⟨0, 0, .w1c, 0x0⟩]⟩,
  ⟨"MST_EVEN", 0x40070f0c, 0, 1, [⟨0, 0, .rw, 0x0⟩]⟩]

/-- The MST registers. -/
def regsMst : List RDesc := regsMst0

def regsTnd0 : List RDesc := [
  ⟨"TND_STAT", 0x40080000, 0, 1, [⟨31, 30, .ro, 0x0⟩, ⟨29, 29, .ro, 0x0⟩, ⟨28, 28, .ro, 0x0⟩, ⟨27, 27, .ro, 0x0⟩]⟩,
  ⟨"TND_SPLIT", 0x40080004, 0, 1, [⟨31, 31, .wo, 0x0⟩, ⟨7, 0, .rw, 0x14⟩]⟩,
  ⟨"TND_SENT", 0x40080008, 0, 1, [⟨31, 0, .rw, 0x10000000⟩]⟩,
  ⟨"TND_SBANK", 0x4008000c, 0, 1, [⟨15, 0, .rw, 0x0⟩]⟩,
  ⟨"TND_MERGE", 0x40080010, 0, 1, [⟨31, 31, .wo, 0x0⟩]⟩,
  ⟨"TND_STIME", 0x40080014, 0, 1, [⟨31, 0, .ro, 0x0⟩]⟩,
  ⟨"TND_SDUR", 0x40080018, 0, 1, [⟨31, 0, .ro, 0x0⟩]⟩,
  ⟨"TND_SMAX", 0x4008001c, 0, 1, [⟨31, 0, .ro, 0x0⟩]⟩,
  ⟨"TND_SCNT", 0x40080020, 0, 1, [⟨31, 16, .ro, 0x0⟩, ⟨15, 0, .ro, 0x0⟩]⟩,
  ⟨"TND_DDL", 0x40080024, 0, 1, [⟨9, 0, .rw, 0x64⟩]⟩,
  ⟨"TND_KICK", 0x40080028, 0, 1, [⟨7, 0, .wo, 0x0⟩]⟩,
  ⟨"TND_DDLR", 0x4008002c, 0, 1, [⟨19, 0, .ro, 0x0⟩]⟩]

def regsTnd1 : List RDesc := [
  ⟨"TND_MTIMEL", 0x40080030, 0, 1, [⟨31, 0, .ro, 0x0⟩]⟩,
  ⟨"TND_MTIMEH", 0x40080034, 0, 1, [⟨31, 0, .ro, 0x0⟩]⟩,
  ⟨"TND_MTCMPL", 0x40080038, 0, 1, [⟨31, 0, .rw, 0xffffffff⟩]⟩,
  ⟨"TND_MTCMPH", 0x4008003c, 0, 1, [⟨31, 0, .rw, 0xffffffff⟩]⟩,
  ⟨"TND_IPEND", 0x40080040, 0, 1, [⟨13, 0, .ro, 0x0⟩]⟩,
  ⟨"TND_IEN", 0x40080044, 0, 1, [⟨13, 0, .rw, 0x0⟩]⟩,
  ⟨"TND_MSIP", 0x40080048, 0, 1, [⟨0, 0, .rw, 0x0⟩]⟩,
  ⟨"TND_HMBX", 0x4008004c, 0, 1, [⟨31, 0, .rw, 0x0⟩]⟩,
  ⟨"TND_PMBX", 0x40080050, 0, 1, [⟨31, 0, .rw, 0x0⟩]⟩,
  ⟨"TND_CMBX", 0x40080054, 0, 1, [⟨31, 0, .rw, 0x0⟩]⟩,
  ⟨"TND_LSE", 0x40080058, 0, 1, [⟨31, 31, .ro, 0x0⟩, ⟨30, 28, .ro, 0x0⟩]⟩,
  ⟨"TND_LSTS", 0x4008005c, 0, 1, [⟨31, 0, .ro, 0x0⟩]⟩]

def regsTnd2 : List RDesc := [
  ⟨"TND_DBG", 0x40080060, 0, 1, [⟨31, 31, .ro, 0x0⟩, ⟨30, 30, .ro, 0x0⟩, ⟨29, 29, .ro, 0x0⟩, ⟨28, 28, .ro, 0x0⟩, ⟨27, 27, .ro, 0x0⟩, ⟨26, 26, .ro, 0x0⟩, ⟨7, 0, .ro, 0x0⟩]⟩,
  ⟨"TND_EV", 0x40080064, 0, 1, [⟨6, 6, .w1c, 0x0⟩, ⟨5, 5, .w1c, 0x0⟩, ⟨4, 4, .w1c, 0x0⟩, ⟨3, 3, .w1c, 0x0⟩, ⟨2, 2, .w1c, 0x0⟩, ⟨1, 1, .w1c, 0x0⟩, ⟨0, 0, .w1c, 0x0⟩]⟩,
  ⟨"TND_EVEN", 0x40080068, 0, 1, [⟨6, 0, .rw, 0x0⟩]⟩]

/-- The TND registers. -/
def regsTnd : List RDesc := regsTnd0 ++ regsTnd1 ++ regsTnd2

def regsEdc0 : List RDesc := [
  ⟨"EDC_CFG", 0x40090000, 0, 1, [⟨23, 16, .rw, 0x10⟩, ⟨15, 0, .rw, 0x3e8⟩]⟩,
  ⟨"EDC_LOCK", 0x40090004, 0, 1, [⟨0, 0, .rw, 0x0⟩]⟩,
  ⟨"EDC_CCFG", 0x40090008, 0, 1, [⟨1, 0, .rw, 0x1⟩]⟩,
  ⟨"EDC_SREG", 0x40090010, 0x4, 4, [⟨31, 31, .rw, 0x0⟩, ⟨24, 16, .rw, 0x0⟩, ⟨7, 0, .rw, 0x0⟩]⟩,
  ⟨"EDC_STAT", 0x40090020, 0, 1, [⟨31, 31, .ro, 0x0⟩, ⟨30, 30, .ro, 0x0⟩, ⟨4, 0, .ro, 0x0⟩]⟩,
  ⟨"EDC_EV", 0x40090024, 0, 1, [⟨6, 6, .w1c, 0x0⟩, ⟨5, 5, .w1c, 0x0⟩, ⟨4, 4, .w1c, 0x0⟩, ⟨3, 3, .w1c, 0x0⟩, ⟨2, 2, .w1c, 0x0⟩, ⟨1, 1, .w1c, 0x0⟩, ⟨0, 0, .w1c, 0x0⟩]⟩,
  ⟨"EDC_EVEN", 0x40090028, 0, 1, [⟨6, 0, .rw, 0x0⟩]⟩,
  ⟨"EDC_LSEL", 0x40090030, 0, 1, [⟨3, 0, .rw, 0x0⟩]⟩,
  ⟨"EDC_LADDR", 0x40090034, 0, 1, [⟨31, 0, .ro, 0x0⟩]⟩,
  ⟨"EDC_LINFO", 0x40090038, 0, 1, [⟨31, 31, .ro, 0x0⟩, ⟨30, 28, .ro, 0x0⟩, ⟨27, 25, .ro, 0x0⟩, ⟨24, 24, .ro, 0x0⟩, ⟨23, 23, .ro, 0x0⟩, ⟨22, 22, .ro, 0x0⟩, ⟨21, 21, .ro, 0x0⟩, ⟨20, 20, .ro, 0x0⟩, ⟨19, 19, .ro, 0x0⟩, ⟨7, 0, .ro, 0x0⟩]⟩,
  ⟨"EDC_LFTS", 0x4009003c, 0, 1, [⟨31, 0, .ro, 0x0⟩]⟩,
  ⟨"EDC_LLTS", 0x40090040, 0, 1, [⟨31, 0, .ro, 0x0⟩]⟩]

def regsEdc1 : List RDesc := [
  ⟨"EDC_LDL", 0x40090044, 0, 1, [⟨31, 0, .ro, 0x0⟩]⟩,
  ⟨"EDC_LREL", 0x40090048, 0, 1, [⟨31, 31, .wo, 0x0⟩, ⟨3, 0, .wo, 0x0⟩]⟩,
  ⟨"EDC_LOVF", 0x4009004c, 0, 1, [⟨31, 0, .ro, 0x0⟩]⟩,
  ⟨"EDC_UEADDR", 0x40090050, 0, 1, [⟨31, 0, .ro, 0x0⟩]⟩,
  ⟨"EDC_UEINFO", 0x40090054, 0, 1, [⟨31, 31, .ro, 0x0⟩, ⟨30, 28, .ro, 0x0⟩, ⟨27, 25, .ro, 0x0⟩, ⟨24, 24, .ro, 0x0⟩, ⟨15, 0, .ro, 0x0⟩]⟩,
  ⟨"EDC_UETS", 0x40090058, 0, 1, [⟨31, 0, .ro, 0x0⟩]⟩,
  ⟨"EDC_SCCTL", 0x40090060, 0, 1, [⟨31, 31, .wo, 0x0⟩, ⟨30, 30, .ro, 0x0⟩, ⟨29, 29, .wo, 0x0⟩, ⟨28, 28, .rw, 0x0⟩, ⟨27, 26, .rw, 0x0⟩]⟩,
  ⟨"EDC_SCBASE", 0x40090064, 0, 1, [⟨31, 0, .rw, 0x0⟩]⟩,
  ⟨"EDC_SCEND", 0x40090068, 0, 1, [⟨31, 0, .rw, 0x0⟩]⟩,
  ⟨"EDC_SCCHK", 0x4009006c, 0, 1, [⟨31, 0, .ro, 0x0⟩]⟩,
  ⟨"EDC_SCCOR", 0x40090070, 0, 1, [⟨31, 0, .ro, 0x0⟩]⟩,
  ⟨"EDC_SCUNC", 0x40090074, 0, 1, [⟨31, 0, .ro, 0x0⟩]⟩]

def regsEdc2 : List RDesc := [
  ⟨"EDC_SCFUA", 0x40090078, 0, 1, [⟨31, 0, .ro, 0x0⟩]⟩,
  ⟨"EDC_SCSTAT", 0x4009007c, 0, 1, [⟨31, 31, .ro, 0x0⟩, ⟨30, 30, .ro, 0x0⟩, ⟨29, 29, .ro, 0x0⟩]⟩,
  ⟨"EDC_SCINV", 0x40090080, 0, 1, [⟨31, 0, .ro, 0x0⟩]⟩,
  ⟨"EDC_REMAP", 0x40090084, 0, 1, [⟨31, 31, .wo, 0x0⟩, ⟨30, 30, .ro, 0x0⟩, ⟨29, 29, .ro, 0x0⟩, ⟨28, 28, .ro, 0x0⟩, ⟨19, 16, .rw, 0x0⟩]⟩]

/-- The EDC registers. -/
def regsEdc : List RDesc := regsEdc0 ++ regsEdc1 ++ regsEdc2

def regsCsk0 : List RDesc := [
  ⟨"CSK_STAT", 0x400a0000, 0, 1, [⟨31, 31, .ro, 0x0⟩, ⟨30, 30, .ro, 0x0⟩, ⟨29, 29, .ro, 0x0⟩, ⟨28, 28, .ro, 0x0⟩, ⟨27, 27, .ro, 0x0⟩, ⟨26, 26, .ro, 0x0⟩, ⟨9, 0, .ro, 0x0⟩]⟩,
  ⟨"CSK_EPOCH", 0x400a0004, 0, 1, [⟨31, 0, .ro, 0x0⟩]⟩,
  ⟨"CSK_BOOT", 0x400a0008, 0, 1, [⟨31, 0, .ro, 0x0⟩]⟩,
  ⟨"CSK_PAGES", 0x400a000c, 0, 1, [⟨31, 16, .ro, 0x0⟩, ⟨15, 0, .ro, 0x0⟩]⟩,
  ⟨"CSK_RCFG", 0x400a0010, 0, 1, [⟨6, 0, .rw, 0x4b⟩]⟩,
  ⟨"CSK_CMD", 0x400a0014, 0, 1, [⟨31, 31, .wo, 0x0⟩, ⟨30, 30, .ro, 0x0⟩, ⟨27, 24, .ro, 0x0⟩, ⟨19, 16, .rw, 0x0⟩]⟩,
  ⟨"CSK_SADDR", 0x400a0018, 0, 1, [⟨31, 0, .rw, 0x20000000⟩]⟩,
  ⟨"CSK_RHDR", 0x400a001c, 0, 1, [⟨23, 16, .rw, 0x0⟩, ⟨10, 0, .rw, 0x0⟩]⟩,
  ⟨"CSK_PAGE", 0x400a0020, 0, 1, [⟨12, 0, .rw, 0x0⟩]⟩,
  ⟨"CSK_RKEY", 0x400a0024, 0, 1, [⟨31, 0, .rw, 0x0⟩]⟩,
  ⟨"CSK_RGEN", 0x400a0028, 0, 1, [⟨31, 0, .rw, 0x0⟩]⟩,
  ⟨"CSK_RLOC", 0x400a002c, 0, 1, [⟨31, 0, .ro, 0x0⟩]⟩]

def regsCsk1 : List RDesc := [
  ⟨"CSK_EVQ", 0x400a0030, 0, 1, [⟨31, 16, .ro, 0x0⟩, ⟨15, 8, .ro, 0x0⟩, ⟨7, 0, .ro, 0x0⟩]⟩,
  ⟨"CSK_LEES", 0x400a0034, 0, 1, [⟨8, 0, .ro, 0x0⟩]⟩,
  ⟨"CSK_CAL", 0x400a0038, 0, 1, [⟨31, 31, .ro, 0x0⟩, ⟨30, 29, .ro, 0x0⟩, ⟨15, 0, .ro, 0x0⟩]⟩,
  ⟨"CSK_CALCFG", 0x400a003c, 0, 1, [⟨13, 8, .rw, 0x1e⟩, ⟨5, 0, .rw, 0xa⟩]⟩,
  ⟨"CSK_ACC", 0x400a0040, 0, 1, [⟨31, 31, .ro, 0x0⟩, ⟨30, 30, .ro, 0x0⟩, ⟨25, 24, .ro, 0x0⟩, ⟨15, 0, .ro, 0x0⟩]⟩,
  ⟨"CSK_RTIME", 0x400a0044, 0, 1, [⟨31, 0, .ro, 0x0⟩]⟩,
  ⟨"CSK_LOST", 0x400a0048, 0, 1, [⟨31, 16, .ro, 0x0⟩, ⟨15, 0, .ro, 0x0⟩]⟩,
  ⟨"CSK_EV", 0x400a004c, 0, 1, [⟨5, 5, .w1c, 0x0⟩, ⟨4, 4, .w1c, 0x0⟩, ⟨3, 3, .w1c, 0x0⟩, ⟨2, 2, .w1c, 0x0⟩, ⟨1, 1, .w1c, 0x0⟩, ⟨0, 0, .w1c, 0x0⟩]⟩,
  ⟨"CSK_EVEN", 0x400a0050, 0, 1, [⟨5, 0, .rw, 0x0⟩]⟩]

/-- The CSK registers. -/
def regsCsk : List RDesc := regsCsk0 ++ regsCsk1

def regsOtp0 : List RDesc := [
  ⟨"OTP_STAT", 0x400b0000, 0, 1, [⟨31, 31, .ro, 0x0⟩, ⟨30, 30, .ro, 0x0⟩, ⟨29, 29, .ro, 0x0⟩, ⟨28, 28, .ro, 0x0⟩]⟩,
  ⟨"OTP_GSTAT", 0x400b0004, 0, 1, [⟨17, 0, .ro, 0x0⟩]⟩,
  ⟨"OTP_ALARM", 0x400b0008, 0, 1, [⟨24, 16, .ro, 0x0⟩, ⟨8, 0, .ro, 0x0⟩]⟩,
  ⟨"OTP_LOCK", 0x400b000c, 0, 1, [⟨8, 0, .ro, 0x0⟩]⟩,
  ⟨"OTP_USE", 0x400b0010, 0, 1, [⟨5, 4, .ro, 0x0⟩, ⟨3, 2, .ro, 0x0⟩, ⟨1, 0, .ro, 0x0⟩]⟩,
  ⟨"OTP_POL", 0x400b0014, 0, 1, [⟨31, 31, .ro, 0x0⟩, ⟨2, 2, .ro, 0x0⟩, ⟨1, 1, .ro, 0x0⟩, ⟨0, 0, .ro, 0x0⟩]⟩,
  ⟨"OTP_LEVEL", 0x400b0018, 0, 1, [⟨31, 31, .ro, 0x0⟩, ⟨7, 0, .ro, 0x0⟩]⟩,
  ⟨"OTP_DEVL", 0x400b001c, 0, 1, [⟨31, 0, .ro, 0x0⟩]⟩,
  ⟨"OTP_DEVH", 0x400b0020, 0, 1, [⟨31, 0, .ro, 0x0⟩]⟩,
  ⟨"OTP_SER", 0x400b0024, 0, 1, [⟨31, 0, .ro, 0x0⟩]⟩,
  ⟨"OTP_MFG", 0x400b0028, 0, 1, [⟨31, 0, .ro, 0x0⟩]⟩,
  ⟨"OTP_PCMD", 0x400b0040, 0, 1, [⟨31, 31, .wo, 0x0⟩, ⟨30, 30, .ro, 0x0⟩, ⟨27, 24, .ro, 0x0⟩, ⟨19, 16, .rw, 0x0⟩, ⟨15, 12, .rw, 0x0⟩, ⟨7, 0, .rw, 0x0⟩]⟩]

def regsOtp1 : List RDesc := [
  ⟨"OTP_PSRC", 0x400b0044, 0, 1, [⟨31, 0, .rw, 0x20000000⟩]⟩,
  ⟨"OTP_PRES", 0x400b0048, 0, 1, [⟨31, 31, .ro, 0x0⟩, ⟨24, 16, .ro, 0x0⟩, ⟨12, 0, .ro, 0x0⟩]⟩,
  ⟨"OTP_RSEL", 0x400b0050, 0, 1, [⟨8, 0, .rw, 0x0⟩]⟩,
  ⟨"OTP_RNRM", 0x400b0054, 0, 1, [⟨31, 0, .ro, 0x0⟩]⟩,
  ⟨"OTP_RSTR", 0x400b0058, 0, 1, [⟨31, 0, .ro, 0x0⟩]⟩,
  ⟨"OTP_EV", 0x400b005c, 0, 1, [⟨2, 2, .w1c, 0x0⟩, ⟨1, 1, .w1c, 0x0⟩, ⟨0, 0, .w1c, 0x0⟩]⟩,
  ⟨"OTP_EVEN", 0x400b0060, 0, 1, [⟨2, 0, .rw, 0x0⟩]⟩]

/-- The OTP registers. -/
def regsOtp : List RDesc := regsOtp0 ++ regsOtp1

def regsBst0 : List RDesc := [
  ⟨"BST_STAT", 0x400c0000, 0, 1, [⟨31, 31, .ro, 0x0⟩, ⟨30, 30, .ro, 0x0⟩, ⟨29, 29, .ro, 0x0⟩, ⟨28, 28, .ro, 0x0⟩, ⟨14, 12, .ro, 0x0⟩, ⟨4, 0, .ro, 0x0⟩]⟩,
  ⟨"BST_SLA", 0x400c0004, 0, 1, [⟨31, 28, .ro, 0x0⟩, ⟨23, 14, .ro, 0x0⟩, ⟨13, 11, .ro, 0x0⟩, ⟨10, 0, .ro, 0x0⟩]⟩,
  ⟨"BST_SLB", 0x400c0008, 0, 1, [⟨31, 28, .ro, 0x0⟩, ⟨23, 14, .ro, 0x0⟩, ⟨13, 11, .ro, 0x0⟩, ⟨10, 0, .ro, 0x0⟩]⟩,
  ⟨"BST_SLTS", 0x400c000c, 0, 1, [⟨31, 0, .ro, 0x0⟩]⟩,
  ⟨"BST_PASS", 0x400c0010, 0, 1, [⟨31, 16, .ro, 0x0⟩, ⟨15, 0, .ro, 0x0⟩]⟩,
  ⟨"BST_PTIME", 0x400c0014, 0, 1, [⟨31, 0, .ro, 0x0⟩]⟩,
  ⟨"BST_TDL", 0x400c0018, 0, 1, [⟨31, 0, .ro, 0x0⟩]⟩,
  ⟨"BST_ORD0", 0x400c0020, 0, 1, [⟨31, 0, .rw, 0x87654321⟩]⟩,
  ⟨"BST_ORD1", 0x400c0024, 0, 1, [⟨31, 0, .rw, 0xfedcba9⟩]⟩,
  ⟨"BST_FAIL", 0x400c0028, 0, 1, [⟨31, 31, .ro, 0x0⟩, ⟨30, 30, .ro, 0x0⟩, ⟨23, 16, .ro, 0x0⟩, ⟨13, 0, .ro, 0x0⟩]⟩,
  ⟨"BST_FTS", 0x400c002c, 0, 1, [⟨31, 0, .ro, 0x0⟩]⟩,
  ⟨"BST_SU", 0x400c0030, 0, 1, [⟨31, 31, .ro, 0x0⟩, ⟨5, 0, .ro, 0x0⟩]⟩]

def regsBst1 : List RDesc := [
  ⟨"BST_SUT", 0x400c0034, 0, 1, [⟨31, 0, .ro, 0x0⟩]⟩,
  ⟨"BST_FEX", 0x400c0038, 0, 1, [⟨31, 16, .ro, 0x0⟩, ⟨5, 0, .ro, 0x0⟩]⟩,
  ⟨"BST_ODEFLO", 0x400c003c, 0, 1, [⟨31, 0, .ro, 0x0⟩]⟩,
  ⟨"BST_ODEFHI", 0x400c0040, 0, 1, [⟨15, 0, .ro, 0x0⟩]⟩,
  ⟨"BST_EV", 0x400c0044, 0, 1, [⟨2, 2, .w1c, 0x0⟩, ⟨1, 1, .w1c, 0x0⟩, ⟨0, 0, .w1c, 0x0⟩]⟩,
  ⟨"BST_EVEN", 0x400c0048, 0, 1, [⟨2, 0, .rw, 0x0⟩]⟩]

/-- The BST registers. -/
def regsBst : List RDesc := regsBst0 ++ regsBst1

def regsSys0 : List RDesc := [
  ⟨"SYS_STATE", 0x40000000, 0, 1, [⟨8, 8, .ro, 0x0⟩, ⟨3, 0, .ro, 0x1⟩]⟩,
  ⟨"SYS_FAULT", 0x40000004, 0, 1, [⟨31, 31, .ro, 0x0⟩, ⟨30, 30, .ro, 0x0⟩, ⟨7, 0, .ro, 0x0⟩]⟩,
  ⟨"SYS_FTS", 0x40000008, 0, 1, [⟨31, 0, .ro, 0x0⟩]⟩,
  ⟨"SYS_RCAUSE", 0x4000000c, 0, 1, [⟨3, 3, .ro, 0x0⟩, ⟨2, 2, .ro, 0x0⟩, ⟨1, 1, .ro, 0x0⟩, ⟨0, 0, .ro, 0x1⟩]⟩,
  ⟨"SYS_STRAP", 0x40000010, 0, 1, [⟨1, 1, .ro, 0x0⟩, ⟨0, 0, .ro, 0x0⟩]⟩,
  ⟨"SYS_RST", 0x40000014, 0, 1, [⟨7, 0, .wo, 0x0⟩]⟩,
  ⟨"SYS_SUT", 0x40000018, 0, 1, [⟨31, 0, .ro, 0x0⟩]⟩,
  ⟨"SYS_FWVER", 0x4000001c, 0, 1, [⟨31, 0, .ro, 0x0⟩]⟩,
  ⟨"SYS_FWSTAT", 0x40000020, 0, 1, [⟨31, 31, .ro, 0x0⟩, ⟨30, 30, .ro, 0x0⟩, ⟨17, 0, .ro, 0x0⟩]⟩,
  ⟨"SYS_EV", 0x40000024, 0, 1, [⟨2, 2, .w1c, 0x0⟩, ⟨1, 1, .w1c, 0x0⟩, ⟨0, 0, .w1c, 0x0⟩]⟩,
  ⟨"SYS_EVEN", 0x40000028, 0, 1, [⟨2, 0, .rw, 0x0⟩]⟩,
  ⟨"SYS_HIEN", 0x40000040, 0, 1, [⟨31, 31, .rw, 0x0⟩, ⟨13, 0, .rw, 0x0⟩]⟩]

def regsSys1 : List RDesc := [
  ⟨"SYS_HIPEND", 0x40000044, 0, 1, [⟨31, 31, .w1c, 0x0⟩, ⟨13, 0, .ro, 0x0⟩]⟩,
  ⟨"SYS_HWIN", 0x40000048, 0, 1, [⟨31, 16, .rw, 0x2000⟩]⟩,
  ⟨"SYS_HSTAT", 0x4000004c, 0, 1, [⟨31, 16, .ro, 0x0⟩, ⟨15, 8, .ro, 0x0⟩, ⟨7, 0, .ro, 0x0⟩]⟩,
  ⟨"SYS_REFA", 0x40000050, 0, 1, [⟨31, 0, .ro, 0x0⟩]⟩,
  ⟨"SYS_REFI", 0x40000054, 0, 1, [⟨31, 31, .ro, 0x0⟩, ⟨30, 30, .ro, 0x0⟩, ⟨26, 24, .ro, 0x0⟩, ⟨15, 0, .ro, 0x0⟩]⟩]

/-- The SYS registers. -/
def regsSys : List RDesc := regsSys0 ++ regsSys1

def regsSeal0 : List RDesc := [
  ⟨"SEAL_NOW", 0x40001000, 0, 1, [⟨31, 31, .ro, 0x0⟩, ⟨30, 30, .ro, 0x0⟩, ⟨19, 16, .ro, 0x0⟩, ⟨15, 0, .ro, 0x0⟩]⟩,
  ⟨"SEAL_ACC", 0x40001004, 0, 1, [⟨31, 31, .ro, 0x0⟩, ⟨19, 16, .ro, 0x0⟩, ⟨15, 0, .ro, 0x0⟩]⟩,
  ⟨"SEAL_RAW", 0x40001008, 0, 1, [⟨20, 20, .ro, 0x0⟩, ⟨19, 0, .ro, 0x0⟩]⟩,
  ⟨"SEAL_RAWN", 0x4000100c, 0, 1, [⟨20, 20, .ro, 0x0⟩, ⟨19, 0, .ro, 0x0⟩]⟩,
  ⟨"SEAL_RTS", 0x40001010, 0, 1, [⟨31, 0, .ro, 0x0⟩]⟩,
  ⟨"SEAL_EV", 0x40001014, 0, 1, [⟨3, 3, .w1c, 0x0⟩, ⟨2, 2, .w1c, 0x0⟩, ⟨1, 1, .w1c, 0x0⟩, ⟨0, 0, .w1c, 0x0⟩]⟩,
  ⟨"SEAL_EVEN", 0x40001018, 0, 1, [⟨3, 0, .rw, 0x0⟩]⟩]

/-- The SEAL registers. -/
def regsSeal : List RDesc := regsSeal0

/-- The registers of the block span that an address lies in (R492). -/
def spanRegs (a : Nat) : List RDesc :=
  if a < 0x40001000 then regsSys
  else if a < 0x40002000 then regsSeal
  else match a / 0x10000 with
  | 0x4001 => regsChn
  | 0x4002 => regsFsg
  | 0x4003 => regsPrs
  | 0x4004 => regsCmp
  | 0x4005 => regsSes
  | 0x4006 => regsNet
  | 0x4007 => regsMst
  | 0x4008 => regsTnd
  | 0x4009 => regsEdc
  | 0x400a => regsCsk
  | 0x400b => regsOtp
  | 0x400c => regsBst
  | _ => []

/-- The description of the register at an address, if a chapter assigns one (R492). -/
def regDesc (a : Nat) : Option RDesc := (spanRegs a).find? (fun d => d.covers a)

/-- The reset word of a register: every field at its stated reset value, reserved bits 0 (R11). -/
def regReset (a : Nat) : Word :=
  match regDesc a with
  | none => 0
  | some d => d.fields.foldl (fun w f => w ||| BitVec.ofNat 32 (f.reset <<< f.lo)) 0

end Sys2Proof
end

