-- ==== Sys2Proof/Machine/Bits.lean ====
section
/-! DEFINITION. Bit fields, byte order, the three check values of the block, SHA-256 and ECDSA P-256. -/

namespace Sys2Proof.Machine

/-- Bits hi down to lo of a natural number. -/
def bits (w hi lo : Nat) : Nat := (w >>> lo) % 2 ^ (hi + 1 - lo)

/-- One bit of a natural number. -/
def bitAt (w i : Nat) : Bool := w.testBit i

/-- A natural number with bits hi down to lo replaced. -/
def putBits (w hi lo v : Nat) : Nat :=
  w - bits w hi lo * 2 ^ lo + (v % 2 ^ (hi + 1 - lo)) * 2 ^ lo

/-- The value of a field in a register word. -/
def fldVal (f : Fld) (w : Word) : Nat := (w.toNat >>> f.lo) % 2 ^ (f.hi + 1 - f.lo)

/-- The mask of a field. -/
def fldMask (f : Fld) : Word := BitVec.ofNat 32 ((2 ^ (f.hi + 1 - f.lo) - 1) <<< f.lo)

/-- A register word with one field replaced. -/
def fldIns (f : Fld) (w : Word) (v : Nat) : Word :=
  (w &&& ~~~(fldMask f)) ||| (BitVec.ofNat 32 (v <<< f.lo) &&& fldMask f)

/-- A natural number of n bits as a two's-complement integer. -/
def signed (n v : Nat) : Int := if 2 ^ (n - 1) ≤ v % 2 ^ n then (v % 2 ^ n : Int) - 2 ^ n else (v % 2 ^ n : Int)

/-- An integer in n bits of two's complement. -/
def unsign (n : Nat) (x : Int) : Nat := (x % (2 ^ n : Int)).toNat

/-- An integer kept inside n signed bits. -/
def satSigned (n : Nat) (x : Int) : Int :=
  if x > 2 ^ (n - 1) - 1 then 2 ^ (n - 1) - 1 else if x < -(2 ^ (n - 1)) then -(2 ^ (n - 1)) else x

/-- The value of bytes, least significant first (R9). -/
def leNat : List Byte → Nat
  | [] => 0
  | b :: r => b.toNat + 256 * leNat r

/-- The value of bytes, most significant first. -/
def beNat (l : List Byte) : Nat := l.foldl (fun a b => 256 * a + b.toNat) 0

/-- n bytes of a value, least significant first. -/
def leBytes : Nat → Nat → List Byte
  | 0, _ => []
  | n + 1, v => BitVec.ofNat 8 v :: leBytes n (v / 256)

/-- n bytes of a value, most significant first. -/
def beBytes (n v : Nat) : List Byte := (leBytes n v).reverse

/-- Bytes [a, a + n) of a list, missing bytes read as 0. -/
def slice (l : List Byte) (a n : Nat) : List Byte :=
  let t := (l.drop a).take n
  t ++ List.replicate (n - t.length) 0

/-- A little-endian field of a byte list. -/
def le (l : List Byte) (a n : Nat) : Nat := leNat ((l.drop a).take n)

/-- A big-endian field of a byte list. -/
def be (l : List Byte) (a n : Nat) : Nat := beNat ((l.drop a).take n)

/-- Stamp a is later than stamp b (R87). -/
def later (a b : Stamp) : Bool := 1 ≤ (a - b).toNat && (a - b).toNat ≤ 2 ^ 31 - 1

/-- The later of two stamps. -/
def laterOf (a b : Stamp) : Stamp := if later a b then a else b

/-- The earlier of two stamps. -/
def earlierOf (a b : Stamp) : Stamp := if later a b then b else a

/-- Whether an event with stamp t lies inside the window of start s and length w (R99). -/
def inWindow (t s : Stamp) (w : Nat) : Bool := (t - s).toNat < w

/-! ### CRC-16, CRC-32C and CRC-32 -/

/-- One bit of CRC-16, polynomial 0x1021 (R70). -/
def crc16Bit (c : BitVec 16) : BitVec 16 :=
  if c.msb then (c <<< 1) ^^^ 0x1021#16 else c <<< 1

/-- One byte of CRC-16 (R70). -/
def crc16Byte (c : BitVec 16) (b : Byte) : BitVec 16 :=
  (List.range 8).foldl (fun c _ => crc16Bit c) (c ^^^ (b.setWidth 16 <<< 8))

/-- CRC-16 with polynomial 0x1021 and initial value 0xFFFF (R70, R282, R500). -/
def crc16 (l : List Byte) : BitVec 16 := l.foldl crc16Byte 0xFFFF#16

/-- One bit of a reflected 32-bit CRC. -/
def crc32Bit (poly c : Word) : Word := if c.getLsbD 0 then (c >>> 1) ^^^ poly else c >>> 1

/-- One byte of a reflected 32-bit CRC. -/
def crc32Byte (poly c : Word) (b : Byte) : Word :=
  (List.range 8).foldl (fun c _ => crc32Bit poly c) (c ^^^ b.setWidth 32)

/-- The bytes of a list taken into a CRC in order. The match puts the value reached so far into normal form at
every byte, so that an evaluation does not pile up its work. -/
def crc32Fold (poly : Word) : List Byte → Word → Word
  | [], c => c
  | b :: r, c =>
    match c.toNat with
    | 0 => crc32Fold poly r (crc32Byte poly 0#32 b)
    | n + 1 => crc32Fold poly r (crc32Byte poly (BitVec.ofNat 32 (n + 1)) b)

/-- A reflected 32-bit CRC with initial value and final XOR of all ones. -/
def crc32With (poly : Word) (l : List Byte) : Word := ~~~(crc32Fold poly l (~~~0#32))

/-- CRC-32C (R282). -/
def crc32c (l : List Byte) : Word := crc32With 0x82F63B78#32 l

/-! ### SHA-256 (PRESUMED: FIPS 180-4, which R15 names; log 15) -/

/-- The whole part of the e-th root of a number below 2^(36e). -/
def wholeRoot (e n : Nat) : Nat :=
  (List.range 36).foldr (fun i r => if (r + 2 ^ i) ^ e ≤ n then r + 2 ^ i else r) 0

/-- The first 64 primes. -/
def primes : List Nat := (List.range 312).filter (fun n => 2 ≤ n && (List.range n).all (fun d => d < 2 || n % d != 0))

/-- The first 32 bits of the fraction of the e-th root of a prime: the constants of SHA-256 are such bits. -/
def rootBits (e p : Nat) : Word := BitVec.ofNat 32 (wholeRoot e (p * 2 ^ (32 * e)))

/-- The eight words between two blocks, before the first. -/
def hashStart : List Word := (primes.take 8).map (rootBits 2)

/-- The sum of a word's rotations, and of a shift of it where the standard has one. -/
def mixWord (x : Word) (turns : List Nat) (drop : Nat) : Word :=
  turns.foldl (fun v n => v ^^^ x.rotateRight n) (if drop = 0 then 0 else x >>> drop)

/-- Words of a padded message. -/
def hashWords : List Byte → List Word
  | a :: b :: c :: d :: r => (a ++ b ++ c ++ d) :: hashWords r
  | _ => []

/-- The message as words: a bit 1, zeros up to 8 bytes short of a block, and its length in bits. -/
def hashMessage (l : List Byte) : List Word :=
  let zeros := 63 - (l.length + 8) % 64
  hashWords (l ++ 0x80 :: List.replicate zeros 0 ++ beBytes 8 (8 * l.length))

/-- The next word of a schedule that is kept newest first. -/
def nextWord (w : List Word) : Word :=
  let back := fun n => w.getD (n - 1) 0
  back 16 + mixWord (back 15) [7, 18] 3 + back 7 + mixWord (back 2) [17, 19] 10

/-- The 64 words of a block's schedule. -/
def schedule (blk : List Word) : List Word :=
  ((List.range 48).foldl (fun w _ => nextWord w :: w) blk.reverse).reverse

/-- One round over the eight working words. -/
def hashRound (v : List Word) (k w : Word) : List Word :=
  let x := fun i => v.getD i 0
  let choose := x 6 ^^^ (x 4 &&& (x 5 ^^^ x 6))
  let most := (x 0 &&& (x 1 ||| x 2)) ||| (x 1 &&& x 2)
  let t := x 7 + mixWord (x 4) [6, 11, 25] 0 + choose + k + w
  (t + mixWord (x 0) [2, 13, 22] 0 + most) :: (v.take 3 ++ (x 3 + t) :: (v.drop 4).take 3)

/-- A block taken into the eight words. -/
def hashBlock (h blk : List Word) : List Word :=
  let out := (primes.zip (schedule blk)).foldl (fun v kw => hashRound v (rootBits 3 kw.1) kw.2) h
  List.zipWith (fun a b => a + b) h out

/-- Blocks of 16 words, as many as the fuel allows. -/
def hashBlocks : Nat → List Word → List Word → List Word
  | 0, h, _ => h
  | n + 1, h, w => hashBlocks n (hashBlock h (w.take 16)) (w.drop 16)

/-- SHA-256 of a byte list, 32 bytes. -/
def sha256 (l : List Byte) : List Byte :=
  let w := hashMessage l
  (hashBlocks (w.length / 16) hashStart w).flatMap (fun x => beBytes 4 x.toNat)

/-! ### ECDSA P-256 verification (PRESUMED: FIPS 186-5, which R15 names; log 15) -/

def p256P : Nat := 0xffffffff00000001000000000000000000000000ffffffffffffffffffffffff
def p256N : Nat := 0xffffffff00000000ffffffffffffffffbce6faada7179e84f3b9cac2fc632551
def p256B : Nat := 0x5ac635d8aa3a93e7b3ebbd55769886bc651d06b0cc53b0f63bce3c3e27d2604b
def p256Gx : Nat := 0x6b17d1f2e12c4247f8bce6e563a440f277037d812deb33a0f4a13945d898c296
def p256Gy : Nat := 0x4fe342e2fe1a7f9b8ee7eb4a7c0f9e162bce33576b315ececbb6406837bf51f5

/-- Modular power over the bits of the exponent from bit `n - 1` down. -/
def powMod (b e m : Nat) : Nat → Nat
  | 0 => 1 % m
  | n + 1 => let r := powMod b (e / 2) m n
             if e % 2 = 1 then r * r % m * b % m else r * r % m

/-- The inverse modulo a prime. -/
def invMod (a p : Nat) : Nat := powMod a (p - 2) p 256

/-- Addition of affine points, none is the point at infinity. -/
def ecAdd (a b : Option (Nat × Nat)) : Option (Nat × Nat) :=
  match a, b with
  | none, b => b
  | a, none => a
  | some (x1, y1), some (x2, y2) =>
    let p := p256P
    if x1 = x2 ∧ (y1 + y2) % p = 0 then none
    else
      let l := if x1 = x2 then (3 * x1 * x1 + (p - 3)) * invMod (2 * y1 % p) p % p
               else (y2 + p - y1) * invMod ((x2 + p - x1) % p) p % p
      let x3 := (l * l + 2 * p - x1 - x2) % p
      some (x3, (l * (x1 + p - x3) + p - y1) % p)

/-- Scalar multiple over n bits of the scalar. -/
def ecMul (k : Nat) (q : Option (Nat × Nat)) : Nat → Option (Nat × Nat)
  | 0 => none
  | n + 1 => let r := ecMul (k / 2) q n
             let d := ecAdd r r
             if k % 2 = 1 then ecAdd d q else d

/-- Whether (r, s) verifies over the 32-byte hash under the public key (qx, qy). -/
def ecdsaVerify (qx qy r s : Nat) (hash : List Byte) : Bool :=
  let p := p256P
  let n := p256N
  if qx < p ∧ qy < p ∧ (qy * qy) % p = (qx * qx * qx + (p - 3) * qx + p256B) % p
      ∧ 1 ≤ r ∧ r < n ∧ 1 ≤ s ∧ s < n then
    let w := invMod s n
    let u1 := beNat hash * w % n
    let u2 := r * w % n
    match ecAdd (ecMul u1 (some (p256Gx, p256Gy)) 256) (ecMul u2 (some (qx, qy)) 256) with
    | none => false
    | some (x, _) => x % n == r
  else false

end Sys2Proof.Machine
end

