-- ==== Sys2Proof/Machine/Bch.lean ====
section
/-! DEFINITION. The outer code of a Cask page (R371): arithmetic of GF(2¹⁵), the generator polynomials of the four strengths,
and the spare area that the controller writes. -/

namespace Sys2Proof.Machine

/-- A field element times α, the root of x¹⁵ + x + 1. -/
def gfShift (a : Nat) : Nat := if 2 * a < 0x8000 then 2 * a else (2 * a) ^^^ 0x8003

def gfMul (a b : Nat) : Nat := (List.range 15).foldr (fun i r => gfShift r ^^^ (if b.testBit i then a else 0)) 0

def gfPow : Nat → Nat
  | 0 => 1
  | n + 1 => gfShift (gfPow n)

/-- A polynomial over the field, lowest coefficient first, times x + b. -/
def timesRoot (p : List Nat) (b : Nat) : List Nat :=
  List.zipWith (· ^^^ ·) (0 :: p) (p.map (gfMul b) ++ [0])

/-- The minimal polynomial of a field element, as the bits of a number: the product over its 15 conjugates. -/
def minPoly (b : Nat) : Nat :=
  let r := (List.range 15).foldl (fun (a : List Nat × Nat) _ => (timesRoot a.1 a.2, gfMul a.2 a.2)) ([1], b)
  r.1.foldr (fun c n => 2 * n + c) 0

/-- The product of two polynomials over GF(2), the second of degree at most 15. -/
def polyMul (a b : Nat) : Nat := (List.range 16).foldl (fun r i => if b.testBit i then r ^^^ (a <<< i) else r) 0

/-- Bits that the outer code corrects at a strength code, and its parity bits. -/
def outerT (code : Nat) : Nat := 8 * (code + 1)
def parityBits (code : Nat) : Nat := 15 * outerT code

/-- The generator: the minimal polynomials of α, α³, … α^(2t-1), which differ, multiplied. -/
def generator (code : Nat) : Nat :=
  (List.range (outerT code)).foldl (fun g i => polyMul g (minPoly (gfPow (2 * i + 1)))) 1

/-- One message bit into the division by a generator of degree d. -/
def divStep (g d : Nat) (r : Nat) (b : Bool) : Nat :=
  let top := r.testBit (d - 1) != b
  let r := (2 * r) % 2 ^ d
  if top then r ^^^ (g % 2 ^ d) else r

/-- The bits of a number, most significant first. -/
def msbFirst (n v : Nat) : List Bool := (List.range n).reverse.map v.testBit

/-- The message of a page: its number and its data. The order of bits in a byte is open: most significant first
(DESIGN CHOICE, log 55). -/
def pageMessage (page : Nat) (data : List Byte) : List Bool := msbFirst 13 page ++ data.flatMap (fun b => msbFirst 8 b.toNat)

/-- The spare area of a page as it is written: parity, zeros, and the strength code three times over. -/
def spareArea (page code : Nat) (data : List Byte) : List Byte :=
  let g := generator code
  let d := parityBits code
  let r := (pageMessage page data).foldl (divStep g d) 0
  beBytes (d / 8) r ++ List.replicate (0x3C - d / 8) 0 ++ [BitVec.ofNat 8 (code * 0x15), 0, 0, 0]

end Sys2Proof.Machine
end

