-- ==== Sys2Proof/Config.lean ====
section
/-! DEFINITION. The values that the spec leaves open: constants without a body. Nothing in Lean can
evaluate one or prove a value of it; a use that needs a bound applies the bound the spec states. -/

namespace Sys2Proof

/-- Fresh open bits: the n-th draw of the model's counter `freshIdx` (DESIGN CHOICE, log 2). -/
opaque Config.freeBits : Nat → BitVec 64

/-- Whether a RESET_N low level of the given nanoseconds, from 500 ns up to 1000 ns, acts (R466). -/
opaque Config.resetGlitchActs : Nat → Bool

/-- The part of a switching point's tolerance that this module has: channel, point number and factory trim of the point to a
signed offset, which is clamped to the stated tolerance (R47, R258, R426). -/
opaque Config.pointTrim : Nat → Nat → Nat → Int

/-- Whether a trimmed sample that falls between two codes takes the upper one: channel and sample (R426: not given). -/
opaque Config.trimRound : Nat → Int → Bool

/-- The trim that registers FE_TRIM0 to FE_TRIM6 set when they do not hold what the boot ROM writes: by field and words. -/
opaque Config.trimField : Nat → List Word → Nat

/-- The class of a word with an even number (2 or more) of wrong bits, and of one with an odd number
(3 or more): the code's columns are not given (R365, R366). -/
opaque Config.eccManyBits : BitVec 32 → BitVec 7 → BitVec 18 → Nat

/-- The data bit that a miscorrection of three or more wrong bits flips (R366, R367). -/
opaque Config.eccMiscorrect : BitVec 32 → BitVec 7 → BitVec 18 → Nat

/-- What the outer code of the Cask yields for a page with more wrong bits than it corrects (R371). -/
opaque Config.bchBeyond : Nat → List Nat → Nat

/-- The shadow word that both lanes add in an injection cycle, by cycle index: its value is not given (R219). -/
opaque Config.shadowWord : Nat → BitVec 64

/-- The packing of the trim fields of a channel into FE_TRIM0 to FE_TRIM6 (R426: not given): by register and field values. -/
opaque Config.feTrim : Nat → List Nat → Word

/-- The terminal B value after factory trim, by channel and raw code: the trim is not given (CHN_VB). -/
opaque Config.vbValue : Nat → BitVec 14 → BitVec 16

/-- The egress port order, arbitration and identity choices that the network standards leave to the
implementation, as a draw by an index. -/
opaque Config.netChoice : Nat → Nat

/-- The code of an EVENT record whose code the spec does not give: by interrupt line and what is reported. -/
opaque Config.evCode : Nat → List Nat → BitVec 8

/-- The detail of such a record. -/
opaque Config.evDetail : Nat → List Nat → BitVec 16

/-- The data bytes of such a record, cut at the 52 bytes that R396 allows. -/
opaque Config.evData : Nat → List Nat → List (BitVec 8)

end Sys2Proof
end

