-- ==== Sys2Proof/Machine/Tab.lean ====
section
/-! DEFINITION. Sparse tables and sparse byte memories as plain data: lists of key and value in rising key
order, so that equal contents are equal lists. -/

namespace Sys2Proof

/-- A sparse table: entries in rising key order. -/
structure Tab (α : Type) where
  entries : List (Nat × α)
  deriving DecidableEq, Repr, Inhabited

/-- The entry of a key in an entry list. -/
def findKey {α : Type} (k : Nat) : List (Nat × α) → Option α
  | [] => none
  | (j, v) :: r => if j = k then some v else findKey k r

/-- Put a value at a key, keeping the rising order. -/
def putKey {α : Type} (k : Nat) (v : α) : List (Nat × α) → List (Nat × α)
  | [] => [(k, v)]
  | (j, w) :: r => if k < j then (k, v) :: (j, w) :: r
                   else if j = k then (k, v) :: r
                   else (j, w) :: putKey k v r

/-- Take a key out. -/
def dropKey {α : Type} (k : Nat) : List (Nat × α) → List (Nat × α)
  | [] => []
  | (j, w) :: r => if k < j then (j, w) :: r
                   else if j = k then r
                   else (j, w) :: dropKey k r

/-- The keys rise strictly. -/
def risingKeys {α : Type} : List (Nat × α) → Bool
  | [] => true
  | [_] => true
  | (i, _) :: (j, w) :: r => decide (i < j) && risingKeys ((j, w) :: r)

def Tab.empty {α : Type} : Tab α := ⟨[]⟩

def Tab.find {α : Type} (t : Tab α) (k : Nat) : Option α := findKey k t.entries

/-- The value at a key, or the value an unlisted key has. -/
def Tab.get {α : Type} (t : Tab α) (d : α) (k : Nat) : α := (findKey k t.entries).getD d

def Tab.set {α : Type} (t : Tab α) (k : Nat) (v : α) : Tab α := ⟨putKey k v t.entries⟩

def Tab.del {α : Type} (t : Tab α) (k : Nat) : Tab α := ⟨dropKey k t.entries⟩

/-- Only the entries whose key passes. -/
def Tab.keep {α : Type} (t : Tab α) (f : Nat → Bool) : Tab α := ⟨t.entries.filter (fun e => f e.1)⟩

def Tab.map {α β : Type} (t : Tab α) (f : α → β) : Tab β := ⟨t.entries.map (fun e => (e.1, f e.2))⟩

/-- Numbers in rising order, each once. -/
def rising (l : List Nat) : List Nat :=
  (l.foldl (fun (t : Tab Unit) i => t.set i ()) Tab.empty).entries.map (fun e => e.1)

/-- A byte memory: what every unlisted address reads as is the operation's argument. -/
abbrev Mem := List Host.Cell

/-- Read one byte of a memory whose unlisted bytes read `d`. -/
def memGet (d : Byte) (m : Mem) (a : Nat) : Byte := (findKey a m).getD d

/-- Write one byte, keeping the canonical form: an entry equal to `d` is not listed. -/
def memPut (d : Byte) (m : Mem) (a : Nat) (b : Byte) : Mem :=
  if b = d then dropKey a m else putKey a b m

/-- The canonical form: addresses strictly rising, no entry equal to what an unlisted address reads as. -/
def memWf (d : Byte) (m : Mem) : Bool := risingKeys m && m.all (fun e => !(e.2 == d))

/-- Write bytes from an address upward. -/
def memPutList (d : Byte) (m : Mem) (a : Nat) : List Byte → Mem
  | [] => m
  | b :: r => memPutList d (memPut d m a b) (a + 1) r

/-- Read `n` bytes from an address upward. -/
def memGetList (d : Byte) (m : Mem) (a n : Nat) : List Byte :=
  (List.range n).map (fun i => memGet d m (a + i))

end Sys2Proof
end

