-- ==== Sys2Proof/Machine/State.lean ====
section
/-! DEFINITION. The state of the block as plain data: every register, memory, queue, counter, mode and pin
that the spec gives it, and the queue of waiting commands. Visible register values have their home in `regs`
(the value of an unlisted register is its reset value, Machine/RegMap.lean); the structures hold what no
register shows. -/

namespace Sys2Proof.Machine

/-- The states of the module (R32); RESET is the module in reset (R465). -/
inductive Mode where
  | reset | startup | held | idle | run | safe | twin
  deriving DecidableEq, Repr, Inhabited

/-- Where STARTUP stands between its steps (R469, R475, R476, R479). -/
inductive StartPhase where
  | none
  | hostWait
  | initCall (since : Nat)
  | sealRead (reads : Nat) (prev : Option (BitVec 20))
  deriving DecidableEq, Repr, Inhabited

/-- Start-up and restart bookkeeping (R475, R476, R483). -/
structure Boot where
  phase     : StartPhase
  fwRun     : Bool                             -- firmware has control (R472)
  lanesOn   : Bool                             -- lane clocks run, from test 4 on (R84)
  fwEntry   : Word                             -- address of the run entry
  fwInit    : Word
  rstFirst  : Option (Requester × Nat)         -- 0xA5 taken, by whom and when (R483)
  rstAccept : Bool                             -- restart accepted, record posted
  rstEvent  : Nat                              -- queue entries ahead of and with the restart record
  deriving DecidableEq, Repr, Inhabited

/-- Pins and the logic supply (R465, R484, R497, R510, R524); voltages in mV. -/
structure Pins where
  resetHigh : Bool
  powerGood : Bool
  faultN    : Bool      -- released (high)
  syncOut   : Bool
  vl24      : Int
  holdup    : Int
  holdupOn  : Bool      -- HOLDUP joined to the converter input
  charging  : Bool
  pfwClear  : Nat       -- consecutive microticks at or above 18 V
  deriving DecidableEq, Repr, Inhabited

/-- A write that changed an RWS field: its microtick, who made it, and what it replaced. One of a write transaction of the host is that
transaction's word, and the words after it have changed registers too. -/
structure RwsWrite where
  at_    : Nat
  req    : Requester
  addr   : Nat
  old    : Word
  forced : Option Nat
  later  : List (Nat × Word × Word)  -- registers that later words of its transaction have changed: before and after
  tx     : Option (Nat × Nat)        -- its place in the transaction, and the transaction's number
  deriving DecidableEq, Repr, Inhabited

/-- The seal readers (R477 to R482). -/
structure Seal where
  onRun : Nat                       -- microticks of good SW1-on readings in both lanes (R478)
  sw1   : Sw1Read                   -- the SW1 contacts as each lane reads them (R477)
  rws   : List RwsWrite             -- writes that changed an RWS field in the latest microtick that had one (R487)
  last  : Option (SealRead × SealRead)   -- last read of SW2 to SW6 by both lanes
  deriving DecidableEq, Repr, Inhabited

/-- Both lanes read a good SW1 pair that shows on (R478). -/
def Seal.sw1Pair (x : Seal) : Bool := x.sw1 == ⟨2, 2⟩

/-- Kinds of a channel-fault cause (R35, CHN_FAULT, R266): present until gone by its own rule. -/
inductive ChCause where
  | frame | link | flt | extFeed | dipFeed | xshort | wire | echo | self | source | counter | out (code : Nat)
  deriving DecidableEq, Repr, Inhabited

/-- Supply bands (R258). -/
inductive Band where
  | absent | normal | sag | under | over | reversed
  deriving DecidableEq, Repr, Inhabited

/-- A contact or test-pulse source of a field side (R45). -/
structure Source where
  on       : Bool
  limSince : Option Nat
  latched  : Bool
  tripAt   : Nat
  deriving DecidableEq, Repr, Inhabited

/-- The factory trim of a channel (R426): voltage, low-current and high-current offset and gain, the point trims for rising
and falling voltage and current, and the reference trim. -/
structure Trim where
  vOff  : BitVec 8
  vGain : BitVec 10
  lOff  : BitVec 8
  lGain : BitVec 10
  hOff  : BitVec 8
  hGain : BitVec 10
  rv    : BitVec 6
  fv    : BitVec 6
  ri    : BitVec 6
  fi    : BitVec 6
  ref   : BitVec 8
  deriving DecidableEq, Repr, Inhabited

/-- No offset and a gain of 1: a front end that has no trim in force yet (DESIGN CHOICE, log 7). -/
def Trim.neutral : Trim := ⟨0, 512, 0, 512, 0, 512, 0, 0, 0, 0, 0⟩

/-- An exercise of the comparators under way (R456): since when, the bits of FE_SELF that it fails, and whether the banks have been
swapped. -/
structure ExRun where
  since   : Nat
  bad     : Nat
  swapped : Bool
  deriving DecidableEq, Repr, Inhabited

/-- The front end on the field side of one channel. -/
structure Fe where
  band       : Band
  locked     : Bool
  errHist    : List Bool              -- code errors in the last 16 frames, newest first
  committed  : Bool
  held       : Tab Word               -- front-end registers in force (R73)
  staged     : Tab Word               -- values applied before the commit
  auxNibs    : List Nat               -- nibbles of the downlink word being collected
  auxBad     : Bool
  aux0       : Option (Byte × Word)   -- last complete downlink auxiliary word
  aux1       : Option (Byte × Word)   -- the one before it
  lastSeq    : Option Nat             -- SEQ of the last accepted downlink frame (R72)
  lastAcc    : Nat                    -- microtick of the last accepted downlink frame
  count      : Nat                    -- integrating counter (R93)
  run        : Nat                    -- debounce run (R97)
  lastRaw    : Bool
  raw        : Bool
  inn        : Bool
  mband      : BitVec 2               -- monitored-input band (R49)
  wbrk       : Nat
  ind        : Nat
  holdEnd    : Nat                    -- end of the filter hold in force or last (R60)
  dipStart   : Option Nat
  src        : Source
  hs         : Bool                   -- high-side switch conducts
  ls         : Bool                   -- low-side switch conducts
  hsWant     : Bool                   -- state asked for by request, enable, DTS and latches
  lsWant     : Bool
  reqA       : Bool                   -- requests of the last accepted frame
  reqB       : Bool
  stdq       : Bool
  phA        : Bool                   -- enable phases of the last accepted frame
  phB        : Bool
  chgA       : Option Nat             -- last valid phase change (R27)
  chgB       : Option Nat
  tpd        : Bool
  dts        : BitVec 2
  limHs      : Option Nat             -- the high-side switch limits without a break since (R239)
  limLs      : Option Nat             -- and the low-side switch
  climLatch  : Option Byte
  zeroFrames : Nat
  prog       : Bool                   -- programmed state applied (R256)
  brt        : Nat                    -- bridging timer (R260)
  sagTrip    : Bool                   -- its own bridging trip in the Sag in force or last (R260)
  normRun    : Nat                    -- consecutive microticks in Normal
  zeroNorm   : Nat                    -- Normal microticks with safety requests 0 (R262)
  supLatch   : Option Byte
  fault      : Byte                   -- FE_FAULT
  faultAt    : Nat                    -- microtick of its code (R267)
  cfgFlt     : Bool                   -- differing rewrite without a reopen (R73)
  selfReg    : Word                   -- FE_SELF
  exAt       : Nat                    -- due time of the next exercise (R456)
  exRun      : Option ExRun           -- the exercise under way
  liveB      : Bool                   -- comparator bank B is live
  trim       : Trim                   -- the factory trim in force (R426)
  stPend     : Bool                   -- output-stage test pending (R460)
  stRun      : Option Nat             -- running since
  stHigh     : Bool                   -- terminal A has been at or above 18 V with the high side closed (R458)
  stLow      : Bool                   -- and below 5 V after its opening
  stFail     : Bool
  stAgain    : Nat                    -- due time of the 100 ms repeat
  upWord     : BitVec 64              -- uplink auxiliary word being sent
  upReg      : Nat                    -- next register to echo
  up         : Option (BitVec 64)     -- last uplink frame sent
  deriving DecidableEq, Repr, Inhabited

/-- One received sample of a channel as the lanes hold it: index, IN with its stamp, valid, codes. -/
structure Sample where
  idx   : Nat
  inn   : Bool
  stamp : Stamp
  valid : Bool
  v     : BitVec 14
  i     : BitVec 14
  pos   : Int
  posB  : Int
  deriving DecidableEq, Repr, Inhabited

/-- A dark test of one side of a channel (R246 to R248): slot start, still decidable, observation window judged,
and the conditions of the two windows as far as seen. -/
structure DarkTest where
  start   : Nat
  live    : Bool
  obsDone : Bool
  obs     : Bool
  res     : Bool
  deriving DecidableEq, Repr, Inhabited

/-- One channel as the logic side holds it: link hub and both lanes, which work on the same frames. -/
structure Chan where
  down     : Option (BitVec 64)      -- downlink frame of this microtick
  lastReq  : Bool                    -- a request was 1 in the last downlink frame (R359)
  locked   : Bool
  errHist  : List Bool
  good     : Nat                     -- consecutive frames that passed with the link locked (R71)
  causes   : List ChCause
  faults   : List Nat                -- indexes of its channel faults in the last microticks (R38)
  faulted  : Bool                    -- a channel fault since the channel was last valid (R484)
  reopen   : Bool                    -- since acquisition or reopen, not every echo matches yet (R73)
  grace    : Option Nat              -- after acquisition, no `cfge` up to this microtick; none: no bound yet (R73)
  downPos  : Nat                     -- place of the hub in its configuration sequence
  downWord : BitVec 64               -- downlink auxiliary word being sent
  reqA     : Bool                    -- requests in force (R24)
  reqB     : Bool
  stdq     : Bool
  hist     : List Sample             -- newest first, for the snapshots
  lastIn   : Bool
  inFrom   : Nat                     -- frames up to this index read IN as 0: the filter starts again (R94)
  inStamp  : Stamp
  badFrom  : Nat                     -- invalid from this index on (R21)
  preStamp : Stamp                   -- stamp of the frames before it that are still to come
  preValid : Bool                    -- and that they are valid
  lastAB   : Option (BitVec 2)       -- last counter-pair bits (R63)
  pos      : Int                     -- Lane A's position and the stamp of the last counted edge (R64)
  edge     : Stamp
  edges    : List (Nat × Int)        -- counted edges of the last microticks: index, position; newest first
  posB     : Int                     -- Lane B's position, stamp and edges, which hold the complement
  edgeB    : Stamp
  edgesB   : List (Nat × Int)
  upNibs   : List Nat
  upBad    : Bool
  echoAt   : Tab Nat                 -- last echo of each register (R74)
  echoOk   : List Nat                -- registers whose echo matches since reopen
  selfCnt  : Option Nat              -- last FE_SELF count echoed and when it advanced (R457)
  selfAt   : Nat
  lastRawL : Bool                    -- RAW of the last good frame
  preRaw   : Bool                    -- RAW in the microtick before the dip of the slot under check (R56)
  winAll   : Bool                    -- dark in every microtick of the observation window so far
  winBad   : Bool                    -- a frame of the window failed (R58)
  slotBad  : Bool                    -- a frame of the slot failed (R55)
  dipOk    : Bool                    -- TPA echo in place so far in the slot (R55)
  feedA    : Nat                     -- consecutive frames with V at or above 11 V while off (R252)
  feedB    : Nat
  offSince : Option Nat
  goneRun  : Nat                     -- run of R254
  olRun    : Nat
  sumI     : Int                     -- sums of the 1000 and 10 000 microtick blocks
  sumG     : Int
  mean     : Int
  shareOut : Nat                     -- consecutive blocks out of share (R244)
  passHs   : Nat                     -- last passed high-side and low-side dark test
  passLs   : Nat
  onSince  : Option Nat
  dtHs     : Option DarkTest         -- high-side and low-side dark test under way
  dtLs     : Option DarkTest
  prevOn   : Bool                    -- both requests were 1 in the last downlink frame but this (R247)
  prevSlow : Bool                    -- the front end was not in Normal in the last microtick
  reqHist  : List (Nat × Bool × Bool)   -- requests of the last frames: index, any, on (R254)
  xshLink  : List Nat                -- slots that found a cross-short on this channel
  calQ     : Bool
  outAt    : Nat                     -- microtick of the last output fault code (R267)
  deriving DecidableEq, Repr, Inhabited

/-- One supply group on the logic side. -/
structure Group where
  mean    : Int                      -- last block mean in codes of 0.5 mA
  tripAt  : Option Nat               -- overload trip (R263, R265)
  stdHold : Bool
  sagRun  : Nat
  sagTrip : Bool                     -- a bridging trip in the Sag in force or last (R271)
  deriving DecidableEq, Repr, Inhabited

/-- The channel link hub (R106 to R111). -/
structure Hub where
  phi       : Int
  lost      : Bool
  lastEdge  : Option Nat             -- last SYNC_IN edge
  srcBad    : Bool
  step      : Int                    -- step that the next cycle takes (R108)
  taken     : Int                    -- step of the cycle in progress
  first     : Nat                    -- index of the first cycle of RUN (R471)
  next      : Nat                    -- next cycle boundary
  nextCyc   : Nat                    -- its cycle index
  bounds    : List (Nat × Nat × Int) -- boundaries passed that wait for Lane A: cycle index, boundary, step command
  deriving DecidableEq, Repr, Inhabited

/-- An enable and its lane's fault state (R216 to R218). -/
structure Enable where
  phase    : Bool
  changed  : Nat                     -- microtick of the last change
  conds    : Bool                    -- generator conditions held in the last microtick
  failedAt : Option Nat              -- when they first failed
  laneFlt  : Bool
  line     : Bool                    -- a detection has asserted a device-fault line (R217)
  lines    : Tab (BitVec 2)          -- the dual-rail lines by detector; an unlisted one shows no fault, 0b01
  deriving DecidableEq, Repr, Inhabited

/-- A boolean net of one lane: value, valid, stamp (R116). -/
structure BNet where
  v : Bool
  q : Bool
  t : Stamp
  deriving DecidableEq, Repr, Inhabited

/-- An analog net of one lane. -/
structure ANet where
  x : BitVec 16
  q : Bool
  t : Stamp
  deriving DecidableEq, Repr, Inhabited

/-- An open window [start, start + len) (R99). -/
structure Win where
  start : Stamp
  len   : Nat
  deriving DecidableEq, Repr, Inhabited

/-- A release of a BRAKE that is still watched (R195 to R198): its start, whether its feedback is awaited (`fb`), the highest current
and the dip depth so far, the dip with the voltage there, whether its signature is still to be judged (`judge`), its steady current still
to be taken (`conf`, then in `cur`) and its record still to be written (`note`). -/
structure Pull where
  s     : Stamp
  fb    : Bool
  peak  : Int
  depth : Int
  dip   : Option (Stamp × Int)
  judge : Bool
  conf  : Bool
  cur   : Int
  note  : Bool
  deriving DecidableEq, Repr, Inhabited

/-- The state registers of one cell slot: the trip latch (R166), the inputs as last read, and the timers,
counters and flags whose meaning each cell type sets out in Machine/Cells.lean. -/
structure CellSt where
  st     : Nat                       -- state of the type's own table
  trip   : Bool
  code3  : Bool                      -- latch set by code 0x3
  own    : Nat                       -- the own codes that have set the latch, one bit for each
  tcode  : Nat                       -- the code that set it first
  g3     : Option Stamp              -- cause of code 0x3 gone at
  acc3   : Stamp
  gOwn   : Option Stamp              -- cause of the own code gone at
  clr    : Stamp                     -- the last clearing of the latch, or the entry to RUN
  seen   : Bool                      -- every safety input has been valid since entry (R163)
  ins    : List BNet                 -- inputs of the previous cycle, in effective values
  w1     : Option Win
  w2     : Option Win
  w3     : Option Win
  w4     : Option Win
  opens  : List (Stamp × Int)        -- CHAIN: openings not reported yet, with their dark taps (R201); LOCK: open
                                     -- feedback windows (R183); oldest first
  pulls  : List Pull                 -- BRAKE: releases still watched, oldest first (R195 to R198)
  s1     : Stamp
  s2     : Stamp
  s3     : Stamp
  n1     : Int
  n2     : Int
  n3     : Int
  n4     : Int
  f1     : Bool
  f2     : Bool
  f3     : Bool
  f4     : Bool
  f5     : Bool
  o0     : BNet
  o1     : BNet
  a1     : ANet
  deriving DecidableEq, Repr, Inhabited

/-- What a snapshot holds of one session (R21, R207, R289): producer `ok` with its microtick, the consumed bits
as last decided before the boundary (microtick, valid, values), the entry of the consumer to RUN, and its last fault. -/
structure SesView where
  ok    : Bool
  okT   : Tick
  entry : Option (Tick × Bool × List Bool)
  runAt : Option Tick
  fault : Option Tick
  deriving DecidableEq, Repr, Inhabited

/-- A snapshot (R21): the fixed nets, counter edges and consumed bits of one cycle. -/
structure Snap where
  boundary : Nat
  cycle    : Nat
  first    : Bool
  step     : Int                     -- the step command that goes with it (R112)
  bnets    : Tab BNet
  anets    : Tab ANet
  valids   : Tab BNet                -- channel validity as OUTP and SPEED read it, with deferral (R461)
  counters : Tab (Int × List (Tick × Int))   -- counter pair to position and the edges since the last snapshot
  ses      : Tab SesView
  deriving DecidableEq, Repr, Inhabited

/-- A word of a released set with its parity bits, one for each 16 bits, and its epoch bit (R211 to R213). -/
structure DWord where
  w     : BitVec 64
  par   : BitVec 4
  epoch : Bool
  deriving DecidableEq, Repr, Inhabited

/-- A released set of one lane: cycle index, words, and the nets it was released from (R154, R159). -/
structure Rel where
  cyc   : Nat
  bound : Nat                        -- the lane's own boundary index of the cycle (R112)
  words : List DWord
  shadow : Option DWord              -- the shadow word of an injection cycle (R219)
  shErr : Bool                       -- and whether it failed the entry check
  nets  : Tab BNet
  anets : Tab ANet
  deriving DecidableEq, Repr, Inhabited

/-- A tasting slice under way (R448 to R450): the microtick in which its cycle started, the lane clocks of the evaluation before it,
what it finds, the cycle index, the region order, and whether it has begun. -/
structure Slice where
  at_    : Nat
  clocks : Nat
  obs    : SliceObs
  cyc    : Nat
  order  : List Nat
  begun  : Bool
  deriving DecidableEq, Repr, Inhabited

/-- One lane. Lane B holds nets, snapshot nets, cell states and configuration complemented. -/
structure LaneSt where
  cfg       : Mem                    -- configuration memory (R153), laid out in the order of a readback pass
  crcRef    : List Word
  nets      : Tab BNet
  anets     : Tab ANet
  prevNets  : Tab BNet
  prevANets : Tab ANet
  snap      : Option Snap
  nextSnap  : Option Snap
  bnd       : Nat                    -- the lane's own boundary count (R112)
  phi       : Int                    -- and the sum of the steps it has applied
  bR        : Nat                    -- the entry stamp (R163)
  cells     : Tab CellSt
  startAt   : Nat
  evaled    : Bool
  release   : Option Rel
  shortCyc  : Bool
  sstep     : Nat                    -- step within the pass
  slice     : Option Slice           -- the tasting slice under way
  results   : List (Nat × Nat × Nat × Bool)  -- cycle, region, step and result of the last slices, newest first (R451)
  deriving DecidableEq, Repr, Inhabited

/-- Comparator, delay registers and shadow monitors (R212 to R220, R233). -/
structure Comp where
  delay    : Option Rel              -- the delay registers
  dues     : List (Nat × Nat)        -- comparisons due: cycle index, output update point
  shown    : Option (Rel × Rel)      -- latest cycle that both lanes released (R159)
  epoch    : Bool
  made     : Bool                    -- a comparison has been made since entry to RUN (R232)
  told     : Bool                    -- a mismatch, a parity error or a missing release has been reported
  bad      : Bool                    -- the health pairs hold a non-code value (R215)
  since    : Nat                     -- the health pairs show the healthy code from this microtick
  through  : Nat                     -- through this one (R215)
  shadow   : Option Nat              -- step under injection, once compared
  flag     : Option ShadowFlag       -- the shadow flag pair of that slot (R219)
  shadowAt : Nat
  forced   : Option Nat              -- slot of a forced mismatch (R233)
  forcedIn : Option Nat              -- cycle of the release that carries it
  deriving DecidableEq, Repr, Inhabited

/-- Tasting passes (R451 to R455). -/
structure Taste where
  passAt  : Nat
  tdl     : Nat
  order   : List Nat                 -- region order in force
  running : Bool                     -- a pass is under way
  deriving DecidableEq, Repr, Inhabited

/-- Consumed bits as decided at a microtick (R207): by a window that closed then, valid, the entry to RUN they belong to,
and their values. -/
structure SesBits where
  close : Bool
  valid : Bool
  run   : Option Tick
  vals  : List Bool
  deriving DecidableEq, Repr, Inhabited

/-- Session states (R293, R294). -/
inductive SesSt where
  | closed | opening | run | hold | failed
  deriving DecidableEq, Repr, Inhabited

/-- The state one half of the engine holds for a session (R298), in true form; microticks are the module's own count. -/
structure SesHalf where
  st      : SesSt
  vSent   : Word                     -- virtual sequence sent since entry to OPENING (R284)
  vTx     : Word                     -- and of the last telegram sent (SES_VTX)
  vLast   : Word
  base    : Bool
  peerTs  : Stamp                    -- sender timestamp of the latest accepted telegram
  hasTs   : Bool
  win     : Option Nat               -- echo of the latest accepted telegram: window start (R288, R289)
  rejAt   : Option Nat               -- start of the rejection window (R292)
  failAt  : Nat
  runAt   : Option Nat               -- last entry to RUN
  sentOpn : List Nat                 -- returns sent since entry to OPENING (R290)
  retHist : List (Nat × Stamp)       -- accepted returns: acceptance, sender timestamp (R286)
  bits    : List (Nat × SesBits)     -- consumed bits by microtick, newest first
  oks     : List (Nat × Bool × Bool) -- SESOUT ok: microtick, by a window that closed then, value; newest first (R289)
  deriving DecidableEq, Repr, Inhabited

/-- The same state as Lane B's half holds it, every bit complemented (R298). -/
structure SesHalfC where
  st      : BitVec 3
  vSent   : Word
  vTx     : Word
  vLast   : Word
  base    : Bool
  peerTs  : Stamp
  hasTs   : Bool
  win     : Option (BitVec 64)
  rejAt   : Option (BitVec 64)
  failAt  : BitVec 64
  runAt   : Option (BitVec 64)
  sentOpn : List (BitVec 64)
  retHist : List (BitVec 64 × Stamp)
  bits    : List (BitVec 64 × SesBits)
  oks     : List (BitVec 64 × Bool × Bool)
  deriving DecidableEq, Repr, Inhabited

/-- Produced bits at an update point (R29, R208): the boundary of their snapshot, Lane A's values, and Lane B's
complemented. -/
structure SesProd where
  bound : Nat
  a     : List Bool
  b     : List Bool
  deriving DecidableEq, Repr, Inhabited

/-- One session. -/
structure Ses where
  ha      : SesHalf
  hb      : SesHalfC
  prod    : List (Nat × SesProd)             -- produced bits by update point, newest first
  fault   : Bool                             -- session fault until next in RUN (R484)
  fltAt   : Option Nat                       -- microtick of the last session fault
  sentAt  : Option (Nat × Bool)              -- the last telegram sent: microtick, fail-safe
  split   : Bool                             -- its halves have been found to differ (R298)
  deriving DecidableEq, Repr, Inhabited

/-- A queued frame with its accounting (R319, R322). -/
structure QFrame where
  f       : Frame
  bytes   : Nat
  ingress : Nat
  cls     : Option (Fin 2)
  inHead  : Bool
  cut     : Bool
  deriving DecidableEq, Repr, Inhabited

/-- A gate list entry (R325). -/
structure GateEnt where
  mask : Byte
  intv : Nat
  deriving DecidableEq, Repr, Inhabited

/-- An announced time source (R326): the vector that the best master clock algorithm compares. -/
structure GmVec where
  pri1 : Nat
  cls  : Nat
  acc  : Nat
  var  : Nat
  pri2 : Nat
  gid  : BitVec 64
  steps : Nat
  port : BitVec 80
  deriving DecidableEq, Repr, Inhabited

/-- One network port. -/
structure Port where
  link     : Option Speed
  queues   : Tab (List QFrame)
  pool     : Tab Nat                 -- shared-pool occupancy of each lossless class
  head     : Tab Nat                 -- headroom occupancy of each lossless class
  xoff     : Tab Nat                 -- class to the microtick of the last XOFF
  pauseTo  : Tab Nat                 -- end of each pause: of priority k (PFC) at k, of queue q (PAUSE) at 8 + q (R323)
  gates    : List GateEnt            -- list in force
  gateAt   : Nat                     -- 802.1AS start of the running cycle, ns
  pending  : Tab GateEnt             -- pending copy
  commit   : Option (List GateEnt)
  busyTo   : Nat                     -- transmission in progress ends, ns
  role     : Nat
  slaveAt  : Nat                     -- microtick in which the port last took the slave role
  syncAt   : List Nat                -- arrival of the Syncs since, newest first, ns
  offsets  : List Int
  best     : Option GmVec
  path     : List (BitVec 64)        -- path trace of the Announce that `best` comes from
  annAt    : Nat
  pdReqAt  : Option (Nat × Nat)      -- own Pdelay_Req: sequence, departure ns
  pdLost   : Nat                     -- Pdelay_Reqs since the last completed exchange
  pdResp   : Option (Nat × Nat × Nat)  -- sequence, request receipt, response arrival
  syncSeq  : Nat
  annSeq   : Nat                     -- sequence of the Announces
  pendSync : Option (Nat × Nat)      -- two-step Sync: sequence, arrival ns
  txSync   : Option Nat              -- microtick of the last Sync and of the last Announce sent
  txAnn    : Option Nat
  lastTx   : Option Frame
  deriving DecidableEq, Repr, Inhabited

/-- A learned address (R315). -/
structure MacEnt where
  vid  : Nat
  mac  : BitVec 48
  port : Nat
  seen : Nat
  deriving DecidableEq, Repr, Inhabited

/-- Sequence recovery of one stream (R329). -/
structure Frer where
  seq    : Nat
  hist   : List Bool
  seenAt : Nat
  deriving DecidableEq, Repr, Inhabited

/-- A next hop of a UDP session (R316). -/
structure NextHop where
  mac : Option (BitVec 48)
  at_ : Nat                          -- last asked for
  ip  : List Byte                    -- the address that it is the next hop for
  deriving DecidableEq, Repr, Inhabited

/-- The switch, its time engine and the engine's receive queue. -/
structure Net where
  ports   : Tab Port
  macs    : List MacEnt
  vlans   : Tab Word
  statics : Tab (Word × Word)
  hops    : Tab NextHop
  frer    : Tab Frer
  frerTx  : Tab Nat
  pool    : Nat                      -- shared-pool occupancy, bytes
  toPc    : List Frame
  engine  : List (Nat × List Byte)   -- matched telegrams waiting for the engine (R300)
  asOff   : Int                      -- 802.1AS time minus the own count, ns
  asNow   : Int                      -- 802.1AS time latched at the start of the microtick, ns (R328)
  gmId    : BitVec 64
  deriving DecidableEq, Repr, Inhabited

/-- One measurement stream: the frame being collected, and per sample of the block in progress, keyed by
sample, channel and quantity, sum and count of valid samples, and the extrapolated and saturated masks of the frames collected. -/
structure Stream where
  frame : Nat
  live  : Bool
  span  : Nat                        -- F of R336, in microticks
  acc   : Tab (Int × Nat)
  xm    : Tab (BitVec 48)
  sm    : Tab (BitVec 48)
  at_   : Tab Int                    -- 802.1AS time latched for the first microtick of each frame (R336)
  deriving DecidableEq, Repr, Inhabited

/-- One core of the pair as debug, split and merge see it (R340, R350, R352, R358). -/
structure Core where
  x    : Tab Word
  pc   : Word
  csr  : Tab Word
  trig : Tab Word
  cyc  : BitVec 64                   -- mcycle
  ret  : BitVec 64                   -- minstret
  deriving DecidableEq, Repr, Inhabited

/-- The Tandem pair (R348 to R361). -/
structure Tandem where
  main    : Core
  chk     : Core
  reqAt   : Nat
  budget  : Nat
  splitAt : Nat
  mergeAt : Nat
  warned  : Bool
  expired : Bool                     -- the budget window closed before the merge was complete
  mlate   : Bool                     -- a merge passed its 1 ms
  ddlEnd  : Nat                      -- end of the diagnostic deadline
  ddlLeft : Nat                      -- time left while its count is held (R356)
  kickA5  : Bool                     -- expected code is 0xA5
  dmact   : Bool
  hart    : Bool                     -- the hart that the debugger has selected: 1 is the checker core in TWIN (R357)
  dropped : Bool                     -- a session ended under R360 and dmactive has not been written since
  dmi     : Nat                      -- op of the last dmi operation's response: 0 done, 2 failed (R359)
  halted  : Bool                     -- the main core halted; in lockstep both
  haltC   : Bool                     -- the checker core halted
  haltReq : Bool
  data0   : Word                     -- result of the last abstract read
  cmderr  : Nat                      -- the error of an abstract command, kept until it is cleared (R493)
  deriving DecidableEq, Repr, Inhabited

/-- One RAM: bytes, valid words, and the error bits that stored words carry. -/
structure Ram where
  bytes : Mem
  valid : Tab Bool
  err   : Tab WordUpset
  deriving DecidableEq, Repr, Inhabited

/-- A log entry of the memory error control (R374). -/
structure LogEnt where
  addr : Word
  mem  : Nat
  cls  : Nat
  ws   : Bool
  pers : Bool
  hard : Bool
  ret  : Bool
  cnt  : Nat
  fts  : Nat
  lts  : Nat
  dl   : Option Nat                  -- end of the running deadline window
  page : Bool                        -- a page as a whole, or a word of its spare area (R373, R375)
  deriving DecidableEq, Repr, Inhabited

/-- Memories and their error control (R365 to R391). -/
structure MemCtl where
  sram   : Ram
  spare  : Ram
  tcmM   : Ram
  tcmC   : Ram
  log    : Tab LogEnt
  scrub  : Option (Nat × Nat × Nat × Bool × Nat)   -- base, end, target, correct, start time
  abort  : Bool
  remap  : Option (Nat × Nat)        -- bank in copy or retired, start time
  remapped : Option Nat
  deriving DecidableEq, Repr, Inhabited

/-- A record of the journal in the controller's index: where it lies, and its fields (R394). -/
structure JRec where
  page : Nat
  off  : Nat
  typ  : Nat
  key  : Nat
  gen  : Nat
  data : List Byte
  deriving DecidableEq, Repr, Inhabited

/-- An entry of the event queue (R402). -/
structure Ev where
  source : Nat
  code   : Nat
  detail : Nat
  stamp  : Nat
  data   : List Byte
  items  : List Nat                  -- what the entry holds where the spec names it but not its layout (log 6)
  deriving DecidableEq, Repr, Inhabited

/-- The append of a command (R401): what it appends, how many queued events arrived before it, and where its
header and payload stand once written. -/
structure Job where
  typ   : Nat
  key   : Nat
  gen   : Nat
  data  : List Byte
  ahead : Nat
  place : Option (Nat × Nat)
  deriving DecidableEq, Repr, Inhabited

/-- Racking in progress (R407). -/
structure Rack where
  seg   : Nat
  since : Nat
  deriving DecidableEq, Repr, Inhabited

/-- The Cask and its controller (R392 to R423). -/
structure Cask where
  bytes   : Mem
  err     : Tab PageUpset
  cache   : List (Nat × List Nat)    -- the decoded pages that the controller keeps, with the bits left wrong in each (R373)
  spare   : Tab (List Byte)
  recs    : List JRec                -- records of the current epoch in journal order
  segs    : List Nat                 -- segments of the current epoch in index order
  wpage   : Nat                      -- page that receives appends
  woff    : Nat
  lees    : List Nat
  queue   : List Ev
  job     : Option Job
  rack    : Option Rack
  norack  : Bool                     -- racking has found no segment that it could use (R408)
  evNo    : Nat
  deriving DecidableEq, Repr, Inhabited

/-- A fuse shadow set (R435), held in true and in complemented form. -/
structure Shadow where
  devId  : BitVec 64
  cust   : Option (List Byte)
  vendor : List Byte
  pol    : BitVec 3
  lvl    : BitVec 8
  lvlBad : Bool
  trim   : List Word
  deriving DecidableEq, Repr, Inhabited

/-- The complemented form of a shadow set (R435). -/
def Shadow.cpl (x : Shadow) : Shadow where
  devId := ~~~x.devId
  cust := x.cust.map (·.map (~~~·))
  vendor := x.vendor.map (~~~·)
  pol := ~~~x.pol
  lvl := ~~~x.lvl
  lvlBad := !x.lvlBad
  trim := x.trim.map (~~~·)

/-- The fuse array and its service (R424 to R444). -/
structure Fuses where
  normal  : Tab Word                 -- what each word reads at normal margin
  strict  : Tab Word                 -- and at strict margin
  weak    : Tab Word                 -- fuses pulsed without full margin: read 0 at strict margin, and either way at normal
  bootN   : Tab Word                 -- the boot reads
  bootS   : Tab Word
  shadow  : Shadow
  shadowN : Shadow                   -- the complemented form
  call    : Bool
  deriving DecidableEq, Repr, Inhabited

/-- The host port and the two sets of read latches (R495, R502 to R504). -/
structure Spi where
  any     : Bool
  aborted : Bool
  code    : Nat
  done    : Nat
  count   : Nat                      -- transactions received whole
  resp    : List Byte                -- last response
  latchP  : Tab Word
  latchH  : Tab Word
  deriving DecidableEq, Repr, Inhabited

/-- The accepted vintage (R139, R150). -/
structure Vint where
  slot : Nat
  hash : List Byte
  fp   : Nat
  ilen : Nat
  rlevel : Nat
  deriving DecidableEq, Repr, Inhabited

/-- The whole state. -/
structure State where
  pending : List Instr               -- the waiting commands, first in first out
  tick    : Tick                     -- microtick count (R83)
  fieldOff : Nat                     -- how far the field sides' own time is ahead of it (R256, R467)
  freshIdx : Nat                     -- the MODEL's counter of open values (DESIGN CHOICE, log 2)
  mode    : Mode
  regs    : Tab Word
  boot    : Boot
  pins    : Pins
  sealr   : Seal
  fes     : Tab Fe
  chans   : Tab Chan
  groups  : Tab Group
  hub     : Hub
  enA     : Enable
  enB     : Enable
  la      : LaneSt
  lb      : LaneSt
  comp    : Comp
  taste   : Taste
  vint    : Option Vint
  hreq    : List (Nat × BitVec 16)   -- captured host requests: microtick and bits, newest first (R123)
  ses     : Tab Ses
  net     : Net
  streams : Tab Stream
  tnd     : Tandem
  memc    : MemCtl
  cask    : Cask
  otp     : Fuses
  spi     : Spi
  runFrom : Nat                      -- microtick of entry to RUN (R471)
  safeFrom : Nat                     -- microtick of entry to SAFE or HELD (R222)
  deriving DecidableEq, Repr, Inhabited

/-- The block has no fault of the model's own: every fault the spec describes is an effect on State
(R35, R216 to R227), so a step never answers a fault. Safe: no constructor, nothing is cut off. -/
inductive Fault : Type where
  deriving DecidableEq, Repr

/-- Why a command has no meaning. -/
inductive Refusal where
  /-- Raised by an arm of `exec` alone, for a command that has no meaning yet. Safe: nothing follows. -/
  | notModelled (mnemonic : String)
  deriving DecidableEq, Repr

/-! ### Reset values -/

def Source.reset : Source := ⟨false, none, false, 0⟩

/-- A field side right after its supply comes up: no link, no configuration, every switch off (R44, R257). -/
def Fe.reset : Fe where
  band := .absent
  locked := false
  errHist := []
  committed := false
  held := Tab.empty
  staged := Tab.empty
  auxNibs := []
  auxBad := false
  aux0 := none
  aux1 := none
  lastSeq := none
  lastAcc := 0
  count := 0
  run := 0
  lastRaw := false
  raw := false
  inn := false
  mband := 0
  wbrk := 0
  ind := 0
  holdEnd := 0
  dipStart := none
  src := Source.reset
  hs := false
  ls := false
  hsWant := false
  lsWant := false
  reqA := false
  reqB := false
  stdq := false
  phA := false
  phB := true
  chgA := none
  chgB := none
  tpd := false
  dts := 0
  limHs := none
  limLs := none
  climLatch := none
  zeroFrames := 0
  prog := false
  brt := 0
  sagTrip := false
  normRun := 0
  zeroNorm := 0
  supLatch := none
  fault := 0
  faultAt := 0
  cfgFlt := false
  selfReg := 0
  exAt := 0
  exRun := none
  liveB := false
  trim := Trim.neutral
  stPend := false
  stRun := none
  stHigh := false
  stLow := false
  stFail := false
  stAgain := 0
  upWord := 0
  upReg := 0
  up := none

/-- A channel on the logic side right after reset. -/
def Chan.reset : Chan where
  down := none
  lastReq := false
  locked := false
  errHist := []
  good := 0
  causes := []
  faults := []
  faulted := false
  reopen := true
  grace := none
  downPos := 60
  downWord := 0
  reqA := false
  reqB := false
  stdq := false
  hist := []
  lastIn := false
  inFrom := 0
  inStamp := 0
  badFrom := 0
  preStamp := 0
  preValid := false
  lastAB := none
  pos := 0
  edge := 0
  edges := []
  posB := -1
  edgeB := ~~~0#32
  edgesB := []
  upNibs := []
  upBad := false
  echoAt := Tab.empty
  echoOk := []
  selfCnt := none
  selfAt := 0
  lastRawL := false
  preRaw := false
  winAll := true
  winBad := false
  slotBad := false
  dipOk := true
  feedA := 0
  feedB := 0
  offSince := none
  goneRun := 0
  olRun := 0
  sumI := 0
  sumG := 0
  mean := 0
  shareOut := 0
  passHs := 0
  passLs := 0
  onSince := none
  dtHs := none
  dtLs := none
  prevOn := false
  prevSlow := false
  reqHist := []
  xshLink := []
  calQ := false
  outAt := 0

def Group.reset : Group := ⟨0, none, false, 0, false⟩

def Hub.reset : Hub := ⟨0, false, none, false, 0, 0, 0, 0, 0, []⟩

def Enable.reset (phase : Bool) : Enable := ⟨phase, 0, false, none, false, false, Tab.empty⟩

/-- An undriven net in true form (R120); Lane B holds the complement. -/
def BNet.undriven : BNet := ⟨false, false, 0⟩

def ANet.undriven : ANet := ⟨0, false, 0⟩

/-- A cell slot's state registers at reset (R124, R447). -/
def CellSt.reset : CellSt where
  st := 0
  trip := false
  code3 := false
  own := 0
  tcode := 0
  g3 := none
  acc3 := 0
  gOwn := none
  clr := 0
  seen := false
  ins := []
  w1 := none
  w2 := none
  w3 := none
  w4 := none
  opens := []
  pulls := []
  s1 := 0
  s2 := 0
  s3 := 0
  n1 := 0
  n2 := 0
  n3 := 0
  n4 := 0
  f1 := false
  f2 := false
  f3 := false
  f4 := false
  f5 := false
  o0 := ⟨false, true, 0⟩
  o1 := ⟨false, true, 0⟩
  a1 := ⟨0, true, 0⟩

/-- A net as Lane B holds it (R116). -/
def BNet.cpl (n : BNet) : BNet := ⟨!n.v, !n.q, ~~~n.t⟩
def ANet.cpl (n : ANet) : ANet := ⟨~~~n.x, !n.q, ~~~n.t⟩

/-- The state registers of a NULL cell read 0 (R124). -/
def CellSt.null : CellSt :=
  { CellSt.reset with o0 := ⟨false, false, 0⟩, o1 := ⟨false, false, 0⟩, a1 := ⟨0, false, 0⟩ }

/-- A window as Lane B holds it: start and length complemented. -/
def Win.cpl (w : Win) : Win := ⟨~~~w.start, 2 ^ 32 - 1 - w.len⟩

/-- A watched release as Lane B holds it. -/
def Pull.cpl (p : Pull) : Pull :=
  ⟨~~~p.s, !p.fb, -1 - p.peak, -1 - p.depth, p.dip.map (fun e => (~~~e.1, -1 - e.2)), !p.judge, !p.conf, -1 - p.cur, !p.note⟩

/-- The state registers of a cell as Lane B holds them, each complemented in its width (R124, R135): 4 bits of state, one bit for
each code, and two's complement counters. -/
def CellSt.cpl (c : CellSt) : CellSt where
  st := 15 - c.st
  trip := !c.trip
  code3 := !c.code3
  own := 2 ^ 16 - 1 - c.own
  tcode := 15 - c.tcode
  g3 := c.g3.map (~~~·)
  acc3 := ~~~c.acc3
  gOwn := c.gOwn.map (~~~·)
  clr := ~~~c.clr
  seen := !c.seen
  ins := c.ins.map BNet.cpl
  w1 := c.w1.map Win.cpl
  w2 := c.w2.map Win.cpl
  w3 := c.w3.map Win.cpl
  w4 := c.w4.map Win.cpl
  opens := c.opens.map (fun e => (~~~e.1, -1 - e.2))
  pulls := c.pulls.map Pull.cpl
  s1 := ~~~c.s1
  s2 := ~~~c.s2
  s3 := ~~~c.s3
  n1 := -1 - c.n1
  n2 := -1 - c.n2
  n3 := -1 - c.n3
  n4 := -1 - c.n4
  f1 := !c.f1
  f2 := !c.f2
  f3 := !c.f3
  f4 := !c.f4
  f5 := !c.f5
  o0 := c.o0.cpl
  o1 := c.o1.cpl
  a1 := c.a1.cpl

def LaneSt.reset : LaneSt where
  cfg := []
  crcRef := []
  nets := Tab.empty
  anets := Tab.empty
  prevNets := Tab.empty
  prevANets := Tab.empty
  snap := none
  nextSnap := none
  bnd := 0
  phi := 0
  bR := 0
  cells := Tab.empty
  startAt := 0
  evaled := false
  release := none
  shortCyc := false
  sstep := 0
  slice := none
  results := []

def Comp.reset : Comp := ⟨none, [], none, false, false, false, false, 0, 0, none, none, 0, none, none⟩

def Taste.reset : Taste := ⟨0, 0, [], false⟩

def SesHalf.reset : SesHalf := ⟨.closed, 0, 0, 0, false, 0, false, none, none, 0, none, [], [], [], []⟩

/-- The code of SES_STAT.state (R306). -/
def sesCode : SesSt → Nat
  | .closed => 0
  | .opening => 1
  | .run => 2
  | .hold => 3
  | .failed => 4

/-- The state of a code; the codes that are not used stand for CLOSED (DESIGN CHOICE, log 53). -/
def sesState : Nat → SesSt
  | 1 => .opening
  | 2 => .run
  | 3 => .hold
  | 4 => .failed
  | _ => .closed

/-- A microtick as Lane B's half holds it. -/
def cplTick (n : Nat) : BitVec 64 := ~~~BitVec.ofNat 64 n

/-- Consumed bits complemented. -/
def SesBits.cpl (b : SesBits) : SesBits := ⟨!b.close, !b.valid, b.run.map (~~~·), b.vals.map (!·)⟩

/-- A half complemented, as Lane B holds it (R298). -/
def SesHalf.cpl (h : SesHalf) : SesHalfC where
  st := ~~~BitVec.ofNat 3 (sesCode h.st)
  vSent := ~~~h.vSent
  vTx := ~~~h.vTx
  vLast := ~~~h.vLast
  base := !h.base
  peerTs := ~~~h.peerTs
  hasTs := !h.hasTs
  win := h.win.map cplTick
  rejAt := h.rejAt.map cplTick
  failAt := cplTick h.failAt
  runAt := h.runAt.map cplTick
  sentOpn := h.sentOpn.map cplTick
  retHist := h.retHist.map (fun e => (cplTick e.1, ~~~e.2))
  bits := h.bits.map (fun e => (cplTick e.1, e.2.cpl))
  oks := h.oks.map (fun e => (cplTick e.1, !e.2.1, !e.2.2))

/-- Lane B's half restored bitwise (R283). -/
def SesHalfC.restore (h : SesHalfC) : SesHalf where
  st := sesState (~~~h.st).toNat
  vSent := ~~~h.vSent
  vTx := ~~~h.vTx
  vLast := ~~~h.vLast
  base := !h.base
  peerTs := ~~~h.peerTs
  hasTs := !h.hasTs
  win := h.win.map (fun w => (~~~w).toNat)
  rejAt := h.rejAt.map (fun w => (~~~w).toNat)
  failAt := (~~~h.failAt).toNat
  runAt := h.runAt.map (fun w => (~~~w).toNat)
  sentOpn := h.sentOpn.map (fun w => (~~~w).toNat)
  retHist := h.retHist.map (fun e => ((~~~e.1).toNat, ~~~e.2))
  bits := h.bits.map (fun e => ((~~~e.1).toNat, e.2.cpl))
  oks := h.oks.map (fun e => ((~~~e.1).toNat, !e.2.1, !e.2.2))

def Ses.reset : Ses := ⟨SesHalf.reset, SesHalf.reset.cpl, [], false, none, none, false⟩

def Port.reset : Port where
  link := none
  queues := Tab.empty
  pool := Tab.empty
  head := Tab.empty
  xoff := Tab.empty
  pauseTo := Tab.empty
  gates := []
  gateAt := 0
  pending := Tab.empty
  commit := none
  busyTo := 0
  role := 0
  slaveAt := 0
  syncAt := []
  offsets := []
  best := none
  path := []
  annAt := 0
  pdReqAt := none
  pdLost := 0
  pdResp := none
  syncSeq := 0
  annSeq := 0
  pendSync := none
  txSync := none
  txAnn := none
  lastTx := none

def Net.reset : Net where
  ports := Tab.empty
  macs := []
  vlans := Tab.empty
  statics := Tab.empty
  hops := Tab.empty
  frer := Tab.empty
  frerTx := Tab.empty
  pool := 0
  toPc := []
  engine := []
  asOff := 0
  asNow := 0
  gmId := 0

def Stream.reset : Stream := ⟨0, false, 0, Tab.empty, Tab.empty, Tab.empty, Tab.empty⟩

/-- A core after reset: in the boot ROM at 0x0000_0000 (R343); registers 0 (DESIGN CHOICE, log 3). The CSRs that the
family's layout fixes have its values (PRESUMED, log 31): mstatus.MPP and dcsr.prv machine mode, misa RV32IMC, dcsr of
version 0.13. -/
def Core.reset : Core :=
  { x := Tab.empty
    pc := 0
    csr := ((Tab.empty.set 0x300 0x1800).set 0x301 0x40001104).set 0x7B0 0x40000003
    trig := Tab.empty
    cyc := 0
    ret := 0 }

def Tandem.reset : Tandem :=
  ⟨Core.reset, Core.reset, 0, 0, 0, 0, false, false, false, 0, 0, true, false, false, false, 0, false, false, false, 0, 0⟩

def Ram.reset : Ram := ⟨[], Tab.empty, Tab.empty⟩

def MemCtl.reset : MemCtl :=
  ⟨Ram.reset, Ram.reset, Ram.reset, Ram.reset, Tab.empty, none, false, none, none⟩

def Cask.reset : Cask where
  bytes := []
  err := Tab.empty
  cache := []
  spare := Tab.empty
  recs := []
  segs := []
  wpage := 0
  woff := 0
  lees := []
  queue := []
  job := none
  rack := none
  norack := false
  evNo := 0

def Shadow.reset : Shadow := ⟨0, none, [], 0, 0, false, []⟩

def Fuses.reset : Fuses :=
  ⟨Tab.empty, Tab.empty, Tab.empty, Tab.empty, Tab.empty, Shadow.reset, Shadow.reset.cpl, false⟩

def Spi.reset : Spi := ⟨false, false, 0, 0, 0, [], Tab.empty, Tab.empty⟩

def Boot.reset : Boot := ⟨.none, false, false, 0, 0, none, false, 0⟩

def Seal.reset : Seal := ⟨0, ⟨1, 1⟩, [], none⟩

/-- The machine right after a power-on reset: in reset, power good and RESET_N high, so that
STARTUP_BEGIN is the next event (R465, R489); memories empty, fuses unblown (DESIGN CHOICE, log 3 and log 4). -/
def State.reset : State where
  pending := []
  tick := 0
  fieldOff := 0
  freshIdx := 0
  mode := .reset
  regs := Tab.empty
  boot := Boot.reset
  pins := ⟨true, true, false, false, 24000, 40000, false, false, 0⟩
  sealr := Seal.reset
  fes := Tab.empty
  chans := Tab.empty
  groups := Tab.empty
  hub := Hub.reset
  enA := Enable.reset false
  enB := Enable.reset true
  la := LaneSt.reset
  lb := LaneSt.reset
  comp := Comp.reset
  taste := Taste.reset
  vint := none
  hreq := []
  ses := Tab.empty
  net := Net.reset
  streams := Tab.empty
  tnd := Tandem.reset
  memc := MemCtl.reset
  cask := Cask.reset
  otp := Fuses.reset
  spi := Spi.reset
  runFrom := 0
  safeFrom := 0

end Sys2Proof.Machine
end

