-- ==== Sys2Proof/Machine/Ops.lean ====
section
/-! DEFINITION. The shared operations over the state: registers, channels, the event queue, fault reactions,
changes of state of the module, and reset entry. -/

namespace Sys2Proof.Machine

/-- What a command answers. -/
abbrev Out := Host.Outcome State Fault Refusal

/-! ### Time -/

/-- The microtick count (R83). -/
def State.now (s : State) : Nat := s.tick.toNat

/-- The field sides' own time in microticks: no reset of the logic side sets it back (R256, R467). -/
def State.fieldNow (s : State) : Nat := s.fieldOff + s.now

/-- The stamp of the current microtick (R87). -/
def State.stamp (s : State) : Stamp := s.tick.setWidth 32

/-! ### Registers and their fields -/

/-- The stored word of a register; a register never written holds its reset word. -/
def State.rget (s : State) (a : Nat) : Word := s.regs.get (regReset a) a

def State.rput (s : State) (a : Nat) (w : Word) : State := { s with regs := s.regs.set a w }

/-- The stored value of a field. -/
def State.fget (s : State) (f : Fld) : Nat := fldVal f (s.rget f.addr)

def State.fput (s : State) (f : Fld) (v : Nat) : State := s.rput f.addr (fldIns f (s.rget f.addr) v)

/-- A field as a flag. -/
def State.flag (s : State) (f : Fld) : Bool := s.fget f != 0

def State.fbool (s : State) (f : Fld) (b : Bool) : State := s.fput f (if b then 1 else 0)

/-- The largest value of a field. -/
def fldMax (f : Fld) : Nat := 2 ^ (f.hi + 1 - f.lo) - 1

/-- Count up modulo the field's size. -/
def State.finc (s : State) (f : Fld) : State := s.fput f (s.fget f + 1)

/-- Count up, saturating at the field's largest value. -/
def State.fincSat (s : State) (f : Fld) : State := s.fput f (min (s.fget f + 1) (fldMax f))

/-- Count up by n, saturating. -/
def State.faddSat (s : State) (f : Fld) (n : Nat) : State := s.fput f (min (s.fget f + n) (fldMax f))

/-- Keep the highest value seen. -/
def State.fpeak (s : State) (f : Fld) (v : Nat) : State :=
  s.fput f (max (s.fget f) (min v (fldMax f)))

/-! ### Parts of the state by number -/

def State.chan (s : State) (n : Nat) : Chan := s.chans.get Chan.reset n
def State.setChan (s : State) (n : Nat) (c : Chan) : State := { s with chans := s.chans.set n c }
def State.fe (s : State) (n : Nat) : Fe := s.fes.get Fe.reset n
def State.setFe (s : State) (n : Nat) (f : Fe) : State := { s with fes := s.fes.set n f }
def State.group (s : State) (g : Nat) : Group := s.groups.get Group.reset g
def State.setGroup (s : State) (g : Nat) (x : Group) : State := { s with groups := s.groups.set g x }
def State.sess (s : State) (i : Nat) : Ses := s.ses.get Ses.reset i
def State.setSess (s : State) (i : Nat) (x : Ses) : State := { s with ses := s.ses.set i x }
def State.port (s : State) (p : Nat) : Port := s.net.ports.get Port.reset p
def State.setPort (s : State) (p : Nat) (x : Port) : State :=
  { s with net := { s.net with ports := s.net.ports.set p x } }
def State.stream (s : State) (e : Nat) : Stream := s.streams.get Stream.reset e
def State.setStream (s : State) (e : Nat) (x : Stream) : State := { s with streams := s.streams.set e x }

/-- A fresh open value (DESIGN CHOICE, log 2). -/
def State.draw (s : State) : BitVec 64 × State :=
  (Config.freeBits s.freshIdx, { s with freshIdx := s.freshIdx + 1 })

/-- All channels, groups and sessions by register index (R8). -/
def allChans : List Nat := List.range 48
def allSessions : List Nat := List.range 160

/-- The channels of a group, register index 0 to 5 (R8). -/
def groupChans (g : Nat) : List Nat := (List.range 8).map (fun i => 8 * g + i)

/-- The group of a channel. -/
def groupOf (n : Nat) : Nat := n / 8

/-- A switching point within its tolerance: the module's own point, bounded (R47, R258, R510; DESIGN CHOICE, log 7). Number 48
stands for the logic supply. -/
def point (n k : Nat) (nominal tol : Int) : Int :=
  nominal + max (-tol) (min tol (Config.pointTrim n k 0))

/-- A switching point of an input, by the bank that decides and the factory trim of the point (R47, R426, R456; how far a step of
the trim moves it is open: DESIGN CHOICE, log 7). -/
def inputPoint (n k : Nat) (bankB : Bool) (trim : BitVec 6) (nominal tol : Int) : Int :=
  nominal + max (-tol) (min tol (Config.pointTrim n (if bankB then k + 32 else k) (trim.toNat + 1)))

/-! ### The event queue of the Cask controller (R402) -/

/-- An event that finds no place is counted as lost (R402, R409). -/
def loseEvent (s : State) : State := (s.fincSat F.CSK_EVQ_lost).fput F.CSK_EV_evlost 1

/-- Post an entry to the controller's queue of 64 entries (R402, R409). -/
def post (s : State) (e : Ev) : State :=
  if s.flag F.CSK_STAT_pfw then loseEvent s
  else if 64 ≤ s.cask.queue.length then loseEvent s
  else
    let s := { s with cask := { s.cask with queue := s.cask.queue ++ [e] } }
    (s.fput F.CSK_EVQ_depth s.cask.queue.length).fpeak F.CSK_EVQ_max s.cask.queue.length

/-- Post an event whose code the spec gives; the entry holds `items`, in a layout that the spec leaves open (DESIGN CHOICE,
log 6). -/
def postCode (s : State) (line code : Nat) (items : List Nat) : State :=
  post s ⟨line, code, (Config.evDetail line (code :: items)).toNat, s.now, (Config.evData line (code :: items)).take 52,
    code :: items⟩

/-- Post an event whose code and layout the spec leaves open; the entry holds `items` (DESIGN CHOICE, log 6). The first item says
what is reported, the others are what the rule names: of a cell its slot, fault code and stamp (R168), of a contact report its
mask and stamp (R202), of a session its number, fault code and stamp (R307), of a device fault its cause and stamp (R222). -/
def report (s : State) (line : Nat) (items : List Nat) : State :=
  post s ⟨line, (Config.evCode line items).toNat, (Config.evDetail line items).toNat, s.now,
    (Config.evData line items).take 52, items⟩

/-! ### SW1, the seal and permissions -/

/-- SW1 counts as on (R478). -/
def State.sw1 (s : State) : Bool := s.flag F.SEAL_NOW_sw1

/-- The Tandem pair is split or merging: the main core runs unchecked (R350 to R353). -/
def State.isSplit (s : State) : Bool := s.fget F.TND_STAT_mode == 1 || s.fget F.TND_STAT_mode == 2

/-! ### Dark tests that are discarded (R247) -/

/-- A test whose restore window has not closed at an instant loses its result; DTS goes on for its full width. -/
def spoilTest (w t : Nat) (d : DarkTest) : DarkTest :=
  if t < d.start + w + 50 then { d with live := false } else d

/-- Discard the tests under way on channels. -/
def discardTests (s : State) (l : List Nat) (t : Nat) : State :=
  l.foldl (fun s n =>
    let c := s.chan n
    if c.dtHs.isNone && c.dtLs.isNone then s
    else
      let w := s.fget (F.FSG_CFG_dtw (groupOf n))
      (s.setChan n { c with dtHs := c.dtHs.map (spoilTest w t), dtLs := c.dtLs.map (spoilTest w t) }).fput
        (F.CHN_ODET_dtrun n) 0) s

/-! ### Channels outside RUN (R44) -/

/-- A front end in measurement-only mode: terminal A at high impedance, terminal B off, no configuration. -/
def measureFe (f : Fe) : Fe :=
  { f with committed := false, held := Tab.empty, staged := Tab.empty, trim := Trim.neutral, cfgFlt := false, hs := false, ls := false,
           hsWant := false, lsWant := false, prog := false, src := { f.src with on := false, limSince := none },
           count := 0, run := 0, lastRaw := false, raw := false, inn := false, wbrk := 0, ind := 0,
           dipStart := none, stPend := false, stRun := none }

/-- A front end in standard-output mode. -/
def Fe.isStd (f : Fe) : Bool := (f.held.get 0 0).toNat % 8 == 5

/-- Outside RUN every channel is in measurement-only mode (R44); in SAFE a standard output keeps its programmed state
until the next restart (R256, R257). -/
def measureOnly (s : State) (keepStd : Bool) : State :=
  let s := { s with fes := s.fes.map (fun f => if keepStd && f.isStd then f else measureFe f) }
  allChans.foldl (fun s n =>
    if s.rget (R.CHN_CFG n) = 0 ∨ (keepStd ∧ s.fget (F.CHN_CFG_mode n) = 5) then s else s.rput (R.CHN_CFG n) 0) s

/-! ### The state of the module -/

/-- The code that SYS_STATE.state shows (R32). -/
def modeCode : Mode → Nat
  | .reset => 0
  | .startup => 1
  | .held => 2
  | .idle => 3
  | .run => 4
  | .safe => 5
  | .twin => 6

/-- Take another state and note the change (R489). -/
def toMode (s : State) (m : Mode) : State :=
  ({ s with mode := m }).fput F.SYS_EV_stch 1

/-- After acquisition an echo is judged once the hub can have written and committed every register, which takes
28 words of 16 microticks, and the front end can have echoed each of them (DESIGN CHOICE, log 52). -/
def acquireGrace : Nat := 28 * 16 + 16 + 512

/-- Leave STARTUP: the time since t = 0 is recorded (R489), forwarding is on from here (R314), and links that came up
in STARTUP get their configuration (R73). -/
def leaveStartup (s : State) (m : Mode) : State :=
  let s := toMode { s with
    boot := { s.boot with phase := .none }
    chans := s.chans.map (fun c => if c.locked && c.downPos == 60
      then { c with downPos := 2, grace := some (s.now + acquireGrace) } else c) } m
  (s.fput F.SYS_SUT_us s.now).fput F.NET_CTL_fwd 1

/-- A write to TND_PMBX by the pair or the boot ROM (R497). -/
def pmbx (s : State) (w : Word) : State := (s.rput R.TND_PMBX w).fput F.SYS_HIPEND_mbx 1

/-- Entry to HELD from STARTUP: the boot ROM keeps control (R472, R485). -/
def enterHeld (s : State) : State :=
  let s := measureOnly (leaveStartup s .held) false
  pmbx { s with safeFrom := s.now } 0xB0000002#32

/-- Record a device-fault cause with its stamp (R222, R489). -/
def recordCause (s : State) (cause : Nat) (inrun : Bool) : State :=
  let s := s.rput R.SYS_FAULT (BitVec.ofNat 32 ((if inrun then 0xC0000000 else 0x80000000) + cause % 256))
  (s.rput R.SYS_FTS s.stamp).fput F.SYS_EV_flt 1

/-- The cause and the stamp of a detection go to the journal (R222, R226). -/
def journalCause (s : State) (cause : Nat) : State := report s 0 [1, cause, s.now]

/-! ### Sessions at a fault of theirs -/

/-- A session fault with its microtick: its registers, the journal, and FAULT_N (R288, R292, R306, R307, R484). -/
def sessFault (s : State) (i code at_ : Nat) : State :=
  let s := s.setSess i { s.sess i with fault := true, fltAt := some at_ }
  let s := (s.fput (F.SES_STAT_fcode i) code).fincSat (F.SES_STAT_fails i)
  let s := (s.rput (R.SES_FTS i) (BitVec.ofNat 32 at_)).fput (F.SES_EV_flt i) 1
  let s := { s with pins := { s.pins with faultN := false } }
  report s 6 [1, i, code, at_]

/-- Change a session in both halves, each from the state that it holds (R298). -/
def State.halves (s : State) (i : Nat) (f : SesHalf → SesHalf) : State :=
  s.setSess i { s.sess i with ha := f (s.sess i).ha, hb := (f (s.sess i).hb.restore).cpl }

/-- Entry to FAILED closes the rejection window (R292). -/
def SesHalf.fail (now : Nat) (h : SesHalf) : SesHalf := { h with st := .failed, failAt := now, rejAt := none }

/-- Every consumer that is configured goes to FAILED with fault 0x6; producers keep their state (R226, R293,
R294). -/
def sessionsSafe (s : State) : State :=
  allSessions.foldl (fun s i =>
    if s.fget (F.SES_CFG_role i) = 2 then
      sessFault (s.halves i (SesHalf.fail s.now)) i 6 s.now
    else s) s

/-! ### SAFE -/

/-- Entry to SAFE (R226): the enables stop, the lanes with the microtick (`State.pressLive`), downlinks stop, dark tests are discarded (R247), channels other than
standard outputs return to measurement only (R44), consumers fail, FAULT_N goes low; the diagnostic deadline is armed
only in RUN (R356). -/
def enterSafe (s : State) : State :=
  let s := measureOnly (discardTests ((toMode s .safe).fput F.TND_STAT_ddlarm 0) allChans s.now) true
  let s := { s with
    safeFrom := s.now
    enA := { s.enA with line := true }
    enB := { s.enB with line := true }
    pins := { s.pins with faultN := false, syncOut := false } }
  sessionsSafe s

/-- The first cause of the comparator and the enable monitor (CMP_STAT). -/
def noteCmp (s : State) (cause : Nat) : State :=
  if 0x10 ≤ cause ∧ cause ≤ 0x15 ∧ s.fget F.CMP_STAT_cause = 0 then s.fput F.CMP_STAT_cause cause else s

/-- A device-fault detection, in whatever state the module is (R222 to R226, R228, R507). -/
def deviceFault (s₀ : State) (cause : Nat) : State :=
  let s := journalCause s₀ cause
  match s₀.mode with
  | .reset => s₀
  | .startup => enterHeld (recordCause s cause false)
  | .run =>
    enterSafe (recordCause (noteCmp s cause) cause true)
  | .idle => enterSafe (recordCause s cause true)
  | .safe =>
    if s.safeFrom ≠ s.now then s
    else
      let s := noteCmp s cause
      if cause < s.fget F.SYS_FAULT_cause then recordCause s cause true else s
  | .held =>
    if s.safeFrom = s.now ∧ cause < s.fget F.SYS_FAULT_cause then recordCause s cause false else s
  | .twin =>
    if s.flag F.SYS_FAULT_vld ∧ ¬ (s.rget R.SYS_FTS = s.stamp ∧ cause < s.fget F.SYS_FAULT_cause) then s
    else recordCause s cause false

/-! ### Channel faults -/

/-- The CHN_FAULT bit of a cause; a frame failure carries its own bit. -/
def causeFld (n : Nat) : ChCause → Fld
  | .frame => F.CHN_FAULT_crce n
  | .link => F.CHN_FAULT_lnkl n
  | .flt => F.CHN_FAULT_crce n
  | .extFeed => F.CHN_FAULT_xfd n
  | .dipFeed => F.CHN_FAULT_xfd n
  | .xshort => F.CHN_FAULT_xsh n
  | .wire => F.CHN_FAULT_wbrk n
  | .echo => F.CHN_FAULT_cfge n
  | .self => F.CHN_FAULT_self n
  | .source => F.CHN_FAULT_srct n
  | .counter => F.CHN_FAULT_cnte n
  | .out _ => F.CHN_FAULT_outf n

/-- Set a bit of CHN_FAULT; the first one is stamped (R81). -/
def markFault (s : State) (f : Fld) (n : Nat) : State :=
  let s := if s.rget (R.CHN_FAULT n) = 0 then s.rput (R.CHN_FTS n) s.stamp else s
  s.fput f 1

/-- Record an output fault code (R266, R267). -/
def recordOut (s : State) (n code : Nat) : State :=
  let c := s.chan n
  let first := s.fget (F.CHN_ODET_first n)
  let sameTick := c.outAt = s.now ∧ s.fget (F.CHN_ODET_last n) ≠ 0
  let s := if first = 0 then (s.fput (F.CHN_ODET_first n) code).rput (R.CHN_OTS n) s.stamp
           else if s.rget (R.CHN_OTS n) = s.stamp ∧ sameTick ∧ code < first
           then s.fput (F.CHN_ODET_first n) code else s
  if sameTick ∧ s.fget (F.CHN_ODET_last n) < code then s
  else (s.fput (F.CHN_ODET_last n) code).setChan n { s.chan n with outAt := s.now }

/-- The channel stops being valid; its net takes the index of the last frame examined (R91), and every sample
from that index on is invalid. Frames before it that are still on their way keep what they show (R21). -/
def invalidate (s : State) (n idx : Nat) : State :=
  let c := s.chan n
  let was := s.flag (F.CHN_STAT_valid n)
  let st := if was then BitVec.ofNat 32 idx else c.inStamp
  let s := s.setChan n { c with
    inStamp := st
    badFrom := if was then idx else min c.badFrom idx
    preStamp := if was then c.inStamp else c.preStamp
    preValid := was || c.preValid
    hist := c.hist.map (fun x => if idx ≤ x.idx then { x with valid := false, stamp := st } else x) }
  s.fput (F.CHN_STAT_valid n) 0

/-- Enter a cause in the list of those present; the last frame that its check examined has index `idx` (R38). A channel fault
drives FAULT_N low (R484). -/
def addCause (s : State) (n : Nat) (k : ChCause) (idx : Nat) : State :=
  let c := s.chan n
  let ks := if c.causes.contains k then c.causes else c.causes ++ [k]
  let s := { s with pins := { s.pins with faultN := false } }
  s.setChan n { c with causes := ks, faults := (idx :: c.faults).filter (fun i => idx < i + 160), faulted := true, goneRun := 0 }

/-- A channel fault with a cause that stays until its own rule says it has gone (R35, R71, R81); `idx` is the
index of the last frame that the check examined. -/
def chanFault (s : State) (n : Nat) (k : ChCause) (idx : Nat) : State :=
  let s := match k with
    | .flt => s
    | .out code => recordOut (markFault s (causeFld n k) n) n code
    | _ => markFault s (causeFld n k) n
  invalidate (addCause s n k idx) n idx

/-- The same on several channels. -/
def chansFault (s : State) (l : List Nat) (k : ChCause) (idx : Nat) : State :=
  l.foldl (fun s n => chanFault s n k idx) s

/-- A cause has gone. -/
def causeGone (s : State) (n : Nat) (p : ChCause → Bool) : State :=
  s.setChan n { s.chan n with causes := (s.chan n).causes.filter (fun k => !p k) }

def isOutCause : ChCause → Bool
  | .out _ => true
  | _ => false

/-- The modes of R43. -/
def mMeas : Nat := 0
def mSafeIn : Nat := 1
def mMonIn : Nat := 2
def mStdIn : Nat := 3
def mSafeOut : Nat := 4
def mStdOut : Nat := 5
def mTpSrc : Nat := 6
def mCounter : Nat := 7

def State.chMode (s : State) (n : Nat) : Nat := s.fget (F.CHN_CFG_mode n)

def isInputMode (m : Nat) : Bool := m == 1 || m == 2 || m == 3 || m == 7
def isOutputMode (m : Nat) : Bool := m == 4 || m == 5

/-- The channels of the unit that a channel belongs to: every channel in the same output mode and kind that
names the same lead (R237, R242). -/
def State.unitOf (s : State) (n : Nat) : List Nat :=
  if s.chMode n = 4 then
    allChans.filter (fun k => s.chMode k = 4
      && s.fget (F.CHN_OCFG_lead k) == s.fget (F.CHN_OCFG_lead n))
  else [n]

/-- An output fault is a channel fault on every channel of the unit (R248, R252, R460). -/
def unitFault (s : State) (n code : Nat) (idx : Nat) : State :=
  chansFault s (s.unitOf n) (.out code) idx

/-! ### Group faults -/

/-- Set a bit of FSG_FLT; the first one is stamped (R271). -/
def markGroup (s : State) (f : Fld) (g : Nat) : State :=
  let s := if s.rget (R.FSG_FLT g) = 0 then s.rput (R.FSG_FTS g) s.stamp else s
  s.fput f 1

/-! ### Refusals of register writes -/

/-- Whether the requester is the host. -/
def isHost : Requester → Bool
  | .host => true
  | _ => false

/-- A field refusal: the write changes nothing and is recorded (R493, R494, R505). -/
def refuse (s : State) (req : Requester) (addr why : Nat) : State :=
  let s := s.rput R.SYS_REFA (BitVec.ofNat 32 addr)
  let s := (s.fput F.SYS_REFI_vld 1).fbool F.SYS_REFI_req (isHost req)
  (s.fput F.SYS_REFI_why why).fincSat F.SYS_REFI_cnt

/-! ### Reset entry -/

/-- A front end when the logic side goes into reset: the downlink stops, so the link is lost and every switch
of a safety output opens; a standard output keeps its state until its own timeout (R467, R27, R256), and every other
channel is in measurement-only mode (R44). -/
def feAtReset (f : Fe) : Fe :=
  if f.isStd then { f with locked := false } else { measureFe f with locked := false }

/-- Entry to reset: every island is reset; the Cask's array, the fuses, the reset-cause latch, the pins and
the field sides keep what the reset does not reach (R467). The record in progress is completed first. -/
def enterReset (s : State) (cask : Cask) (cause : Word) : State :=
  let r := State.reset
  let s' := { r with
    pending := s.pending
    freshIdx := s.freshIdx
    fieldOff := s.fieldNow
    pins := { s.pins with faultN := false, syncOut := false, pfwClear := 0 }
    fes := s.fes.map feAtReset
    sealr := { onRun := 0, sw1 := s.sealr.sw1, rws := [], last := none }
    cask := { r.cask with bytes := cask.bytes, err := cask.err, spare := cask.spare }
    otp := { r.otp with normal := s.otp.normal, strict := s.otp.strict, weak := s.otp.weak } }
  s'.rput R.SYS_RCAUSE cause

end Sys2Proof.Machine
end

