-- ==== Sys2Proof/Machine/Memory.lean ====
section
/-! DEFINITION. Memories and their error control (R365 to R391): codes, valid pairs, the correctable-error log,
safety regions and deadlines, uncorrectable errors, the scrubber, and the retired bank. -/

namespace Sys2Proof.Machine

/-! ### Memories by the code of EDC_LINFO.mem -/

def mSram : Nat := 0
def mSpare : Nat := 1
def mTcmM : Nat := 2
def mTcmC : Nat := 3
def mCask : Nat := 4

def sramBase : Nat := 0x20000000
def tcmBase : Nat := 0x10000000
def caskBase : Nat := 0x60000000

def State.ram (s : State) (m : Nat) : Ram :=
  if m = 0 then s.memc.sram else if m = 1 then s.memc.spare else if m = 2 then s.memc.tcmM else s.memc.tcmC

def State.setRam (s : State) (m : Nat) (r : Ram) : State :=
  { s with memc :=
    if m = 0 then { s.memc with sram := r }
    else if m = 1 then { s.memc with spare := r }
    else if m = 2 then { s.memc with tcmM := r }
    else { s.memc with tcmC := r } }

/-- The memory and byte offset that serve an SRAM offset: a retired bank is served by the spare (R385). -/
def sramAt (s : State) (off : Nat) : Nat × Nat :=
  if s.memc.remapped = some (off / 0x10000) then (mSpare, off % 0x10000) else (mSram, off)

/-- The system address of a byte offset of a memory; the spare answers for the bank it replaces. -/
def sysAddr (s : State) (m off : Nat) : Nat :=
  if m = mSram then sramBase + off
  else if m = mSpare then
    sramBase + (match s.memc.remap with | some (k, _) => k | none => 0) * 0x10000 + off
  else tcmBase + off

/-! ### The code of a word (R365 to R368) -/

def popBits (w n : Nat) : Nat := ((List.range n).filter (fun i => w.testBit i)).length

/-- One of several classes that the spec leaves possible for an error pattern (Config.eccManyBits). -/
def pickClass (d : BitVec 32) (c : BitVec 7) (a : BitVec 18) (l : List Nat) : Nat :=
  l.getD (Config.eccManyBits d c a % l.length) 4

/-- The syndrome class of wrong data, check and address bits (R365 to R367). Data and check columns are odd and address
columns even and all differ, so the number of wrong data and check bits gives the syndrome's parity; that address errors
alone may alias to a data column is R367's word. -/
def wordClass (d : BitVec 32) (c : BitVec 7) (a : BitVec 18) : Nat :=
  let n := popBits d.toNat 32 + popBits c.toNat 7
  let k := popBits a.toNat 18
  if n = 0 ∧ k = 0 then 0
  else if n = 1 ∧ k = 0 then (if d = 0 then 2 else 1)
  else if n = 0 ∧ k = 1 then 5
  else if n % 2 = 1 then pickClass d c a [6, 1, 2]
  else if n = 2 ∧ k = 0 then pickClass d c a [4, 5]
  else if n = 0 ∧ k = 2 then pickClass d c a [4, 5, 1]
  else if k ≤ 1 then pickClass d c a [4, 5, 0]
  else pickClass d c a [4, 5, 0, 1]

/-- What an access to a stored word finds: valid, pair broken, class, and the data delivered. -/
structure WordView where
  valid : Bool
  cls   : Nat
  data  : Word
  deriving DecidableEq, Repr

/-- The errors that a word carries at an access: those stored, and those of this access. -/
def Ram.upsetAt (r : Ram) (off : Nat) (u : Option WordUpset) : WordUpset :=
  let e := r.err.get ⟨0, 0, 0, 0⟩ (off / 4)
  match u with
  | none => e
  | some u => ⟨e.data ^^^ u.data, e.check ^^^ u.check, u.addr, e.vpair ^^^ u.vpair⟩

/-- The stored word without its errors. -/
def Ram.stored (r : Ram) (off : Nat) : Word :=
  BitVec.ofNat 32 (leNat (memGetList 0 r.bytes (off / 4 * 4) 4))

/-- A read of the word at a byte offset. -/
def Ram.view (r : Ram) (off : Nat) (u : Option WordUpset) : WordView :=
  let e := r.upsetAt off u
  let v0 := r.valid.get false (off / 4)
  let v := v0 ^^ e.vpair.getLsbD 1
  let nv := !v0 ^^ e.vpair.getLsbD 0
  if v = nv then ⟨true, 7, 0⟩
  else if ¬ v then ⟨false, 0, 0⟩
  else
    let w := r.stored off
    let cls := wordClass e.data e.check e.addr
    let bad := w ^^^ e.data
    let single := popBits e.data.toNat 32 + popBits e.check.toNat 7 + popBits e.addr.toNat 18 = 1
    let data := if cls = 1 then
                  (if single then w else bad ^^^ (1#32 <<< (Config.eccMiscorrect e.data e.check e.addr % 32)))
                else bad
    ⟨true, cls, if 4 ≤ cls then 0 else data⟩

/-- Classes 0b100 to 0b111 are uncorrectable (R366). -/
def uncorrectable (cls : Nat) : Bool := 4 ≤ cls

/-- Store the errors of an access. -/
def Ram.keepErr (r : Ram) (off : Nat) (u : Option WordUpset) : Ram :=
  match u with
  | none => r
  | some _ =>
    let e := r.upsetAt off u
    let e : WordUpset := { e with addr := 0 }
    { r with err := if e = ⟨0, 0, 0, 0⟩ then r.err.del (off / 4) else r.err.set (off / 4) e }

/-- Store a full word with fresh check bits and make it valid (R369). -/
def Ram.store (r : Ram) (off : Nat) (w : Word) : Ram :=
  { bytes := memPutList 0 r.bytes (off / 4 * 4) (leBytes 4 w.toNat)
    valid := r.valid.set (off / 4) true
    err := r.err.del (off / 4) }

/-- The bytes of a word that byte enables select, from another word. -/
def mergeWord (old new : Word) (be : BitVec 4) : Word :=
  let m : Nat := (List.range 4).foldl (fun a i => if be.getLsbD i then a + 0xFF <<< (8 * i) else a) 0
  let k := BitVec.ofNat 32 m
  (old &&& ~~~k) ||| (new &&& k)

/-! ### Safety-relevant regions and the log (R374 to R379) -/

/-- Whether an address of a memory lies in a safety-relevant region (R377). -/
def safetyRel (s : State) (m addr : Nat) : Bool :=
  if m = mTcmM ∨ m = mTcmC then true
  else if m = mCask then false
  else
    (List.range 4).any (fun i =>
      s.flag (F.EDC_SREG_en i)
        && s.fget (F.EDC_SREG_base i) * 4096 ≤ addr - sramBase && addr - sramBase < s.fget (F.EDC_SREG_top i) * 4096)

/-- Put the log back and show the number of its entries. -/
def putLog (s : State) (t : Tab LogEnt) : State :=
  ({ s with memc := { s.memc with log := t } }).fput F.EDC_STAT_nlog t.entries.length

/-- The entry of an address. -/
def logFind (s : State) (m addr : Nat) : Option (Nat × LogEnt) :=
  s.memc.log.entries.find? (fun e => e.2.addr.toNat == addr && e.2.mem == m)

/-- The end of a deadline window that opens now (R379). -/
def deadlineEnd (s : State) : Nat := s.now + s.fget F.EDC_CFG_pdl * 1000

/-- A further correction at an entry (R374, R375, R379). -/
def bumpEntry (s : State) (k : Nat) (e : LogEnt) (cls : Nat) : State :=
  let cnt := min (e.cnt + 1) 255
  let pers := !e.pers && !e.ws && s.fget F.EDC_CFG_thr ≤ cnt
  let hard := e.ws
  let opens := safetyRel s e.mem e.addr.toNat && ((pers && e.dl.isNone) || (hard && !e.hard && e.dl.isNone && !e.ret))
  let e' : LogEnt := { e with cnt := cnt, cls := cls, lts := s.now, pers := e.pers || pers, hard := e.hard || hard
                              dl := if opens then some (deadlineEnd s) else e.dl }
  let s := putLog s (s.memc.log.set k e')
  let s := if pers then s.fput F.EDC_EV_pers 1 else s
  if hard then s.fput F.EDC_EV_hard 1 else s

/-- A new entry (R374); with a threshold of 1 it is persistent at once. -/
def newEntry (s : State) (k m addr cls : Nat) (page : Bool) : State :=
  let pers := s.fget F.EDC_CFG_thr ≤ 1
  let e : LogEnt := { addr := BitVec.ofNat 32 addr, mem := m, cls := cls, ws := false, pers := pers, hard := false
                      ret := false, cnt := 1, fts := s.now, lts := s.now
                      dl := if pers && safetyRel s m addr then some (deadlineEnd s) else none, page := page }
  let s := (putLog s (s.memc.log.set k e)).fput F.EDC_EV_ce 1
  if pers then s.fput F.EDC_EV_pers 1 else s

/-- Log a correction (R374): of a word, or of a page of the Cask. -/
def logCorrection (s : State) (m addr cls : Nat) (page : Bool) : State :=
  match logFind s m addr with
  | some (k, e) => bumpEntry s k { e with page := e.page || page } cls
  | none =>
    match (List.range 16).find? (fun k => (s.memc.log.find k).isNone) with
    | some k => newEntry s k m addr cls page
    | none => (s.fincSat F.EDC_LOVF_cnt).fput F.EDC_EV_ovf 1

/-- A write at a logged word: `ws` is set, which stops the window of a persistent entry that is not hard, before
its end (R375, R379). -/
def noteWrite (s : State) (m addr : Nat) : State :=
  match logFind s m addr with
  | none => s
  | some (k, e) =>
    let stops := e.pers && !e.hard && (match e.dl with | some t => decide (s.now < t) | none => false)
    putLog s (s.memc.log.set k { e with ws := true, dl := if stops then none else e.dl })

/-- A write of every word of a range of a memory: as `noteWrite` for each logged word of it (R375). -/
def noteRange (s : State) (m lo hi : Nat) : State :=
  (s.memc.log.entries.filter (fun e => e.2.mem == m && decide (lo ≤ e.2.addr.toNat) && decide (e.2.addr.toNat < hi))).foldl
    (fun s e => noteWrite s m e.2.addr.toNat) s

/-- A byte range of a page takes in a word of 8 bytes. -/
def wordIn (a n w : Nat) : Bool := decide (a / 8 ≤ w) && decide (8 * w < a + n)

/-- A write of a byte range of a Cask page (R375): `ws` in the entry of each word written, and of the page; the write of a page
writes its spare area. -/
def notePageWrite (s : State) (page a n : Nat) : State :=
  putLog s (s.memc.log.map (fun e =>
    let o := e.addr.toNat - caskBase
    if e.mem = mCask ∧ o / 0x800 = page ∧ (e.page = true ∨ wordIn a n (o % 0x800 / 8) = true) then { e with ws := true } else e))

/-- Retirement: `ret` in the entries that a test picks; it stops the window of a hard entry before its end. -/
def markRetired (s : State) (p : LogEnt → Bool) : State :=
  putLog s (s.memc.log.map (fun e =>
    if p e then
      let stops := e.hard && (match e.dl with | some t => decide (s.now < t) | none => false)
      { e with ret := true, dl := if stops then none else e.dl }
    else e))

/-! ### Uncorrectable errors (R380, R381) -/

/-- Lockstep mismatch (R342): the first difference is recorded. -/
def lockMismatch (s : State) (cause cls : Nat) : State :=
  let s := if s.flag F.TND_LSE_vld then s
           else ((s.fput F.TND_LSE_vld 1).fput F.TND_LSE_cls cls).rput R.TND_LSTS s.stamp
  deviceFault s cause

/-- Count an uncorrectable error and record the first (R380). -/
def recordUe (s : State) (m addr cls : Nat) : State :=
  let s := s.fput F.EDC_EV_ue 1
  let s := if s.flag F.EDC_UEINFO_vld then s
           else
             let s := (s.rput R.EDC_UEADDR (BitVec.ofNat 32 addr)).rput R.EDC_UETS s.stamp
             (((s.fput F.EDC_UEINFO_vld 1).fput F.EDC_UEINFO_mem m).fput F.EDC_UEINFO_cls cls).fbool
               F.EDC_UEINFO_srel (safetyRel s m addr)
  s.fincSat F.EDC_UEINFO_cnt

/-- An uncorrectable error met by a requester or the scrubber (R381). -/
def meetUe (s : State) (m addr cls : Nat) : State :=
  let s := recordUe s m addr cls
  if (m = mSram ∨ m = mSpare) ∧ safetyRel s m addr then deviceFault s 0x40 else s

/-! ### Reads and writes of a word -/

/-- The address bits that a memory's code covers: [17:2] of the offset in a TCM (R365). -/
def inMemory (m : Nat) (u : WordUpset) : WordUpset :=
  if m = mTcmM ∨ m = mTcmC then { u with addr := u.addr &&& 0xFFFF } else u

/-- Read a word of a memory: its view, with the correction logged or the error reported. -/
def readWordAt (s : State) (m off : Nat) (u : Option WordUpset) : WordView × State :=
  let u := u.map (inMemory m)
  let r := s.ram m
  let v := r.view off u
  let addr := sysAddr s m (off / 4 * 4)
  let s := s.setRam m (r.keepErr off u)
  if v.cls = 0 then (v, s)
  else if uncorrectable v.cls then (v, meetUe s m addr v.cls)
  else (v, logCorrection s m addr v.cls false)

/-- While a bank is being copied, a write to it goes to both banks (R385). -/
def storeBoth (s : State) (m off : Nat) (w : Word) : State :=
  let s := s.setRam m ((s.ram m).store off w)
  match s.memc.remap with
  | some (k, _) =>
    if m = mSram ∧ off / 0x10000 = k ∧ s.memc.remapped = none then
      s.setRam mSpare ((s.ram mSpare).store (off % 0x10000) w)
    else s
  | none => s

/-- Write to a word of a memory (R369): false where an uncorrectable error ends a partial write. -/
def writeWordAt (s : State) (m off : Nat) (w : Word) (be : BitVec 4) (u : Option WordUpset) : Bool × State :=
  let addr := sysAddr s m (off / 4 * 4)
  if be = 0xF then (true, noteWrite (storeBoth s m off w) m addr)
  else if be = 0 then (true, s)
  else
    let vs := readWordAt s m off u
    if uncorrectable vs.1.cls then (false, vs.2)
    else (true, noteWrite (storeBoth vs.2 m off (mergeWord vs.1.data w be)) m addr)

/-! ### Access rights (R344, R351, R491) -/

/-- The SRAM bank of an offset is named in TND_SBANK. -/
def sbankHas (s : State) (off : Nat) : Bool := bitAt (s.fget F.TND_SBANK_mask) (off / 0x10000)

/-- Test 3 has passed (R501). -/
def test3Ok (s : State) : Bool := bitAt (s.fget F.BST_SU_ok) 2

/-- Whether a requester may write an SRAM offset; in lockstep the checker core's outputs do not reach the bus (R341). -/
def sramWriteOk (s : State) (req : Requester) (off : Nat) : Bool :=
  match req with
  | .checker => s.fget F.TND_STAT_mode == 3 || (s.isSplit && sbankHas s off)
  | .host => s.mode != .startup || test3Ok s
  | _ => !s.isSplit || !sbankHas s off

def sramReadOk (s : State) (req : Requester) : Bool :=
  match req with
  | .host => s.mode != .startup || test3Ok s
  | _ => true

/-- Regions by address. -/
inductive Region where
  | rom | tcm | sram | regs | cask | none
  deriving DecidableEq, Repr

def regionOf (a : Nat) : Region :=
  if a < 0x10000 then .rom
  else if tcmBase ≤ a ∧ a < tcmBase + 0x40000 then .tcm
  else if sramBase ≤ a ∧ a < sramBase + 0x100000 then .sram
  else if 0x40000000 ≤ a ∧ a < 0x400D0000 then .regs
  else if caskBase ≤ a ∧ a < caskBase + 0x1000000 then .cask
  else .none

/-- The cores run the same instructions: both TCMs are read and written together (R341). So they do while merging, from the
instruction at which both resume (R352). -/
def State.inLockstep (s : State) : Bool := s.fget F.TND_STAT_mode == 0 || s.fget F.TND_STAT_mode == 2

/-- The TCMs that an access of a requester reaches; the host reads the main core's. -/
def tcmsOf (s : State) (req : Requester) : List Nat :=
  match req with
  | .host => [mTcmM]
  | .checker => if s.inLockstep then [mTcmC, mTcmM] else [mTcmC]
  | .debugger => if s.inLockstep then [mTcmM, mTcmC] else [mTcmM]
  | _ => if s.inLockstep then [mTcmM, mTcmC] else [mTcmM]

/-- Read the TCMs of an access: the upset shows in the first. Answers the first one's view and whether another's word is
uncorrectable. -/
def readTcms (s : State) (req : Requester) (off : Nat) (u : Option WordUpset) : WordView × Bool × State :=
  match tcmsOf s req with
  | [] => (⟨false, 0, 0⟩, false, s)
  | m :: rest =>
    let vs := readWordAt s m off u
    let rs := rest.foldl (fun (acc : Bool × State) m' =>
      let w := readWordAt acc.2 m' off none
      (acc.1 || uncorrectable w.1.cls, w.2)) (false, vs.2)
    (vs.1, rs.1, rs.2)

/-- A core has met an error in its own TCM: in lockstep the cores then differ, and which output differs first is open (R342,
R381). Before the checker has re-armed the difference is a failed merge (R353). -/
def tcmDiffers (s : State) : State :=
  if s.inLockstep then
    let d := s.draw
    lockMismatch d.2 (if s.fget F.TND_STAT_mode = 2 then 0x34 else 0x30) (d.1.toNat % 6)
  else s

/-! ### Cask pages (R370 to R373) -/

/-- The errors that a page carries. -/
def State.pageErr (s : State) (page : Nat) : PageUpset := s.cask.err.get ⟨[], 0⟩ page

/-- Byte 0x3C of a page's spare area as written; a page never written has the reset strength (DESIGN CHOICE, log 4). -/
def strengthByte (s : State) (page : Nat) : Nat :=
  match s.cask.spare.find page with
  | some l => (l.getD 0x3C 0).toNat
  | none => 0x15

/-- The strength code that the controller wrote with a page (R372). -/
def pageCode (s : State) (page : Nat) : Nat := strengthByte s page % 4

/-- The errors of a page at an access: wrong stored bits, numbered 72 to a word, 64 data bits first; words from 256 on are
the spare area. -/
def mergePage (a : PageUpset) : Option PageUpset → PageUpset
  | none => a
  | some b => ⟨a.bits.filter (fun i => !b.bits.contains i) ++ (b.bits.eraseDups.filter (fun i => !a.bits.contains i)),
               a.pfx ^^^ b.pfx⟩

/-- Words with exactly one wrong bit, with that bit: the inner code corrects them. -/
def innerSingles (e : PageUpset) : List (Nat × Nat) :=
  (List.range 264).filterMap (fun w =>
    match e.bits.filter (fun i => i / 72 == w) with
    | [i] => some (w, i % 72)
    | _ => none)

/-- Wrong bits left for the outer code: data bits of words with more than one wrong bit, as stored. Where the inner code
meets three or more, the spec gives no result for it: as stored as well (log 38). -/
def outerBits (e : PageUpset) : List Nat :=
  e.bits.filter (fun i => i % 72 < 64 && 1 < (e.bits.filter (fun j => j / 72 == i / 72)).length)

/-- The system address of a word of a page; a spare-area word is named by its page. -/
def pageWordAddr (page w : Nat) : Nat := caskBase + page * 0x800 + (if w < 256 then 8 * w else 0)

/-- The result of reading a page: decoded, and the data bits that are still wrong. -/
structure PageView where
  ok    : Bool
  wrong : List Nat
  deriving DecidableEq, Repr

/-- The bits left wrong in a page that the cache holds. -/
def cachedPage (s : State) (page : Nat) : Option (List Nat) := (s.cask.cache.find? (fun e => e.1 == page)).map (·.2)

/-- Put a page out of the cache. -/
def uncache (c : List (Nat × List Nat)) (page : Nat) : List (Nat × List Nat) := c.filter (fun e => e.1 != page)

/-- Keep a page as decoded in the cache of four; which page gives way is open (R373). -/
def cachePage (s : State) (page : Nat) (wrong : List Nat) : State :=
  if s.cask.cache.length < 4 then { s with cask := { s.cask with cache := s.cask.cache ++ [(page, wrong)] } }
  else
    let d := s.draw
    { d.2 with cask := { d.2.cask with cache := d.2.cask.cache.set (d.1.toNat % 4) (page, wrong) } }

/-- The byte of a page or of its spare area that holds a stored bit. -/
def bitByte (i : Nat) : Nat := i / 72 * 8 + i % 72 / 8

/-- The strength code of a page as read: the majority of its three copies, none where all differ (R372). -/
def readStrength (s : State) (page : Nat) (left : List Nat) : Option Nat :=
  let b := left.foldl (fun b i => if bitByte i = 0x83C then b ^^^ 2 ^ (i % 8) else b) (strengthByte s page)
  let c := fun i => b / 4 ^ i % 4
  if c 0 = c 1 ∨ c 0 = c 2 then some (c 0) else if c 1 = c 2 then some (c 1) else none

/-- How the outer code ends (R371 to R373). -/
inductive OuterEnd where
  | clean | fixed | pfx | failed | missed
  deriving DecidableEq, Repr

/-- The outer code over a page's errors: the bits that the inner code left, those of the parity field among them, and the
page-number prefix. Beyond the strength, or at a strength that is not the one written, the end is open. -/
def outerEnd (s : State) (page : Nat) (e : PageUpset) : OuterEnd :=
  let left := outerBits e
  match readStrength s page left with
  | none => .failed
  | some c =>
    let n := (left.filter (fun i => bitByte i < 0x800 + parityBits c / 8)).length + popBits e.pfx.toNat 13
    if c = pageCode s page ∧ n = 0 then .clean
    else if c = pageCode s page ∧ n ≤ outerT c then (if e.pfx = 0 then .fixed else .pfx)
    else
      match Config.bchBeyond page left % 3 with
      | 0 => .failed
      | 1 => .pfx
      | _ => .missed

/-- The wrong data bits of a page as read. -/
def leftWrong (s : State) (page : Nat) (e : PageUpset) : List Nat :=
  match outerEnd s page e with
  | .clean => []
  | .fixed => []
  | _ => (outerBits e).filter (fun i => i < 256 * 72)

/-- Record what the inner code corrects in a page (R373). -/
def logInner (s : State) (page : Nat) (e : PageUpset) : State :=
  (innerSingles e).foldl (fun s w =>
    logCorrection s mCask (pageWordAddr page w.1) (if w.2 < 64 then 1 else 2) (decide (256 ≤ w.1))) s

/-- Read a page through both codes (R373), recording what they correct; the cache answers for a page that it holds. -/
def readPage (s : State) (page : Nat) (p : Option PageUpset) : PageView × State :=
  let e := mergePage (s.pageErr page) p
  let s := if p.isSome then
             { s with cask := { s.cask with err := if e = ⟨[], 0⟩ then s.cask.err.del page else s.cask.err.set page e } }
           else s
  match cachedPage s page with
  | some wrong => (⟨true, wrong⟩, s)
  | none =>
    let s := logInner s page e
    let base := caskBase + page * 0x800
    let wrong := leftWrong s page e
    match outerEnd s page e with
    | .clean => (⟨true, []⟩, cachePage s page [])
    | .fixed => (⟨true, []⟩, cachePage (logCorrection s mCask base 3 true) page [])
    | .pfx => (⟨false, []⟩, meetUe s mCask base 5)
    | .failed => (⟨false, []⟩, meetUe s mCask base 6)
    | .missed => (⟨true, wrong⟩, cachePage (logCorrection s mCask base 3 true) page wrong)

/-- A byte of a page as delivered, with the wrong bits that are left. -/
def caskByte (s : State) (wrong : List Nat) (off : Nat) : Byte :=
  let b := memGet 0 s.cask.bytes off
  wrong.foldl (fun b i =>
    if bitByte i = off % 0x800 then b ^^^ (1#8 <<< (i % 8)) else b) b

/-- The errors that a page keeps when a byte range of it is written: those of the words that the write does not reach. A write of the
whole page leaves none. -/
def errOutside (e : PageUpset) (a n : Nat) : PageUpset :=
  if a = 0 ∧ 0x800 ≤ n then ⟨[], 0⟩ else ⟨e.bits.filter (fun i => i / 72 < 256 && !wordIn a n (i / 72)), e.pfx⟩

/-- Write bytes of a page, of whose words those from `a` to `a + n` are written: its spare area is encoded anew with the strength in
force (R371, R372). What the write does not reach keeps its errors (R380). -/
def writeSpan (s : State) (page off : Nat) (l : List Byte) (a n : Nat) : State :=
  let bytes := memPutList 0 s.cask.bytes (page * 0x800 + off) l
  let e := errOutside (s.pageErr page) a n
  notePageWrite { s with cask := { s.cask with
    bytes := bytes
    err := if e = ⟨[], 0⟩ then s.cask.err.del page else s.cask.err.set page e
    spare := s.cask.spare.set page (spareArea page (s.fget F.EDC_CCFG_t) (memGetList 0 bytes (page * 0x800) 0x800))
    cache := uncache s.cask.cache page } } page a n

/-- Write bytes of a page, and no other word of it. -/
def writePage (s : State) (page off : Nat) (l : List Byte) : State := writeSpan s page off l off l.length

/-! ### SRAM by bytes, for the Cask controller and the boot ROM -/

/-- Read n bytes of SRAM from a word-aligned offset: `none` where an uncorrectable error is met. -/
def readSram (s : State) (off : Nat) : Nat → Option (List Byte) × State
  | 0 => (some [], s)
  | n + 1 =>
    let at_ := sramAt s off
    let vs := readWordAt s at_.1 at_.2 none
    if uncorrectable vs.1.cls then (none, vs.2)
    else
      let rest := readSram vs.2 (off + 4) n
      (rest.1.map (fun l => leBytes 4 vs.1.data.toNat ++ l), rest.2)

/-- The first n bytes from an SRAM offset. -/
def sramBytes (s : State) (off n : Nat) : Option (List Byte) × State :=
  let r := readSram s off ((n + 3) / 4)
  (r.1.map (·.take n), r.2)

/-! ### Commands -/

/-- What happens in an earlier microtick carries its stamp. -/
def inMicrotick (s : State) (n : Nat) (f : State → State) : State :=
  { f { s with tick := BitVec.ofNat 64 n } with tick := s.tick }

/-- DEADLINE_WINDOW_CLOSE (R379): the window of an entry closes while it runs; the fault is stamped with its end. -/
def execDeadlineWindowClose (e : Fin 16) (s : State) : Out :=
  match s.memc.log.find e with
  | some x =>
    match x.dl with
    | some t =>
      if t ≤ s.now then
        .next (inMicrotick (putLog s (s.memc.log.set e { x with dl := none })) t (fun s => deviceFault s 0x41))
      else .next s
    | none => .next s
  | none => .next s

/-! ### Releases, locks -/

/-- EDC_LREL (R376): `none` when the release is refused. -/
def logReleaseWrite (s : State) (w : Word) : Option State :=
  if ¬ w.getLsbD 31 then some s
  else
    let k := bits w.toNat 3 0
    match s.memc.log.find k with
    | none => some s
    | some e =>
      if e.dl.isSome ∨ (e.hard ∧ safetyRel s e.mem e.addr.toNat ∧ ¬ e.ret) then none
      else some (putLog s (s.memc.log.del k))

/-- EDC_LOCK (R377): a write of 1 locks; a write of 0 is ignored. -/
def edcLockWrite (s : State) (w : Word) : State :=
  if w.getLsbD 0 then (s.fput F.EDC_LOCK_lock 1).fput F.EDC_STAT_lock 1 else s

/-! ### The scrubber (R382 to R384) -/

/-- Base and size of a scrub target. -/
def scrubSpan : Nat → Nat × Nat × Nat
  | 0 => (sramBase, 0x100000, 4)
  | 1 => (tcmBase, 0x40000, 4)
  | _ => (caskBase, 0x1000000, 0x800)

/-- EDC_SCCTL with `go` (R382): `none` when the start is refused. -/
def scrubStartWrite (s : State) (w : Word) : Option State :=
  let tgt := bits w.toNat 27 26
  let sp := scrubSpan tgt
  let a := s.fget F.EDC_SCBASE_addr
  let b := s.fget F.EDC_SCEND_addr
  if tgt = 3 then none
  else if ¬ w.getLsbD 31 then
    some ((s.fput F.EDC_SCCTL_tgt tgt).fput F.EDC_SCCTL_mode (bits w.toNat 28 28))
  else if s.memc.scrub.isSome ∨ a % sp.2.2 ≠ 0 ∨ b % sp.2.2 ≠ 0 ∨ a < sp.1 ∨ sp.1 + sp.2.1 < b ∨ b ≤ a
      ∨ (tgt = 1 ∧ s.isSplit) then none
  else
    let s := (s.fput F.EDC_SCCTL_tgt tgt).fput F.EDC_SCCTL_mode (bits w.toNat 28 28)
    let s := s.fput F.EDC_SCCTL_busy 1
    let s := ([R.EDC_SCCHK, R.EDC_SCCOR, R.EDC_SCUNC, R.EDC_SCFUA, R.EDC_SCSTAT, R.EDC_SCINV]).foldl (fun s r => s.rput r 0) s
    some { s with memc := { s.memc with scrub := some (a, b, tgt, w.getLsbD 28, s.now), abort := false } }

/-- EDC_SCCTL.abort (R384): stop after the unit in progress. -/
def scrubAbortWrite (s : State) (w : Word) : State :=
  if w.getLsbD 29 ∧ s.memc.scrub.isSome then { s with memc := { s.memc with abort := true } } else s

/-- Note an uncorrectable unit of a scrub. -/
def scrubUe (s : State) (addr : Nat) : State :=
  let s := s.fincSat F.EDC_SCUNC_cnt
  if s.flag F.EDC_SCSTAT_fvld then s
  else (s.rput R.EDC_SCFUA (BitVec.ofNat 32 addr)).fput F.EDC_SCSTAT_fvld 1

/-- Scrub one word that carries errors. -/
def scrubWord (correct : Bool) (m : Nat) (s : State) (off : Nat) : State :=
  let vs := readWordAt s m off none
  let addr := sysAddr s m off
  if ¬ vs.1.valid ∨ vs.1.cls = 0 then vs.2
  else if uncorrectable vs.1.cls then scrubUe vs.2 addr
  else
    let s := vs.2.fincSat F.EDC_SCCOR_cnt
    if correct then noteWrite (storeBoth s m off vs.1.data) m addr else s

/-- The words of a RAM between two byte offsets that carry errors, in rising order. -/
def Ram.badIn (r : Ram) (a b : Nat) : List Nat :=
  ((r.err.entries.map (fun e => e.1 * 4)).filter (fun o => a ≤ o && o < b))

/-- Valid words between two byte offsets; a broken pair counts with them. -/
def Ram.validIn (r : Ram) (a b : Nat) : Nat :=
  let seen (i : Nat) : Bool := (r.view (4 * i) none).valid
  ((r.valid.entries.filter (fun e => e.2 && a ≤ 4 * e.1 && 4 * e.1 < b && seen e.1)).length)
    + ((r.err.entries.filter (fun e => a ≤ 4 * e.1 && 4 * e.1 < b && !r.valid.get false e.1 && seen e.1)).length)

/-- Count the words of one RAM between two byte offsets. -/
def scrubCount (s : State) (m a b : Nat) : State :=
  let v := (s.ram m).validIn a b
  (s.faddSat F.EDC_SCCHK_cnt v).faddSat F.EDC_SCINV_cnt ((b - a) / 4 - v)

/-- Scrub the words of one RAM between two byte offsets. -/
def scrubRam (s : State) (correct : Bool) (m a b : Nat) : State :=
  ((s.ram m).badIn a b).foldl (scrubWord correct m) (scrubCount s m a b)

/-- Scrub both TCMs in the same clocks (R383): each word of the main core's TCM with the checker core's at its address. -/
def scrubTcms (s : State) (correct : Bool) (a b : Nat) : State :=
  (rising ((s.ram mTcmM).badIn a b ++ (s.ram mTcmC).badIn a b)).foldl
    (fun s off => scrubWord correct mTcmC (scrubWord correct mTcmM s off) off) (scrubCount (scrubCount s mTcmM a b) mTcmC a b)

/-- Scrub SRAM: the retired bank's addresses are served by the spare. -/
def scrubSram (s : State) (correct : Bool) (a b : Nat) : State :=
  match s.memc.remapped with
  | none => scrubRam s correct mSram a b
  | some k =>
    let lo := k * 0x10000
    let hi := lo + 0x10000
    let s := if a < lo then scrubRam s correct mSram a (min b lo) else s
    let s := if a < hi ∧ lo < b then scrubRam s correct mSpare (max a lo - lo) (min b hi - lo) else s
    if hi < b then scrubRam s correct mSram (max a hi) b else s

/-- Scrub one Cask page that carries errors (R373, R383). -/
def scrubPage (correct : Bool) (s : State) (page : Nat) : State :=
  let n0 := s.pageErr page
  let s0 := { s with cask := { s.cask with cache := uncache s.cask.cache page } }
  let vs := readPage s0 page none
  if ¬ vs.1.ok then scrubUe vs.2 (caskBase + page * 0x800)
  else if innerSingles n0 = [] ∧ outerEnd s page n0 = .clean then vs.2
  else
    let s := vs.2.fincSat F.EDC_SCCOR_cnt
    if correct then writePage s page 0 ((List.range 0x800).map (fun i => caskByte s vs.1.wrong (page * 0x800 + i))) else s

/-- SCRUB_END (R384): the scrub has run through its range, or up to where an abort stopped it, which is open. -/
def execScrubEnd (s : State) : Out :=
  match s.memc.scrub with
  | none => .next s
  | some (a, b, tgt, correct, _) =>
    let sp := scrubSpan tgt
    let n := (b - a) / sp.2.2
    let abort := s.memc.abort
    let d := s.draw
    let s := if abort then d.2 else s
    let done := if abort then d.1.toNat % (n + 1) else n
    let lo := a - sp.1
    let hi := lo + done * sp.2.2
    let s : State := match tgt with
      | 0 => scrubSram s correct lo hi
      | 1 => scrubTcms s correct lo hi
      | _ =>
        let s := s.faddSat F.EDC_SCCHK_cnt done
        ((s.cask.err.entries.map (fun e => e.1)).filter (fun p => lo ≤ p * 0x800 && p * 0x800 < hi)).foldl (scrubPage correct) s
    let s := { s with memc := { s.memc with scrub := none, abort := false } }
    .next ((((s.fput F.EDC_SCCTL_busy 0).fput F.EDC_SCSTAT_done 1).fbool F.EDC_SCSTAT_abrt abort).fput F.EDC_EV_scdone 1)

/-! ### Retiring a bank (R385, R386) -/

/-- EDC_REMAP (R385, R390): `none` when the write is refused, as each is once a remap has started. -/
def bankRemapWrite (s : State) (w : Word) : Option State :=
  let k := bits w.toNat 19 16
  if s.memc.remap.isSome then none
  else if ¬ w.getLsbD 31 then some (s.fput F.EDC_REMAP_bank k)
  else if s.isSplit ∧ bitAt (s.fget F.TND_SBANK_mask) k then none
  else
    let s := (s.fput F.EDC_REMAP_bank k).fput F.EDC_REMAP_busy 1
    some { s with memc := { s.memc with remap := some (k, s.now) } }

/-- Copy one word of the bank into the spare: corrected and logged, uncorrectable as stored, invalid as invalid. -/
def copyBankWord (k : Nat) (s : State) (i : Nat) : State :=
  let off := k * 0x10000 + 4 * i
  let r := s.ram mSram
  let v := r.view off none
  if ¬ v.valid then s
  else if uncorrectable v.cls then
    let sp := (s.ram mSpare).store (4 * i) (r.stored off)
    let s := meetUe s mSram (sramBase + off) v.cls
    let sp := { sp with valid := sp.valid.set i (r.valid.get false (off / 4))
                        err := sp.err.set i (r.err.get ⟨0, 0, 0, 0⟩ (off / 4)) }
    s.setRam mSpare sp
  else
    let s := if v.cls = 0 then s else logCorrection s mSram (sramBase + off) v.cls false
    s.setRam mSpare ((s.ram mSpare).store (4 * i) v.data)

/-- The words of a bank that are not plainly invalid, in rising order. -/
def Ram.wordsIn (r : Ram) (k : Nat) : List Nat :=
  ((rising (r.valid.entries.map (fun e => e.1) ++ r.err.entries.map (fun e => e.1))).filter (fun i => i / 0x4000 == k)).map
    (fun i => i % 0x4000)

/-- REMAP_COMPLETE (R385): the copy and its readback end. -/
def execRemapComplete (same : Bool) (s : State) : Out :=
  match s.memc.remap with
  | none => .next s
  | some (k, _) =>
    if s.memc.remapped.isSome ∨ s.fget F.EDC_REMAP_busy = 0 then .next s
    else
      let s := (((s.ram mSram).wordsIn k).foldl (copyBankWord k) s).fput F.EDC_REMAP_busy 0
      if ¬ same then .next (deviceFault (s.fput F.EDC_REMAP_fail 1) 0x42)
      else
        let s := { s with memc := { s.memc with remapped := some k } }
        let s := markRetired s (fun e => e.mem != mCask && e.mem != mTcmM && e.mem != mTcmC
          && (e.addr.toNat - sramBase) / 0x10000 == k)
        .next ((s.fput F.EDC_REMAP_done 1).fput F.EDC_EV_rmdone 1)

end Sys2Proof.Machine
end

