-- ==== Sys2Proof/Machine/CaskCtl.lean ====
section
/-! DEFINITION. The controller of the Cask (R392 to R423): records, recovery, appends, racking, the lees list,
slot pages, acceptance pairs, the calibration set and the power-fail warning. -/

namespace Sys2Proof.Machine

/-! ### Records (R394 to R396) -/

def tSeghdr : Nat := 1
def tSeal : Nat := 2
def tParam : Nat := 3
def tEvent : Nat := 4
def tCal : Nat := 5
def tCalcommit : Nat := 6
def tLees : Nat := 7
def tRemap : Nat := 8
def tAccept : Nat := 9

/-- Total size of a record of a payload length (R394). -/
def recSize (len : Nat) : Nat := 24 + (len + 7) / 8 * 8

def JRec.size (r : JRec) : Nat := recSize r.data.length

/-- Header bytes 0x00 to 0x0B. -/
def recHead (typ key gen : Nat) (data : List Byte) : List Byte :=
  leBytes 1 typ ++ [0] ++ leBytes 2 data.length ++ leBytes 4 key ++ leBytes 4 gen

/-- The check of a record (R395). -/
def hcrc (epoch typ key gen : Nat) (data : List Byte) : Word :=
  crc32c (leBytes 4 epoch ++ recHead typ key gen data ++ data)

/-- Header and padded payload (step 1 of R401). -/
def recBody (epoch typ key gen : Nat) (data : List Byte) : List Byte :=
  recHead typ key gen data ++ leBytes 4 (hcrc epoch typ key gen data).toNat ++ data
    ++ List.replicate ((8 - data.length % 8) % 8) 0

/-- The commit mark (step 2 of R401). -/
def recMark (epoch typ key gen : Nat) (data : List Byte) : List Byte :=
  leBytes 4 (~~~ hcrc epoch typ key gen data).toNat ++ leBytes 4 0xA55AC33C

/-- The record at a byte offset of a page, when it is committed under an epoch (R395). -/
def parseRec (page : Nat) (bytes : List Byte) (epoch off : Nat) : Option JRec :=
  let l := bytes.drop off
  let len := le l 2 2
  let typ := le l 0 1
  if 2024 < len ∨ 2048 < off + recSize len ∨ typ = 0 ∨ 9 < typ then none
  else
    let data := slice l 16 len
    let c := crc32c (leBytes 4 epoch ++ slice l 0 12 ++ data)
    let e := recSize len
    if le l 12 4 = c.toNat ∧ le l (e - 8) 4 = (~~~c).toNat ∧ le l (e - 4) 4 = 0xA55AC33C then
      some ⟨page, off, typ, le l 4 4, le l 8 4, data⟩
    else none

/-! ### Pages of the journal -/

def segPage (j : Nat) : Nat := 2048 + 1024 * j

def State.epoch (s : State) : Nat := s.fget F.CSK_EPOCH_epoch

/-- The pages of a segment that are not retired. -/
def usableOf (lees : List Nat) (j : Nat) : List Nat :=
  ((List.range 1024).map (fun i => segPage j + i)).filter (fun p => !lees.contains p)

/-- A segment whose first page is retired is unusable (R408). -/
def segUsable (lees : List Nat) (j : Nat) : Bool := !lees.contains (segPage j)

/-- Usable pages of the journal (R407). -/
def usablePages (lees : List Nat) : Nat :=
  ((List.range 6).filter (segUsable lees)).foldl (fun n j => n + (usableOf lees j).length) 0

/-- Pages that hold records of the current epoch. -/
def usedPages (s : State) : Nat := ((s.cask.recs.map (·.page)).eraseDups).length

/-- Segments that neither the current epoch nor racking holds, and that can be used. -/
def freeSegs (s : State) : List Nat :=
  (List.range 6).filter (fun j => !s.cask.segs.contains j && segUsable s.cask.lees j
    && !(match s.cask.rack with | some r => r.seg == j | none => false))

/-- Show the figures that follow from the index (CSK_PAGES, CSK_STAT.fill, CSK_LEES). -/
def showPages (s : State) : State :=
  let used := usedPages s
  let usable := usablePages s.cask.lees
  let s := ((s.fput F.CSK_PAGES_used used).fput F.CSK_PAGES_usable usable).fput F.CSK_LEES_cnt s.cask.lees.length
  s.fput F.CSK_STAT_fill (min 1023 (if usable = 0 then 0 else used * 1000 / usable))

/-- Write bytes of a journal page; the first write of a page writes the whole page, with 0 in the rest of it (R401). -/
def putJournal (s : State) (page off : Nat) (l : List Byte) : State :=
  if off = 0 then
    writeSpan { s with cask := { s.cask with bytes := s.cask.bytes.filter (fun e => e.1 / 0x800 != page) } } page 0 l 0 0x800
  else writePage s page off l

/-! ### Live records (R397, R399) -/

/-- The record of a type and key with the highest generation; of two, the later one. -/
def newestOf (recs : List JRec) (typ key : Nat) : Option JRec :=
  recs.foldl (fun best r =>
    if r.typ = typ ∧ r.key = key then
      match best with
      | none => some r
      | some b => if b.gen ≤ r.gen then some r else best
    else best) none

/-- The newest generation of a type and key, 0 with none. -/
def newestGen (recs : List JRec) (typ key : Nat) : Nat :=
  match newestOf recs typ key with
  | some r => r.gen
  | none => 0

/-- The live PARAM records; a payload of no bytes deletes its key (R396). -/
def liveParams (recs : List JRec) : List JRec :=
  recs.filter (fun r => r.typ == tParam && newestOf recs tParam r.key == some r && r.data != [])

def liveLees (recs : List JRec) : List JRec :=
  recs.filter (fun r => r.typ == tLees && newestOf recs tLees r.key == some r)

def liveRemap (recs : List JRec) : List JRec :=
  recs.filter (fun r => r.typ == tRemap && newestOf recs tRemap r.key == some r)

/-- The live events: the 8192 newest (R399). -/
def liveEvents (s : State) : List JRec :=
  s.cask.recs.filter (fun r => r.typ == tEvent && s.cask.evNo < r.gen + 8192)

/-- The live ACCEPT pair: the highest generation with both copies (R414). -/
def livePair (recs : List JRec) : Option (JRec × JRec) :=
  let cs := recs.filter (fun r => r.typ == tAccept)
  cs.foldl (fun best r =>
    if r.key = 0 then
      match (cs.reverse.find? (fun q => q.key == 1 && q.gen == r.gen)), best with
      | some q, none => some (r, q)
      | some q, some b => if b.1.gen ≤ r.gen then some (r, q) else best
      | none, _ => best
    else best) none

/-- The CAL record of a channel and generation. -/
def calOf (recs : List JRec) (gen n : Nat) : Option JRec :=
  recs.reverse.find? (fun r => r.typ == tCal && r.gen == gen && r.key == n)

/-- The records before the last CALCOMMIT of a generation. -/
def beforeCommit (recs : List JRec) (gen : Nat) : List JRec :=
  ((recs.reverse.dropWhile (fun r => !(r.typ == tCalcommit && r.gen == gen))).drop 1).reverse

/-- The calibration set in force (R415, R420): that of the last CALCOMMIT, when its 48 CAL records stand before it. Where recovery
has lost one of them no set is in force, and the next set has generation 1 again (R419). -/
def calSet (recs : List JRec) : Option JRec :=
  match recs.reverse.find? (fun r => r.typ == tCalcommit && r.key == 0) with
  | none => none
  | some c => if allChans.all (fun n => (calOf (beforeCommit recs c.gen) c.gen n).isSome) then some c else none

/-- The records that racking copies, in its order (R407). -/
def liveAll (s : State) : List JRec :=
  let recs := s.cask.recs
  liveLees recs ++ liveRemap recs
    ++ (match calSet recs with
        | some c => allChans.filterMap (calOf (beforeCommit recs c.gen) c.gen) ++ [c]
        | none => [])
    ++ (match livePair recs with | some p => [p.1, p.2] | none => [])
    ++ liveParams recs ++ liveEvents s

/-- Put the set in force into CSK_CAL (R415, R420). -/
def showCal (s : State) : State :=
  match calSet s.cask.recs with
  | some c =>
    (((s.fput F.CSK_CAL_vld 1).fput F.CSK_CAL_src (le c.data 0 1)).fput F.CSK_CAL_gen c.gen).fput F.CSK_STAT_nocal 0
  | none => (s.rput R.CSK_CAL 0).fput F.CSK_STAT_nocal 1

/-- Put the live ACCEPT pair into CSK_ACC (R414). -/
def showAcc (s : State) : State :=
  match livePair s.cask.recs with
  | some p =>
    ((s.fput F.CSK_ACC_vld 1).fput F.CSK_ACC_slot (le p.1.data 6 1)).fput F.CSK_ACC_fp (le p.1.data 4 2)
  | none => ((s.fput F.CSK_ACC_vld 0).fput F.CSK_ACC_slot 0).fput F.CSK_ACC_fp 0

/-! ### Appending (R401) -/

/-- The record has committed: it joins the index, and what it governs takes effect; a retired page's log entries show it
(R387). -/
def indexRec (s : State) (r : JRec) : State :=
  let s := { s with cask := { s.cask with recs := s.cask.recs ++ [r], wpage := r.page, woff := r.off + r.size } }
  let s := if r.typ = tEvent then { s with cask := { s.cask with evNo := r.gen } } else s
  let s := if r.typ = tLees ∧ !s.cask.lees.contains r.key then
             { s with cask := { s.cask with lees := s.cask.lees ++ [r.key] } } else s
  let s := if r.typ = tLees then
             markRetired s (fun e => e.mem == mCask && (e.addr.toNat - caskBase) / 0x800 == r.key) else s
  let s := if r.typ = tCalcommit then showCal s else s
  showPages s

/-- Write a record whole at a place. -/
def writeRec (s : State) (page off typ key gen : Nat) (data : List Byte) : State :=
  let s := putJournal s page off (recBody s.epoch typ key gen data ++ recMark s.epoch typ key gen data)
  indexRec s ⟨page, off, typ, key, gen, data⟩

/-- The retired-page bitmap of a segment. -/
def leesBitmap (lees : List Nat) (j : Nat) : List Byte :=
  (List.range 128).map (fun b =>
    BitVec.ofNat 8 ((List.range 8).foldl (fun v i => if lees.contains (segPage j + 8 * b + i) then v + 2 ^ i else v) 0))

/-- The payload of a SEGHDR (R396). -/
def seghdrData (epoch j : Nat) (lees : List Nat) : List Byte :=
  leBytes 4 epoch ++ leBytes 4 j ++ List.replicate 8 0 ++ leesBitmap lees j

/-- Lay records out in a segment after its SEGHDR, in order; `none` where they do not fit. -/
def layoutAt : List Nat → Nat → List Nat → Option (List (Nat × Nat))
  | _, _, [] => some []
  | [], _, _ => none
  | p :: ps, off, n :: ns =>
    if off + n ≤ 2048 then (layoutAt (p :: ps) (off + n) ns).map ((p, off) :: ·)
    else
      match ps with
      | [] => none
      | q :: qs => (layoutAt (q :: qs) n ns).map ((q, 0) :: ·)

/-- The sizes that racking writes after a SEGHDR: the copies and the SEAL. -/
def rackSizes (s : State) : List Nat := (liveAll s).map JRec.size ++ [recSize 16]

/-- The segment that racking would write into (R407, R408). -/
def rackTarget (s : State) : Option Nat :=
  (freeSegs s).find? (fun j => (layoutAt (usableOf s.cask.lees j) (recSize 144) (rackSizes s)).isSome)

/-- The fill threshold is reached (R407). -/
def fillReached (s : State) : Bool :=
  s.fget F.CSK_RCFG_fill * usablePages s.cask.lees ≤ 100 * usedPages s

/-- Racking is due, or has been asked for, and cannot start: appends that need a new page are refused (R408). -/
def journalFull (s : State) : Bool := (fillReached s || s.cask.norack) && s.cask.rack.isNone && (rackTarget s).isNone

/-- The next usable page after the current one in its segment. -/
def nextPage (s : State) : Option Nat :=
  (usableOf s.cask.lees ((s.cask.wpage - 2048) / 1024)).find? (fun p => s.cask.wpage < p)

/-- Continue in the lowest-numbered free segment with a SEGHDR of the current epoch (R401). -/
def openSeg (s : State) (j : Nat) : State :=
  let idx := s.cask.segs.length
  let s := { s with cask := { s.cask with segs := s.cask.segs ++ [j] } }
  writeRec s (segPage j) 0 tSeghdr idx 0 (seghdrData s.epoch j s.cask.lees)

/-- A place for a record of a size on a page of its own, past the current one. -/
def allocateFresh (s : State) (size : Nat) : Option (Nat × Nat × State) :=
  if journalFull s then none
  else
    match nextPage s with
    | some p => some (p, 0, s)
    | none =>
      match freeSegs s with
      | [] => none
      | j :: _ =>
        let s := openSeg s j
        if s.cask.woff + size ≤ 2048 then some (s.cask.wpage, s.cask.woff, s)
        else (nextPage s).map (fun p => (p, 0, s))

/-- A place for a record of a size (R394, R401, R411). -/
def allocate (s : State) (size : Nat) : Option (Nat × Nat × State) :=
  if s.cask.woff + size ≤ 2048 ∧ !s.cask.lees.contains s.cask.wpage then some (s.cask.wpage, s.cask.woff, s)
  else allocateFresh s size

/-- Append a record in one go. -/
def appendWhole (s : State) (typ key gen : Nat) (data : List Byte) : Option State :=
  (allocate s (recSize data.length)).map (fun r => writeRec r.2.2 r.1 r.2.1 typ key gen data)

/-- Boot number and stamp, as EVENT, LEES and REMAP payloads hold them. -/
def bootStamp (s : State) (stamp : Nat) : List Byte := leBytes 4 (s.fget F.CSK_BOOT_boot) ++ leBytes 8 stamp

/-- Append a queue entry as an EVENT record (R396, R402). -/
def appendEvent (s : State) (e : Ev) : Option State :=
  appendWhole s tEvent (e.source * 2 ^ 24 + e.code * 2 ^ 16 + e.detail) (s.cask.evNo + 1) (bootStamp s e.stamp ++ e.data)

/-! ### The command interface (R400) -/

/-- A command is refused with a reason (R400). -/
def cmdRefuse (s : State) (err : Nat) : State :=
  ((s.fput F.CSK_CMD_err err).fput F.CSK_CMD_busy 0).fput F.CSK_EV_cerr 1

/-- An append is refused as full (R399, R408). -/
def cmdFull (s : State) : State := ((cmdRefuse s 3).fput F.CSK_EV_full 1).fput F.CSK_STAT_full 1

/-- A command ends (R400). -/
def cmdDone (s : State) : State := (s.fput F.CSK_CMD_busy 0).fput F.CSK_EV_cdone 1

/-- The generation that a command append takes (R397). -/
def jobGen (s : State) (j : Job) : Nat :=
  if j.typ = tEvent then s.cask.evNo + 1
  else if j.typ = tCal ∨ j.typ = tCalcommit then j.gen
  else newestGen s.cask.recs j.typ j.key + 1

/-- Whether the controller may write the array (R403, R409). -/
def caskWrites (s : State) : Bool := s.flag F.CSK_STAT_rdy && !s.flag F.CSK_STAT_pfw

/-- With no earlier arrival left, a command append is given its place, and header and payload are written. -/
def startJob (s : State) : State :=
  match s.cask.job with
  | none => s
  | some j =>
    if 0 < j.ahead ∨ j.place.isSome ∨ ¬ caskWrites s then s
    else
      match allocate s (recSize j.data.length) with
      | none => cmdFull { s with cask := { s.cask with job := none } }
      | some (p, off, s) =>
        let gen := jobGen s j
        let s := putJournal s p off (recBody s.epoch j.typ j.key gen j.data)
        { s with cask := { s.cask with job := some { j with gen := gen, place := some (p, off) } } }

/-- The commit of a command append (R401); CSK_RGEN shows the generation of a record of operation 0x1 (R423). -/
def commitJob (s : State) : State :=
  match s.cask.job with
  | none => s
  | some j =>
    match j.place with
    | none => s
    | some (p, off) =>
      let mark := recMark s.epoch j.typ j.key j.gen j.data
      let r : JRec := ⟨p, off, j.typ, j.key, j.gen, j.data⟩
      let s := writePage s p (off + r.size - 8) mark
      let s := indexRec { s with cask := { s.cask with job := none } } r
      let s := if j.typ = tLees then s else s.fput F.CSK_RGEN_gen j.gen
      cmdDone (s.rput R.CSK_RLOC (BitVec.ofNat 32 (caskBase + p * 0x800 + off)))

/-- Hand an append to the controller, after the events that wait. -/
def queueJob (s : State) (typ key gen : Nat) (data : List Byte) : State :=
  let s := { s with cask := { s.cask with job := some ⟨typ, key, gen, data, s.cask.queue.length, none⟩ } }
  startJob (s.fput F.CSK_CMD_busy 1)

/-- The payload lengths that each type admits in an append (R396). -/
def lenOk (typ len : Nat) : Bool :=
  if typ = tParam then len ≤ 2024
  else if typ = tEvent then 12 ≤ len && len ≤ 64
  else if typ = tCal then len == 64
  else if typ = tCalcommit then len == 16
  else if typ = tRemap then len == 16
  else false

/-- The key and generation that an append must name (R396, R397). -/
def keyOk (s : State) (typ key gen : Nat) : Bool :=
  if typ = tCal then key < 48 && gen == s.fget F.CSK_CAL_gen + 1
  else if typ = tCalcommit then key == 0 && gen == s.fget F.CSK_CAL_gen + 1
  else if typ = tRemap then key == 0
  else true

/-- The PARAM limits (R399). -/
def paramFits (s : State) (key len : Nat) : Bool :=
  let live := (liveParams s.cask.recs).filter (fun r => r.key != key)
  len == 0 || (decide (live.length + 1 ≤ 2048) && decide (live.foldl (fun n r => n + r.data.length) len ≤ 262144))

/-- A block of a CAL payload is in range, reserved bytes included (R415, R419). -/
def calBlockOk (d : List Byte) (a : Nat) (low : Bool) : Bool :=
  let off := signed 16 (le d a 2)
  let gain := le d (a + 2) 2
  let temp := signed 8 (le d (a + 8) 1)
  let npts := le d (a + 9) 1
  decide (-200 ≤ off ∧ off ≤ 200)
    && (if low then decide (31130 ≤ gain ∧ gain ≤ 34406) else decide (38912 ≤ gain ∧ gain ≤ 43008))
    && decide (signed 16 (le d (a + 4) 2) < signed 16 (le d (a + 6) 2))
    && decide (-40 ≤ temp ∧ temp ≤ 125) && decide (2 ≤ npts ∧ npts ≤ 8) && le d (a + 12) 4 == 0

/-- A CAL payload is in range. -/
def calOk (d : List Byte) : Bool :=
  calBlockOk d 0 false && calBlockOk d 0x10 true && calBlockOk d 0x20 false
    && decide (le d 0x38 1 ≤ 3) && le d 0x39 7 == 0

/-- The CALCOMMIT of a generation may be appended (R419). -/
def calCommitOk (s : State) (gen : Nat) (d : List Byte) : Bool :=
  (le d 0 1 == 1 || le d 0 1 == 2) && le d 1 7 == 0
    && allChans.all (fun n =>
      match calOf s.cask.recs gen n with
      | some r => calOk r.data
      | none => false)

/-- Whether the calibration set may be replaced now (R351, R419). -/
def calAllowed (s : State) (req : Requester) : Bool :=
  s.mode == .idle && s.sw1 && !(s.isSplit && req == .pair)

/-- An SRAM source range (R400). -/
def sourceOk (a len : Nat) : Bool := a % 8 == 0 && decide (sramBase ≤ a) && decide (a + len ≤ sramBase + 0x100000)

/-- The first key of the firmware image in the Cask (R475). -/
def fwKey : Nat := 0x80000100

/-- Operation 0x1: append a record (R400, R401, R475). -/
def cmdAppend (s : State) (req : Requester) : State :=
  let typ := s.fget F.CSK_RHDR_type
  let len := s.fget F.CSK_RHDR_len
  let key := s.fget F.CSK_RKEY_key
  let gen := s.fget F.CSK_RGEN_gen
  let a := s.fget F.CSK_SADDR_addr
  if ¬ lenOk typ len ∨ ¬ sourceOk a len then cmdRefuse s 1
  else if (typ = tCal ∨ typ = tCalcommit) ∧ ¬ calAllowed s req then cmdRefuse s 2
  else if typ = tParam ∧ fwKey ≤ key ∧ key < fwKey + 0x100 ∧ ¬ s.sw1 then cmdRefuse s 2
  else if ¬ keyOk s typ key gen then cmdRefuse s 1
  else if typ = tParam ∧ ¬ paramFits s key len then cmdFull s
  else
    match sramBytes s (a - sramBase) len with
    | (none, s) => cmdRefuse s 8
    | (some d, s) =>
      if typ = tCalcommit ∧ ¬ calCommitOk s gen d then cmdRefuse s 5
      else queueJob s typ key gen d

/-- Racking starts in a free segment: its SEGHDR of the next epoch is written (R407); false where none will do. -/
def startRack (s : State) : Bool × State :=
  match rackTarget s with
  | none => (false, ({ s with cask := { s.cask with norack := true } }).fput F.CSK_STAT_full 1)
  | some j =>
    let e := s.epoch + 1
    let d := seghdrData e j s.cask.lees
    let s := putJournal s (segPage j) 0 (recBody e tSeghdr 0 0 d ++ recMark e tSeghdr 0 0 d)
    (true, ({ s with cask := { s.cask with rack := some ⟨j, s.now⟩, norack := false } }).fput F.CSK_STAT_rack 1)

/-- Operation 0x2: start racking; the command ends when racking runs. -/
def cmdRack (s : State) : State :=
  if s.cask.rack.isSome then cmdRefuse s 2
  else
    let r := startRack s
    if r.1 then cmdDone r.2 else cmdRefuse r.2 3

/-- Operation 0x3: retire a page (R411). -/
def cmdRetire (s : State) : State :=
  let p := s.fget F.CSK_PAGE_page
  if p < 2048 ∨ s.cask.lees.contains p then cmdRefuse s 6
  else if 256 ≤ s.cask.lees.length then cmdRefuse s 7
  else
    let d := s.draw
    queueJob d.2 tLees p 0 (leBytes 1 d.1.toNat ++ List.replicate 3 0 ++ bootStamp s s.now)

/-- Operation 0x4: write a slot page (R412). -/
def cmdSlot (s : State) (req : Requester) : State :=
  let p := s.fget F.CSK_PAGE_page
  let a := s.fget F.CSK_SADDR_addr
  if 2048 ≤ p ∨ ¬ sourceOk a 2048 then cmdRefuse s 1
  else if s.mode = .startup ∨ ¬ s.sw1 ∨ (s.isSplit ∧ req = .pair) then cmdRefuse s 2
  else
    match sramBytes s (a - sramBase) 2048 with
    | (none, s) => cmdRefuse s 8
    | (some d, s) => cmdDone (putJournal s p 0 d)

/-- The live record of a type and key, as a lookup finds it (R397, R414, R420). -/
def lookupRec (s : State) (typ key : Nat) : Option JRec :=
  let recs := s.cask.recs
  if typ = tCal then
    match calSet recs with
    | some c => calOf (beforeCommit recs c.gen) c.gen key
    | none => none
  else if typ = tCalcommit then (if key = 0 then calSet recs else none)
  else if typ = tAccept then
    match livePair recs with
    | some p => if key = 0 then some p.1 else if key = 1 then some p.2 else none
    | none => none
  else if typ = tParam then (liveParams recs).find? (fun r => r.key == key)
  else if typ = tEvent then newestOf (liveEvents s) tEvent key
  else newestOf recs typ key

/-- Operation 0x5: look a live record up. -/
def cmdLookup (s : State) : State :=
  let typ := s.fget F.CSK_RHDR_type
  if typ = 0 ∨ 9 < typ then cmdRefuse s 1
  else
    match lookupRec s typ (s.fget F.CSK_RKEY_key) with
    | none => cmdDone (s.rput R.CSK_RLOC 0)
    | some r =>
      cmdDone ((s.fput F.CSK_RGEN_gen r.gen).rput R.CSK_RLOC (BitVec.ofNat 32 (caskBase + r.page * 0x800 + r.off)))

/-- A write of CSK_CMD (R400): `none` while a command runs. A slot page needs no recovered journal (R412). -/
def caskCmdWrite (s : State) (req : Requester) (w : Word) : Option State :=
  let op := bits w.toNat 19 16
  if ¬ w.getLsbD 31 then some (s.fput F.CSK_CMD_op op)
  else if s.flag F.CSK_CMD_busy then none
  else
    let s := s.fput F.CSK_CMD_op op
    some (if s.flag F.CSK_STAT_pfw then cmdRefuse s 4
      else if ¬ s.flag F.CSK_STAT_rdy ∧ op ≠ 4 then cmdRefuse s 2
      else if op = 1 then cmdAppend s req
      else if op = 2 then cmdRack s
      else if op = 3 then cmdRetire s
      else if op = 4 then cmdSlot s req
      else if op = 5 then cmdLookup s
      else cmdRefuse s 1)

/-! ### Recovery (R403 to R406) -/

/-- The pages that any byte of the array is listed in. -/
def listedPages (m : Mem) : List Nat := (m.map (fun e => e.1 / 0x800)).eraseDups

/-- The bytes of a page with the wrong bits that its codes leave. -/
def rawPage (s : State) (page : Nat) (wrong : List Nat) : List Byte :=
  let cells := s.cask.bytes.filter (fun e => e.1 / 0x800 == page)
  let b := memGetList 0 cells (page * 0x800) 2048
  if wrong = [] then b else (List.range 2048).map (fun i =>
    wrong.foldl (fun b i' => if bitByte i' = i then b ^^^ (1#8 <<< (i' % 8)) else b) (b.getD i 0))

/-- A page as recovery reads it: corrected where the codes can, with the errors logged and counted; the last page of an epoch by the
inner code alone (R374, R380, R404). -/
def recoverPage (s : State) (ends : List Nat) (page : Nat) : List Byte × State :=
  let e := s.pageErr page
  if ends.contains page then (rawPage s page (outerBits e), logInner s page e)
  else
    let v := readPage s page none
    (rawPage s page (if v.1.ok then v.1.wrong else leftWrong s page e), v.2)

/-- The records of a page from an offset: committed ones, and how many did not pass; `bad` says that the search
is inside one that did not. -/
def scanPage (page epoch : Nat) (bytes : List Byte) : Nat → Nat → Bool → List JRec × Nat
  | 0, _, _ => ([], 0)
  | fuel + 1, off, bad =>
    if 2048 < off + 24 then ([], 0)
    else
      match parseRec page bytes epoch off with
      | some r =>
        let t := scanPage page epoch bytes fuel (off + r.size) false
        (r :: t.1, t.2)
      | none =>
        if (bytes.drop off).all (· == 0) then ([], 0)
        else
          let t := scanPage page epoch bytes fuel (off + 8) true
          (t.1, if bad then t.2 else t.2 + 1)

/-- The epoch and the index of a segment by its first record, as its page is read (R403 step 1). -/
def segEpoch (s : State) (j : Nat) : Option (Nat × Nat) :=
  let page := segPage j
  let bytes := rawPage s page (leftWrong s page (s.pageErr page))
  let ep := le bytes 16 4
  match parseRec page bytes ep 0 with
  | some r => if r.typ = tSeghdr then some (ep, r.key) else none
  | none => none

/-- What replay of an epoch has found. -/
structure Replay where
  recs : List JRec
  lost : Nat                   -- records that did not pass, in the pages before the last
  held : Nat                   -- those of the last page so far
  skip : List Nat
  last : Option Nat            -- last page with a committed record
  ended : Bool
  st   : State

/-- The pages that a bitmap names. -/
def bitmapPages (r : JRec) : List Nat :=
  let j := le r.data 4 4
  (List.range 1024).filterMap (fun i =>
    if bitAt (le r.data (16 + i / 8) 1) (i % 8) then some (segPage j + i) else none)

/-- Replay one page (R403 step 3, R404). -/
def replayPage (epoch : Nat) (ends : List Nat) (a : Replay) (page : Nat) : Replay :=
  if a.ended ∨ a.skip.contains page then a
  else
    let rp := recoverPage a.st ends page
    let sc := scanPage page epoch rp.1 257 0 false
    if sc.1 = [] then { a with ended := true, st := rp.2 }
    else
      let more := sc.1.flatMap (fun r =>
        if r.typ = tSeghdr then bitmapPages r else if r.typ = tLees then [r.key] else [])
      { a with recs := a.recs ++ sc.1, lost := a.lost + a.held, held := sc.2, skip := a.skip ++ more, last := some page, st := rp.2 }

/-- Segments of an epoch in index order, as far as the indices run on. -/
def chain (l : List (Nat × Nat × Nat)) (epoch : Nat) : Nat → Nat → List Nat
  | 0, _ => []
  | fuel + 1, idx =>
    match l.find? (fun x => x.2.1 == epoch && x.2.2 == idx) with
    | some x => x.1 :: chain l epoch fuel (idx + 1)
    | none => []

def replayEpoch (s : State) (ends : List Nat) (epoch : Nat) (segs : List Nat) : Replay :=
  (segs.flatMap (fun j => (List.range 1024).map (fun i => segPage j + i))).foldl (replayPage epoch ends)
    ⟨[], 0, 0, [], none, false, s⟩

/-- The pages that tell whether an epoch is valid: those of its segment 0 as far as the SEAL (R403 step 2). -/
def replaySeal (s : State) (ends : List Nat) (epoch j : Nat) : Replay :=
  ((List.range 1024).map (fun i => segPage j + i)).foldl
    (fun a p => if a.recs.any (fun r => r.typ == tSeal) then a else replayPage epoch ends a p) ⟨[], 0, 0, [], none, false, s⟩

/-- The check of each record, as the digest of a SEAL runs over them. -/
def hcrcBytes (epoch : Nat) (rs : List JRec) : List Byte :=
  rs.flatMap (fun r => leBytes 4 (hcrc epoch r.typ r.key r.gen r.data).toNat)

/-- A SEAL closes the records that racking copied (R403 step 2). -/
def sealed (epoch : Nat) (recs : List JRec) : Bool :=
  match recs with
  | [] => false
  | _ :: rest =>
    let copied := rest.takeWhile (fun r => r.typ != tSeal)
    match (rest.drop copied.length).head? with
    | some r => le r.data 0 4 == epoch && le r.data 8 4 == (crc32c (hcrcBytes epoch copied)).toNat
    | none => false

/-- Start a new epoch in segment 0 (R406). -/
def freshJournal (s : State) (epoch lost : Nat) : State :=
  let s := { s with cask := { s.cask with recs := [], segs := [], lees := [], wpage := segPage 0, woff := 0, evNo := 0 } }
  let s := openSeg (s.rput R.CSK_EPOCH (BitVec.ofNat 32 epoch)) 0
  let s := writeRec s s.cask.wpage s.cask.woff tSeal 0 0
    (leBytes 4 epoch ++ leBytes 4 0 ++ leBytes 4 (crc32c []).toNat ++ leBytes 4 0)
  s.faddSat F.CSK_LOST_rec lost

/-- The last page before the end, by the inner code alone: rewritten with only its committed records, which the
search finds again; what is discarded is counted, a remainder too short for a record as one (R403 step 4, R404). -/
def trimLast (s : State) (epoch page : Nat) : List JRec × Nat × State :=
  let bytes := rawPage s page (outerBits (s.pageErr page))
  let sc := scanPage page epoch bytes 257 0 false
  let fin : Nat := sc.1.foldl (fun n r => max n (r.off + r.size)) 0
  let rest : Nat := if decide (2048 < fin + 24) && !(bytes.drop fin).all (· == 0) then 1 else 0
  let clean : List Byte := sc.1.foldl (fun b r =>
      b ++ List.replicate (r.off - b.length) 0 ++ (bytes.drop r.off).take r.size) []
  (sc.1, sc.2 + rest, putJournal s page 0 clean)

/-- Take the winning epoch over (R403 steps 3 and 4). -/
def adoptEpoch (epoch : Nat) (segs : List Nat) (a : Replay) : State :=
  match a.last with
  | none => a.st
  | some page =>
    let t := trimLast a.st epoch page
    let recs : List JRec := a.recs.filter (fun r => r.page != page) ++ t.1
    let fin := t.1.foldl (fun n r => max n (r.off + r.size)) 0
    let used := segs.filter (fun j => recs.any (fun r => (r.page - 2048) / 1024 == j))
    let s : State := { t.2.2 with cask := { t.2.2.cask with
      recs := recs
      segs := used
      wpage := page
      woff := fin
      lees := (liveLees recs).map (fun r => r.key)
      evNo := recs.foldl (fun (n : Nat) (r : JRec) => if r.typ = tEvent then max n r.gen else n) 0 } }
    ((s.rput R.CSK_EPOCH (BitVec.ofNat 32 epoch)).faddSat F.CSK_LOST_rec a.lost).fput F.CSK_LOST_torn t.2.1

/-- The copies of the live ACCEPT pair agree over type, length, generation and payload (R414). -/
def pairAgrees (recs : List JRec) : Bool :=
  match livePair recs with
  | some p => p.1.gen == p.2.gen && p.1.data == p.2.data
  | none => true

/-- The key of the boot number (R398). -/
def bootKey : Nat := 0xFFFFFFFF

/-- Rewrite the boot number and report the journal recovered (R398, R403 step 5). -/
def bootRecord (s : State) : State :=
  let old := match newestOf s.cask.recs tParam bootKey with
    | some r => le r.data 0 4
    | none => 0
  let s := s.rput R.CSK_BOOT (BitVec.ofNat 32 (old + 1))
  let s : State := match appendWhole s tParam bootKey (newestGen s.cask.recs tParam bootKey + 1) (leBytes 4 (old + 1)) with
    | some t => t
    | none => s
  showAcc (showCal (showPages (s.fput F.CSK_STAT_rdy 1)))

/-- Recovery of the journal at start-up (R403 to R406, R414); false where the copies of the pair differ. Each step reads its pages from
the array, so that a correction is logged each time that a page which the cache does not hold is read (DESIGN CHOICE, log 52). -/
def recoverJournal (s : State) : Bool × State :=
  let found : List (Nat × Nat × Nat) :=
    (List.range 6).filterMap (fun j => (segEpoch s j).map (fun x => (j, x.1, x.2)))
  let segsOf (x : Nat × Nat × Nat) : List Nat := x.1 :: chain found x.2.1 5 1
  let heads := found.filter (fun x => x.2.2 == 0)
  let ends := heads.filterMap (fun x => (replayEpoch s [] x.2.1 (segsOf x)).last)
  let s := (List.range 6).foldl (fun (s : State) j => (recoverPage s ends (segPage j)).2) s
  let tried := heads.foldl (fun (acc : List (Nat × Nat × Nat) × State) x =>
    let a := replaySeal acc.2 ends x.2.1 x.1
    (if sealed x.2.1 a.recs then acc.1 ++ [x] else acc.1, a.st)) ([], s)
  match tried.1.foldl (fun best x => match best with
      | none => some x
      | some b => if b.2.1 < x.2.1 then some x else best) (none : Option (Nat × Nat × Nat)) with
  | some w =>
    let s := bootRecord (adoptEpoch w.2.1 (segsOf w) (replayEpoch tried.2 ends w.2.1 (segsOf w)))
    (pairAgrees s.cask.recs, s)
  | none =>
    let top := found.foldl (fun n x => max n x.2.1) 0
    let r := found.foldl (fun (acc : Nat × State) x =>
      let a := replayEpoch acc.2 ends x.2.1 [x.1]
      (acc.1 + a.recs.length, a.st)) (0, tried.2)
    (true, bootRecord (freshJournal r.2 (top + 1) r.1))

/-! ### Racking ends (R407) -/

/-- What racking has read: the records that it found whole, those that it did not, and the state. -/
structure RackReads where
  whole : List JRec
  lost  : List JRec
  st    : State

/-- Racking reads a record from its page; one that damage has made uncorrectable fails its check and is lost (R405, R422). -/
def rackRead (a : RackReads) (r : JRec) : RackReads :=
  let p := recoverPage a.st [] r.page
  if parseRec r.page p.1 a.st.epoch r.off = some r then { a with whole := a.whole ++ [r], st := p.2 }
  else { a with lost := a.lost ++ [r], st := p.2.faddSat F.CSK_LOST_rec 1 }

/-- The live records, without those that could not be read: a record that fails its check is not committed, so that an older one of its
kind is live in its place (R397, R404, R414). -/
def liveWithout (s : State) (lost : List JRec) : List JRec :=
  liveAll { s with cask := { s.cask with recs := s.cask.recs.filter (fun r => !lost.contains r) } }

/-- Racking reads the live records that it has not read, until no loss brings another one up. -/
def rackReads : Nat → RackReads → RackReads
  | 0, a => a
  | n + 1, a =>
    match (liveWithout a.st a.lost).filter (fun r => !a.whole.contains r) with
    | [] => a
    | todo => rackReads n (todo.foldl rackRead a)

/-- The live records that racking copies, as it has read them (R407). -/
def readLive (s : State) : List JRec × State :=
  let a := rackReads (s.cask.recs.length + 2) ⟨[], [], s⟩
  ((liveWithout s a.lost).filter a.whole.contains, a.st)

/-- The payload of a record as it is read from its page: none where the page cannot be read. -/
def readPayload (s : State) (r : JRec) : Option (List Byte) × State :=
  let v := readPage s r.page none
  (if v.1.ok then some (slice (rawPage v.2 r.page v.1.wrong) (r.off + 16) r.data.length) else none, v.2)

/-- Copy the live records into the segment of racking, commit the SEAL and take the new epoch. A first page that has been retired
since racking began is not written again (R411). -/
def finishRack (s : State) (k : Rack) : State :=
  let e := s.epoch + 1
  let read := readLive s
  let live := read.1
  let s := read.2
  let hdr : JRec := ⟨segPage k.seg, 0, tSeghdr, 0, 0, slice (rawPage s (segPage k.seg) []) 16 144⟩
  let sealData := leBytes 4 e ++ leBytes 4 live.length ++ leBytes 4 (crc32c (hcrcBytes e live)).toNat ++ leBytes 4 0
  let todo := live ++ [⟨0, 0, tSeal, 0, 0, sealData⟩]
  let begin_ := if s.cask.lees.contains (segPage k.seg) then 0 else hdr.size
  match layoutAt (usableOf s.cask.lees k.seg) begin_ (todo.map JRec.size) with
  | none => (({ s with cask := { s.cask with rack := none } }).fput F.CSK_STAT_rack 0).fput F.CSK_STAT_full 1
  | some places =>
    let recs := (todo.zip places).map (fun (x : JRec × (Nat × Nat)) => { x.1 with page := x.2.1, off := x.2.2 })
    let s := recs.foldl (fun s r => putJournal s r.page r.off
      (recBody e r.typ r.key r.gen r.data ++ recMark e r.typ r.key r.gen r.data)) s
    let fin := recs.getLast?.getD hdr
    let s := { s with cask := { s.cask with
      recs := hdr :: recs
      segs := [k.seg]
      wpage := fin.page
      woff := fin.off + fin.size
      rack := none
      norack := false } }
    let s := (s.rput R.CSK_EPOCH (BitVec.ofNat 32 e)).rput R.CSK_RTIME (BitVec.ofNat 32 (s.now - k.since))
    showAcc (showCal (showPages (((s.fput F.CSK_STAT_rack 0).fput F.CSK_STAT_full 0).fput F.CSK_EV_rdone 1)))

/-! ### The event queue -/

/-- Take the head of the queue away once its record has committed. -/
def dropEvent (s : State) : State :=
  let s := { s with
    cask := { s.cask with
      queue := s.cask.queue.tail
      job := s.cask.job.map (fun (j : Job) => { j with ahead := j.ahead - 1 }) }
    boot := { s.boot with rstEvent := s.boot.rstEvent - 1 } }
  s.fput F.CSK_EVQ_depth s.cask.queue.length

/-- Append every entry of the queue; one that finds no place is lost. -/
def drainQueue : Nat → State → State
  | 0, s => s
  | n + 1, s =>
    match s.cask.queue with
    | [] => s
    | e :: _ =>
      match appendEvent s e with
      | some t => drainQueue n (dropEvent t)
      | none => drainQueue n (loseEvent (dropEvent s))

/-- A command append is being written, or next to be. -/
def jobBusy (s : State) : Bool :=
  match s.cask.job with
  | some j => j.ahead == 0
  | none => false

/-! ### Commands -/

/-- APPEND_COMMIT (R401). -/
def execAppendCommit (s : State) : Out := .next (startJob (commitJob s))

/-- EVENT_QUEUE_POST (R402): a block posts an entry. -/
def execEventQueuePost (source code : Byte) (detail : BitVec 16) (data : List Byte) (s : State) : Out :=
  if s.mode = .reset then .next s
  else .next (post s ⟨source.toNat, code.toNat, detail.toNat, s.now, data.take 52, []⟩)

/-- EVENT_APPEND (R401, R402): the oldest entry, unless a command append that arrived before it is in progress. -/
def execEventAppend (s : State) : Out :=
  if caskWrites s ∧ ¬ jobBusy s then
    match s.cask.queue with
    | [] => .next s
    | e :: _ =>
      match appendEvent s e with
      | some t => .next (startJob (dropEvent t))
      | none => .next ((s.fput F.CSK_EV_full 1).fput F.CSK_STAT_full 1)
  else .next s

/-- RACKING_TRIGGER (R407, R408). -/
def execRackingTrigger (s : State) : Out :=
  if caskWrites s ∧ s.cask.rack.isNone ∧ fillReached s then .next (startRack s).2 else .next s

/-- RACKING_SEAL (R407): no append of epoch e is under way. -/
def execRackingSeal (s : State) : Out :=
  match s.cask.rack with
  | none => .next s
  | some k => if caskWrites s ∧ ¬ jobBusy s then .next (finishRack s k) else .next s

/-- The payload of an ACCEPT record (R396). -/
def acceptPayload (s : State) (v : Vint) : List Byte :=
  leBytes 4 (s.fget F.CSK_BOOT_boot) ++ leBytes 2 v.fp ++ leBytes 1 v.slot ++ [0] ++ v.hash
    ++ leBytes 2 v.rlevel ++ List.replicate 6 0

/-- ACCEPT_PAIR_APPEND (R413): the running vintage's H differs from the live pair's, or there is none. -/
def execAcceptPairAppend (s : State) : Out :=
  match s.vint with
  | none => .next s
  | some v =>
    let known : Bool := match livePair s.cask.recs with
      | some p => slice p.1.data 8 32 == v.hash
      | none => false
    if s.mode = .run ∧ caskWrites s ∧ ¬ jobBusy s ∧ ¬ known then
      let gen := max (newestGen s.cask.recs tAccept 0) (newestGen s.cask.recs tAccept 1) + 1
      let d := acceptPayload s v
      match appendWhole s tAccept 0 gen d with
      | none => .next s
      | some s =>
        match allocateFresh s (recSize d.length) with
        | none => .next s
        | some (p, off, s) => .next (showAcc ((writeRec s p off tAccept 1 gen d).fput F.CSK_ACC_new 1))
    else .next s

/-- The closing work of the power-fail warning (R409); a command append that has not begun waits. -/
def pfwClose (s : State) : State :=
  let s := commitJob s
  let s : State := match appendEvent s ⟨0x0B, 0x01, 0, s.now, [], []⟩ with
    | some t => t
    | none => loseEvent s
  let s := drainQueue 64 s
  ({ s with cask := { s.cask with rack := none } }).fput F.CSK_STAT_rack 0

/-- POWER_FAIL_WARNING (R409): VL24 falls below 17 V. A fall while the warning is in force starts its time at 18 V anew. -/
def execPowerFailWarning (mv : Int) (s : State) : Out :=
  if mv < point 48 0 17000 300 ∧ s.mode ≠ .reset then
    let s := { s with pins := { s.pins with vl24 := mv, pfwClear := 0, charging := false } }
    if s.flag F.CSK_STAT_pfw then .next s
    else
      let s := if s.flag F.CSK_STAT_rdy then pfwClose s else s
      .next ((s.fput F.CSK_STAT_pfw 1).fput F.CSK_EV_pfw 1)
  else .next s

/-- POWER_FAIL_WARNING_CLEAR (R409). -/
def execPowerFailWarningClear (s : State) : Out :=
  if s.flag F.CSK_STAT_pfw ∧ 10000 ≤ s.pins.pfwClear then
    .next (startJob (s.fput F.CSK_STAT_pfw 0))
  else .next s

end Sys2Proof.Machine
end

