-- ==== Sys2Proof/Machine/Tandem.lean ====
section
/-! DEFINITION. The Tandem pair (R340 to R364): split and merge, the lockstep checker, the diagnostic deadline,
the machine timer interrupt, and debug. -/

namespace Sys2Proof.Machine

def State.setTnd (s : State) (t : Tandem) : State := { s with tnd := t }

/-- TND_STAT.mode (R363). -/
def State.tmode (s : State) : Nat := s.fget F.TND_STAT_mode

/-! ### CSR numbers (PRESUMED: the RISC-V privileged and debug specifications that R340 and R357 name; log 31) -/

def csrMstatus : Nat := 0x300
def csrMisa : Nat := 0x301
def csrMie : Nat := 0x304
def csrMtvec : Nat := 0x305
def csrMepc : Nat := 0x341
def csrMcause : Nat := 0x342
def csrMtval : Nat := 0x343
def csrMip : Nat := 0x344
def csrTselect : Nat := 0x7A0
def csrTdata1 : Nat := 0x7A1
def csrTdata2 : Nat := 0x7A2
def csrTinfo : Nat := 0x7A4
def csrDcsr : Nat := 0x7B0
def csrDpc : Nat := 0x7B1
def csrMcycle : Nat := 0xB00
def csrMinstret : Nat := 0xB02
def csrMcycleh : Nat := 0xB80
def csrMinstreth : Nat := 0xB82
def csrMhartid : Nat := 0xF14

def Core.csrOf (c : Core) (r : Nat) : Word := c.csr.get 0 r

/-- A CSR of a core with a field set. -/
def Core.csrPut (c : Core) (r hi lo v : Nat) : Core :=
  { c with csr := c.csr.set r (BitVec.ofNat 32 (putBits (c.csrOf r).toNat hi lo v)) }

/-- A CSR of a core with one bit set or cleared. -/
def Core.csrBit (c : Core) (r i : Nat) (b : Bool) : Core := c.csrPut r i i (if b then 1 else 0)

/-! ### The cores -/

/-- A core at work in a microtick: 400 clocks, and the instructions that it retires (R340). -/
def Core.work (c : Core) (n : BitVec 64) : Core := { c with cyc := c.cyc + 400, ret := c.ret + n }

/-- The counters of both cores in a microtick. How many instructions a running core retires is its program's: a free value,
the same for both in lockstep (log 31). -/
def countCores (s : State) : State :=
  let d := s.draw
  let e := if s.inLockstep then d else d.2.draw
  let t := s.tnd
  e.2.setTnd { t with
    main := t.main.work (if t.halted then 0 else d.1)
    chk := t.chk.work (if t.haltC then 0 else e.1) }

/-- A core takes a trap in machine mode: an exception goes to the base of mtvec, an interrupt to its vector where mtvec says so
(PRESUMED, log 31). -/
def Core.trap (c : Core) (cause tval epc : Word) : Core :=
  let mie := (c.csrOf csrMstatus).getLsbD 3
  let tv := c.csrOf csrMtvec
  let base := tv &&& 0xFFFFFFFC
  let c := ((c.csrBit csrMstatus 7 mie).csrBit csrMstatus 3 false).csrPut csrMstatus 12 11 3
  { c with
    csr := ((c.csr.set csrMepc (epc &&& 0xFFFFFFFE)).set csrMcause cause).set csrMtval tval
    pc := if tv.getLsbD 0 && cause.msb then base + 4 * (cause &&& 0x7FFFFFFF) else base }

/-- The access faults of R493 by their mcause code. -/
def faultFetch : Word := 1
def faultLoad : Word := 5
def faultStore : Word := 7

/-- The core that made a refused access, or met an uncorrectable error, takes an access fault; in lockstep the other takes it
two clocks later (R344, R380, R493). The faulting instruction's address is the program's: a free value (log 31). The host and
the debugger take none. -/
def accessFault (s : State) (req : Requester) (cause addr : Word) : State :=
  let d := s.draw
  let epc := d.1.setWidth 32
  let t := s.tnd
  match req with
  | .host => s
  | .debugger => s
  | .checker => if s.inLockstep then s else d.2.setTnd { t with chk := t.chk.trap cause addr epc }
  | _ => d.2.setTnd { t with
      main := t.main.trap cause addr epc
      chk := if s.inLockstep then t.chk.trap cause addr epc else t.chk }

/-- A core meets an uncorrectable error in its own TCM: it alone takes the fault (R380). -/
def tcmFault (s : State) (chk : Bool) (cause addr : Word) : State :=
  let d := s.draw
  let epc := d.1.setWidth 32
  let t := s.tnd
  d.2.setTnd (if chk then { t with chk := t.chk.trap cause addr epc } else { t with main := t.main.trap cause addr epc })

/-! ### Split (R348 to R351) -/

/-- A write to TND_SPLIT, already in range: `none` where R348 refuses the request; without `go` it sets the
budget alone. -/
def splitWrite (s : State) (req : Requester) (w : Word) : Option State :=
  let bud := w.toNat % 256
  if w.toNat / 2 ^ 31 = 1 then
    if s.mode ≠ .run ∨ s.tmode ≠ 0 ∨ s.flag F.TND_STAT_spend ∨ s.tnd.dmact ∨ isHost req then none
    else
      let s := (s.fput F.TND_SPLIT_bud bud).fput F.TND_STAT_spend 1
      some (s.setTnd { s.tnd with reqAt := s.now, budget := bud })
  else some (s.fput F.TND_SPLIT_bud bud)

/-- The checker core at its entry: the main core's registers and CSRs, interrupts off, hart 1 (R350). -/
def splitCore (s : State) : Core :=
  let c := s.tnd.main
  let c := { c.csrBit csrMstatus 3 false with pc := s.rget R.TND_SENT }
  { c with csr := c.csr.set csrMhartid 1 }

/-- SPLIT_POINT (R349, R350, R355): the first `wfi` after the request; a difference in the same clock is a
lockstep mismatch and there is no split. -/
def execSplitPoint (differ : Bool) (s : State) : Out :=
  if s.mode = .reset ∨ s.tnd.halted ∨ s.tmode ≠ 0 ∨ ¬ s.flag F.TND_STAT_spend ∨ s.tnd.reqAt + 1000 ≤ s.now then .next s
  else if differ then
    let d := s.draw
    .next (lockMismatch (d.2.fput F.TND_STAT_spend 0) 0x30 (d.1.toNat % 6))
  else
    let s := ((s.fput F.TND_STAT_spend 0).fput F.TND_STAT_mode 1).fput F.SYS_STATE_split 1
    let s := ((s.rput R.TND_STIME s.stamp).fincSat F.TND_SCNT_splits).fput F.TND_EV_sdone 1
    .next (s.setTnd { s.tnd with chk := splitCore s, splitAt := s.now, warned := false, expired := false, mlate := false })

/-- SPLIT_REQUEST_LAPSE (R349). -/
def execSplitRequestLapse (s : State) : Out :=
  if s.mode ≠ .reset ∧ s.flag F.TND_STAT_spend ∧ s.tnd.reqAt + 1000 ≤ s.now then
    .next ((s.fput F.TND_STAT_spend 0).fput F.TND_EV_sto 1)
  else .next s

/-- Split or merging, with the budget window not yet closed. -/
def budgetRuns (s : State) : Bool := s.isSplit && !s.tnd.expired

/-- End of the budget window (R350). -/
def budgetEnd (s : State) : Nat := s.tnd.splitAt + s.tnd.budget * 1000

/-- SPLIT_BUDGET_WARNING (R354). -/
def execSplitBudgetWarning (s : State) : Out :=
  if budgetRuns s ∧ ¬ s.tnd.warned ∧ s.tnd.splitAt + 3 * (s.tnd.budget * 1000) / 4 ≤ s.now then
    .next ((s.setTnd { s.tnd with warned := true }).fput F.TND_EV_bwarn 1)
  else .next s

/-- The budget window closes before the merge is complete (R354). -/
def expireBudget (s : State) : State :=
  deviceFault (s.setTnd { s.tnd with expired := true }) 0x31

/-- SPLIT_BUDGET_EXPIRED (R354, R355). -/
def execSplitBudgetExpired (s : State) : Out :=
  if budgetRuns s ∧ budgetEnd s ≤ s.now then .next (expireBudget s) else .next s

/-! ### Merge (R352 to R355) -/

/-- A write to TND_MERGE: a request from the main core while split; any other is refused (R352). -/
def mergeWrite (s : State) (req : Requester) (w : Word) : Option State :=
  if w.toNat / 2 ^ 31 = 1 then
    if req = .pair ∧ s.tmode = 1 then some (s.fput F.TND_STAT_mpend 1) else none
  else some s

/-- MERGE_POINT (R352): the checker core stops, the main core's TCM is mirrored and its state copied. -/
def execMergePoint (s : State) : Out :=
  if s.tmode = 1 ∧ s.flag F.TND_STAT_mpend ∧ ¬ s.tnd.halted then
    let s := (s.fput F.TND_STAT_mpend 0).fput F.TND_STAT_mode 2
    let c := s.tnd.main
    let s := s.setTnd { s.tnd with mergeAt := s.now, chk := { c with csr := c.csr.set csrMhartid 0 } }
    .next (noteRange (s.setRam mTcmC s.memc.tcmM) mTcmC tcmBase (tcmBase + 0x40000))
  else .next s

/-- The code of TND_LSE.cls (R363). -/
def lockCode : LockDiff → Nat
  | .fetch => 0
  | .dataAddr => 1
  | .writeData => 2
  | .access => 3
  | .tcm => 4
  | .irqDebug => 5
  | .mirror => 6

/-- The debugger works on the checker core: hart 1, which TWIN alone exposes (R357). -/
def selChk (s : State) : Bool := s.tmode == 3 && s.tnd.hart

/-- The hart that the debugger works on is halted. -/
def selHalted (s : State) : Bool := if selChk s then s.tnd.haltC else s.tnd.halted

/-- The core of the hart that the debugger works on (R357). -/
def selCore (s : State) : Core := if selChk s then s.tnd.chk else s.tnd.main

/-- What changes a hart: both cores in lockstep, else the checker core or the main core. -/
def onHart (s : State) (chk : Bool) (f : Core → Core) : State :=
  let t := s.tnd
  if s.inLockstep then s.setTnd { t with main := f t.main, chk := f t.chk }
  else if chk then s.setTnd { t with chk := f t.chk }
  else s.setTnd { t with main := f t.main }

/-- A debugger action on the cores: both in lockstep, the selected hart in TWIN (R357, R358). -/
def onCores (s : State) (f : Core → Core) : State := onHart s (selChk s) f

/-- A hart halts: dcsr.cause says why, and the deadline holds its count while the main core is halted (R356, R358). -/
def haltHart (s : State) (chk : Bool) (cause : Nat) : State :=
  let s := onHart s chk (fun (c : Core) => c.csrPut csrDcsr 8 6 cause)
  let t := s.tnd
  if chk && !s.inLockstep then s.setTnd { t with haltC := true, haltReq := false }
  else s.setTnd { t with halted := true, haltC := t.haltC || s.inLockstep, haltReq := false, ddlLeft := t.ddlEnd - s.now }

/-- Take a halt that the debugger has asked for (R358). -/
def takeHalt (s : State) : State := haltHart s (selChk s) 3

/-- A merge that has not completed 1 ms after its merge point (R353). -/
def mergeLate (s : State) : State :=
  if s.tmode = 2 ∧ ¬ s.tnd.mlate ∧ s.tnd.mergeAt + 1000 ≤ s.now then
    deviceFault (s.setTnd { s.tnd with mlate := true }) 0x34
  else s

/-- MERGE_COMPLETE (R353 to R355): the checker re-arms, or reports a mirror or compare difference. -/
def execMergeComplete (diff : Option LockDiff) (s : State) : Out :=
  if s.tmode ≠ 2 then .next s
  else
    match diff with
    | some d => .next (lockMismatch s 0x34 (lockCode d))
    | none =>
      let s := if budgetRuns s ∧ budgetEnd s ≤ s.now then expireBudget s else s
      let s := mergeLate s
      let dur := s.now - s.tnd.splitAt
      let s := ((s.fput F.TND_STAT_mode 0).fput F.SYS_STATE_split 0).fput F.TND_EV_mdone 1
      let s := ((s.rput R.TND_SDUR (BitVec.ofNat 32 dur)).fpeak F.TND_SMAX_max dur).fincSat F.TND_SCNT_merges
      .next (if s.tnd.haltReq then takeHalt s else s)

/-- MERGE_TIMEOUT (R353). -/
def execMergeTimeout (s : State) : Out := .next (mergeLate s)

/-- LOCKSTEP_MISMATCH (R342): the checker compares in lockstep alone (R347, R350); a mirror difference exists in a
merge alone. -/
def execLockstepMismatch (cls : LockDiff) (s : State) : Out :=
  if s.mode = .reset ∨ s.tmode ≠ 0 ∨ cls = .mirror then .next s
  else .next (lockMismatch s 0x30 (lockCode cls))

/-! ### The diagnostic deadline (R356) -/

/-- The span of the deadline in force, in microticks. -/
def ddlSpan (s : State) : Nat := s.fget F.TND_DDL_ms * 1000

/-- Start the deadline's count from now; its count is held while the pair is halted. -/
def restartDdl (s : State) : State :=
  s.setTnd { s.tnd with ddlEnd := s.now + ddlSpan s, ddlLeft := ddlSpan s }

/-- Arm the deadline on entry to RUN. -/
def armDdl (s : State) : State :=
  let s := restartDdl (s.fput F.TND_STAT_ddlarm 1)
  s.setTnd { s.tnd with kickA5 := true }

/-- A write to TND_KICK (R356). -/
def kickWrite (s : State) (w : Word) : State :=
  if ¬ s.flag F.TND_STAT_ddlarm then s
  else if w.toNat % 256 = (if s.tnd.kickA5 then 0xA5 else 0x5A) then
    let s := restartDdl s
    s.setTnd { s.tnd with kickA5 := !s.tnd.kickA5 }
  else s.fput F.TND_EV_kbad 1

/-- Time left before the deadline (TND_DDLR). -/
def ddlRem (s : State) : Nat :=
  if ¬ s.flag F.TND_STAT_ddlarm then 0
  else if s.tnd.halted then s.tnd.ddlLeft
  else s.tnd.ddlEnd - s.now

/-- The deadline has run out: it is armed in RUN alone, and one that ends in the microtick of an entry to SAFE falls together with its
cause (R222). -/
def ddlOut (s : State) : Bool :=
  !s.tnd.halted && match s.mode with
    | .run => s.flag F.TND_STAT_ddlarm && decide (s.tnd.ddlEnd ≤ s.now)
    | .safe => s.safeFrom == s.now && s.tnd.ddlEnd == s.now
    | _ => false

/-- DIAGNOSTIC_DEADLINE (R356). -/
def execDiagnosticDeadline (s : State) : Out :=
  if ddlOut s then
    let s := deviceFault s 0x32
    .next (s.setTnd { s.tnd with ddlEnd := 0 })
  else .next s

/-! ### Interrupt lines (R345) -/

/-- An event register with its enable register. -/
def evLine (s : State) (ev en : Nat) : Bool := s.rget ev &&& s.rget en != 0

/-- Enabled events of a session (SES_PEND). -/
def sesPend (s : State) (i : Nat) : Bool := evLine s (R.SES_EV i) R.SES_IEN

/-- A line of R345 by its events and enables (R496). -/
def irqLine (s : State) (i : Nat) : Bool :=
  match i with
  | 0 => evLine s R.SYS_EV R.SYS_EVEN
  | 1 => evLine s R.SEAL_EV R.SEAL_EVEN
  | 2 => allChans.any (fun n => s.rget (R.CHN_FAULT n) != 0
      && (if n < 32 then (s.rget R.CHN_IENLO).getLsbD n else (s.rget R.CHN_IENHI).getLsbD (n - 32)))
  | 3 => (List.range 6).any (fun g => s.rget (R.FSG_FLT g) != 0 && (s.rget R.FSG_IEN).getLsbD g)
      || (s.flag F.FSG_MFLT_ev && s.flag F.FSG_IEN_mod)
  | 4 => s.flag F.PRS_SSTAT_lostev && s.flag F.PRS_IEN_lost
  | 5 => s.fget F.CMP_STAT_cause != 0 && s.flag F.CMP_IEN_cause
  | 6 => allSessions.any (sesPend s)
  | 7 => evLine s R.NET_EV R.NET_EVEN
  | 8 => evLine s R.MST_EV R.MST_EVEN
  | 9 => evLine s R.TND_EV R.TND_EVEN
  | 10 => evLine s R.EDC_EV R.EDC_EVEN
  | 11 => evLine s R.CSK_EV R.CSK_EVEN
  | 12 => evLine s R.OTP_EV R.OTP_EVEN
  | 13 => evLine s R.BST_EV R.BST_EVEN
  | _ => false

/-- TND_IPEND (R345). -/
def ipend (s : State) : Nat := (List.range 14).foldl (fun v i => if irqLine s i then v + 2 ^ i else v) 0

/-! ### Interrupts of the cores (R346) -/

/-- The compare value. -/
def mtcmp (s : State) : Nat := (s.rget R.TND_MTCMPH).toNat * 2 ^ 32 + (s.rget R.TND_MTCMPL).toNat

/-- Whether the machine timer interrupt is pending. -/
def timerPending (s : State) : Bool := mtcmp s ≤ s.now

/-- mip of a core that takes interrupts (R345, R346). -/
def mipWord (s : State) : Word :=
  BitVec.ofNat 32 ((if s.flag F.TND_MSIP_msip then 8 else 0) + (if timerPending s then 128 else 0)
    + (if (ipend s &&& s.fget F.TND_IEN_en) != 0 then 2048 else 0))

/-- Show the timer interrupt in mip.MTIP of the cores that take interrupts: while split only the main core does. -/
def showTimer (s : State) : State :=
  let p := timerPending s
  let t := s.tnd
  s.setTnd { t with
    main := t.main.csrBit csrMip 7 p
    chk := if s.tmode = 1 then t.chk else t.chk.csrBit csrMip 7 p }

/-- A core that runs takes the interrupt of those pending that its mstatus and mie enable: external before software before timer
(PRESUMED, log 31). -/
def Core.takeIrq (c : Core) (halted : Bool) (pend epc : Word) : Core :=
  let p := pend &&& c.csrOf csrMie
  if halted || !(c.csrOf csrMstatus).getLsbD 3 then c
  else if p.getLsbD 11 then c.trap 0x8000000B 0 epc
  else if p.getLsbD 3 then c.trap 0x80000003 0 epc
  else if p.getLsbD 7 then c.trap 0x80000007 0 epc
  else c

/-- The cores take interrupts: both in lockstep and in TWIN, while split the main core alone (R346). The address at which the program
is interrupted is the program's: a free value (log 31). -/
def takeInterrupts (s : State) (pend : Word) : State :=
  let d := s.draw
  let t := d.2.tnd
  let epc := d.1.setWidth 32
  d.2.setTnd { t with
    main := t.main.takeIrq t.halted pend epc
    chk := if s.tmode = 1 then t.chk else t.chk.takeIrq t.haltC pend epc }

/-- MACHINE_TIMER_INTERRUPT (R346): the timer interrupt becomes pending; an external or a software interrupt that waits comes before
it. -/
def execMachineTimerInterrupt (s : State) : Out :=
  if s.mode ≠ .reset ∧ timerPending s then .next (takeInterrupts (showTimer s) (mipWord s)) else .next s

/-- Some core that runs has its interrupts enabled. -/
def irqsOpen (s : State) : Bool :=
  let on (c : Core) (halted : Bool) : Bool := !halted && (c.csrOf csrMstatus).getLsbD 3
  on s.tnd.main s.tnd.halted || on s.tnd.chk s.tnd.haltC

/-- In each microtick the cores take the external and the software interrupts that wait: R346 gives these no command of their own
(DESIGN CHOICE, log 52). -/
def coreInterrupts (s : State) : State := if irqsOpen s then takeInterrupts s (mipWord s &&& 0x808) else s

/-! ### Debug (R357 to R361) -/

/-- A safety output is energised: a request is 1 in the last downlink frame of a safety-output channel (R359). -/
def energised (s : State) : Bool := allChans.any (fun n => s.chMode n == 4 && (s.chan n).lastReq)

/-- The debug module may be activated (R359). -/
def debugPermit (s : State) : Bool :=
  s.mode != .reset && !(s.otp.shadow.pol.getLsbD 0) && s.sw1 && !(energised s)

/-- Resume the main core, in lockstep both: the deadline runs on (R356). -/
def resumeCores (s : State) : State :=
  let t := s.tnd
  s.setTnd { t with halted := false, haltC := t.haltC && !s.inLockstep, haltReq := false, ddlEnd := s.now + t.ddlLeft }

/-- Resume what the debugger has selected. -/
def resumeSel (s : State) : State :=
  if selChk s then s.setTnd { s.tnd with haltC := false } else resumeCores s

/-- Every trigger and dcsr.step cleared (R360). -/
def Core.clearDebug (c : Core) : Core := ({ c with trig := Tab.empty }).csrBit csrDcsr 2 false

/-- The response of a dmi operation: op 0 done, op 2 failed (R359). -/
def dmiDone (s : State) (op : Nat) : State := s.setTnd { s.tnd with dmi := op }

/-- A dmi operation: it fails while the module may not be activated, and after a drop until dmactive is written
(R359, R360). -/
def dmiOp (s : State) (f : State → State) : Out :=
  if debugPermit s ∧ ¬ s.tnd.dropped then .next (f (dmiDone s 0)) else .next (dmiDone s 2)

/-- Deactivate the debug module: halted cores run on, and its own registers are reset (PRESUMED, log 31). -/
def endDebug (s : State) : State :=
  let s := if s.tnd.halted then resumeCores s else s
  s.setTnd { s.tnd with dmact := false, haltC := false, haltReq := false, cmderr := 0, data0 := 0 }

/-- DMACTIVE_WRITE (R357, R359): dmactive and the hart selected; an active module's cmderr is cleared where the debugger does so. -/
def execDmactiveWrite (v : DmControl) (s : State) : Out :=
  if debugPermit s then
    let s := if v.active then s else endDebug s
    .next (dmiDone (s.setTnd { s.tnd with dmact := v.active, hart := v.active && v.hart, dropped := false,
                                            cmderr := if v.clear then 0 else s.tnd.cmderr }) 0)
  else .next (dmiDone s 2)

/-- End the debug session (R360). -/
def dropDebug (s : State) : State :=
  let s := endDebug s
  let t := s.tnd
  let s := s.setTnd { t with main := t.main.clearDebug, chk := t.chk.clearDebug, dropped := true }
  let s := (s.fincSat F.TND_DBG_drops).fput F.TND_EV_drop 1
  report s 9 [5]

/-- DEBUG_PERMIT_LAPSE (R360). -/
def execDebugPermitLapse (s : State) : Out :=
  if s.tnd.dmact ∧ ¬ debugPermit s then .next (dropDebug s) else .next s

/-- DEBUG_HALT (R355, R358): held while split or merging. -/
def execDebugHalt (s : State) : Out :=
  dmiOp s (fun s =>
    if ¬ s.tnd.dmact ∨ selHalted s then s
    else if s.isSplit then s.setTnd { s.tnd with haltReq := true }
    else takeHalt s)

/-- Halted cores retire one instruction and halt again, with the step as dcsr.cause (R357, R358). -/
def stepCores (s : State) (pc : Word) : State :=
  onCores s (fun (c : Core) => { c.csrPut csrDcsr 8 6 4 with pc := pc, cyc := c.cyc + 1, ret := c.ret + 1 })

/-- DEBUG_RESUME (R358): with dcsr.step set the cores step once and halt again; where the program goes is its own, a free value. -/
def execDebugResume (s : State) : Out :=
  dmiOp s (fun s =>
    if ¬ s.tnd.dmact then s
    else if selHalted s then
      if ((selCore s).csrOf csrDcsr).getLsbD 2 then
        let d := s.draw
        stepCores d.2 (d.1.setWidth 32 &&& 0xFFFFFFFE)
      else resumeSel s
    else s.setTnd { s.tnd with haltReq := false })

/-- SINGLE_STEP (R358): the debugger's step as a whole, both cores once; `pc` is where the program goes, and dcsr.step is left as it
was (DESIGN CHOICE, log 52). -/
def execSingleStep (pc : Word) (s : State) : Out :=
  dmiOp s (fun s => if s.tnd.dmact ∧ selHalted s then stepCores s pc else s)

/-- The trigger selected by tselect, of the four (R340). -/
def Core.trigSel (c : Core) : Nat := (c.csrOf csrTselect).toNat % 4

/-- Halves of a counter. -/
def loHalf (n : BitVec 64) : Word := n.extractLsb' 0 32
def hiHalf (n : BitVec 64) : Word := n.extractLsb' 32 32

/-! ### Triggers (R340, R357)

The fields of match control are those of the debug specification; a trigger acts before the access, on its address (PRESUMED,
log 31). -/

/-- tdata1 of a trigger: type 2, match control, which no write changes; of its fields `dmode`, `action`, `chain`, `match`, `m`,
`execute`, `store` and `load` can be written, with the values that are legal. -/
def tdata1 (v : Word) : Word :=
  let w := (v &&& 0x08001FC7) ||| 0x20000000
  let w := if w.getLsbD 27 then w else w &&& 0xFFFFEFFF
  if bits w.toNat 10 7 ≤ 5 then w else w &&& 0xFFFFF87F

/-- The bits of tdata1 that let a trigger act on a load, a store and a fetch. -/
def onLoad : Nat := 0
def onStore : Nat := 1
def onFetch : Nat := 2

/-- A trigger of a core matches an access. -/
def Core.trigMatch (c : Core) (i kind : Nat) (a : Word) : Bool :=
  let d := tdata1 (c.trig.get 0 (2 * i))
  let v := c.trig.get 0 (2 * i + 1)
  let hi : Word := v >>> 16
  let lo : Word := v &&& 0xFFFF
  let napot : Word := v ^^^ (v + 1)
  d.getLsbD 6 && d.getLsbD kind &&
    match bits d.toNat 10 7 with
    | 0 => a == v
    | 1 => (a ||| napot) == (v ||| napot)
    | 2 => decide (v.toNat ≤ a.toNat)
    | 3 => decide (a.toNat < v.toNat)
    | 4 => (a &&& hi) == lo
    | _ => ((a >>> 16) &&& hi) == lo

/-- The trigger that an access of a core meets, of a chain only where all match: whether it enters debug, or is a breakpoint. -/
def Core.fires (c : Core) (kind : Nat) (a : Word) : Option Bool :=
  ((List.range 4).foldl (fun (acc : Option Bool × Bool) i =>
    let d := tdata1 (c.trig.get 0 (2 * i))
    let m := acc.2 && c.trigMatch i kind a
    if d.getLsbD 11 then (acc.1, m)
    else (if m && acc.1.isNone then some (d.getLsbD 12) else acc.1, true)) (none, true)).1

/-- The trigger that an access of a requester meets: of the core that runs it, in lockstep of the main core alone. -/
def trigOf (s : State) (req : Requester) (kind : Nat) (a : Word) : Option Bool :=
  match req with
  | .host => none
  | .debugger => none
  | .checker => if s.inLockstep || s.tnd.haltC then none else s.tnd.chk.fires kind a
  | _ => if s.tnd.halted then none else s.tnd.main.fires kind a

/-- A breakpoint's mcause. -/
def faultBreak : Word := 3

/-- A trigger acts before the access is made: a breakpoint, or a debug halt with dcsr.cause 2, which waits as every halt does while
the pair is split (R355). The address of the instruction is the program's: a free value. -/
def watched (s : State) (req : Requester) (kind : Nat) (a : Word) (f : State → State) : State :=
  match trigOf s req kind a with
  | none => f s
  | some false => accessFault s req faultBreak a
  | some true =>
    if ¬ s.tnd.dmact then f s
    else if s.isSplit then f (s.setTnd { s.tnd with haltReq := true })
    else
      let d := s.draw
      let chk : Bool := req == .checker
      haltHart (onHart d.2 chk (fun (c : Core) => { c with pc := d.1.setWidth 32 &&& 0xFFFFFFFE })) chk 2

/-- The event counters and selectors 3 to 31 and the counter inhibit, which a core has but which hold 0 (PRESUMED, log 31). -/
def hpmCsr (r : Nat) : Bool :=
  r == 0x320 || (0x323 ≤ r && r ≤ 0x33F) || (0xB03 ≤ r && r ≤ 0xB1F) || (0xB83 ≤ r && r ≤ 0xB9F)

/-- The CSRs of a core with machine mode alone (R340; PRESUMED, log 31). -/
def csrPresent (r : Nat) : Bool :=
  hpmCsr r || ([csrMstatus, csrMisa, csrMie, csrMtvec, 0x340, csrMepc, csrMcause, csrMtval, csrMip, csrTselect, csrTdata1, csrTdata2,
    csrTinfo, csrDcsr, csrDpc, csrMcycle, csrMinstret, csrMcycleh, csrMinstreth, 0xF11, 0xF12, 0xF13, csrMhartid] : List Nat).contains r

/-- A core has the register of an abstract number, and for a write one that is not read-only. -/
def hasReg (write : Bool) (r : Nat) : Bool :=
  if r < 0x1000 then csrPresent r && !(write && 0xC00 ≤ r) else r < 0x1020

/-- Read a CSR. -/
def Core.readCsr (c : Core) (r : Nat) : Word :=
  if r = csrTdata1 then tdata1 (c.trig.get 0 (2 * c.trigSel))
  else if r = csrTdata2 then c.trig.get 0 (2 * c.trigSel + 1)
  else if r = csrTinfo then 4
  else if r = csrDpc then c.pc
  else if r = csrMcycle then loHalf c.cyc
  else if r = csrMcycleh then hiHalf c.cyc
  else if r = csrMinstret then loHalf c.ret
  else if r = csrMinstreth then hiHalf c.ret
  else c.csrOf r

/-- Read a register by its abstract number: CSRs from 0, x0 to x31 from 0x1000 (PRESUMED, log 31). -/
def Core.readReg (c : Core) (r : Nat) : Word :=
  if r < 0x1000 then c.readCsr r
  else if 0x1001 ≤ r ∧ r < 0x1020 then c.x.get 0 (r - 0x1000)
  else 0

/-- The word that a CSR holds after a write: fields that the family fixes keep their value (PRESUMED, log 31). -/
def csrLegal (r : Nat) (old v : Word) : Word :=
  if r = csrMstatus then (v &&& 0x88) ||| 0x1800
  else if r = csrMisa ∨ r = csrMip ∨ r = csrTinfo then old
  else if r = csrTselect then v &&& 3
  else if hpmCsr r then 0
  else if r = csrDcsr then (old &&& 0xF00001C3) ||| (v &&& 0x0000FE04)
  else v

/-- Write a CSR; the read-only ones from 0xC00 discard it. -/
def Core.writeCsr (c : Core) (r : Nat) (v : Word) : Core :=
  if r = csrTdata1 then { c with trig := c.trig.set (2 * c.trigSel) (tdata1 v) }
  else if r = csrTdata2 then { c with trig := c.trig.set (2 * c.trigSel + 1) v }
  else if r = csrDpc then { c with pc := v &&& 0xFFFFFFFE }
  else if r = csrMcycle then { c with cyc := hiHalf c.cyc ++ v }
  else if r = csrMcycleh then { c with cyc := v ++ loHalf c.cyc }
  else if r = csrMinstret then { c with ret := hiHalf c.ret ++ v }
  else if r = csrMinstreth then { c with ret := v ++ loHalf c.ret }
  else if r < 0xC00 then { c with csr := c.csr.set r (csrLegal r (c.csrOf r) v) }
  else c

/-- Write a register by its abstract number; x0 discards it. -/
def Core.writeReg (c : Core) (r : Nat) (v : Word) : Core :=
  if r < 0x1000 then c.writeCsr r v
  else if 0x1001 ≤ r ∧ r < 0x1020 then { c with x := c.x.set (r - 0x1000) v }
  else c

end Sys2Proof.Machine
end

