-- ==== Sys2Proof/Machine/Fuses.lean ====
section
/-! DEFINITION. The fuse array (R424 to R444): boot reads, group decisions, shadows, and the programming
service. -/

namespace Sys2Proof.Machine

/-! ### The array -/

/-- First data word of a group slot (R424). -/
def slotBase (k : Nat) : Nat := ([0x000, 0x005, 0x00A, 0x0A3, 0x13C, 0x145, 0x14E, 0x157, 0x159] : List Nat).getD k 0

/-- Data words of a group slot; the check word follows them. -/
def slotLen (k : Nat) : Nat := ([4, 4, 152, 152, 8, 8, 8, 1, 4] : List Nat).getD k 0

def slotWords (t : Tab Word) (k : Nat) : List Word := (List.range (slotLen k)).map (fun i => t.get 0 (slotBase k + i))

def slotCheck (t : Tab Word) (k : Nat) : Word := t.get 0 (slotBase k + slotLen k)

def wordsBytes (l : List Word) : List Byte := l.flatMap (fun w => leBytes 4 w.toNat)

/-- The check word of a slot over its index and data (R427). -/
def fuseCheck (k : Nat) (l : List Word) : Word := crc32With 0xEDB88320 (leBytes 4 k ++ wordsBytes l)

/-- The word of the lock fuses. -/
def lockWord : Nat := 0x15E

/-- Lock k counts as blown at two readings of the lock word (R428). -/
def lockBlown (n st : Word) (k : Nat) : Bool := bits n.toNat (3 * k + 2) (3 * k) != 0 || bits st.toNat (3 * k + 2) (3 * k) != 0

/-- A lock counts as blown by this boot's reads, or by what its fuses read now (R428). -/
def lockNow (s : State) (k : Nat) : Bool :=
  lockBlown (s.otp.bootN.get 0 lockWord) (s.otp.bootS.get 0 lockWord) k
    || lockBlown (s.otp.normal.get 0 lockWord) (s.otp.strict.get 0 lockWord) k

/-- The level bits of the thermometer words. -/
def levelBits (l : List Word) : Nat := leNat (wordsBytes l)

/-- The level of an unbroken run of 1 bits from bit 0: `none` for any other pattern (R430). -/
def levelOf (v : Nat) : Option Nat := (List.range 129).find? (fun n => v == 2 ^ n - 1)

/-- The state of a slot by its two readings (R429, R430). A blank thermometer whose lock is blown breaks the second rule of
R430 and is in check failed (DEDUCED, log 44). -/
def slotState (n st : Tab Word) (k : Nat) : Nat :=
  let a := slotWords n k
  let b := slotWords st k
  let c := slotCheck n k
  if a ≠ b ∨ c ≠ slotCheck st k then 3
  else if a.all (· == 0) ∧ c = 0 ∧ ¬ (k = 8 ∧ lockBlown (n.get 0 lockWord) (st.get 0 lockWord) 8) then 0
  else if k = 8 then
    let run := (levelOf (levelBits a)).isSome
    if lockBlown (n.get 0 lockWord) (st.get 0 lockWord) 8 then (if run ∧ c = fuseCheck k a then 1 else 2)
    else (if run ∧ c = 0 then 1 else 2)
  else if k = 7 ∧ bits (a.getD 0 0).toNat 31 3 ≠ 0 then 2
  else if c = fuseCheck k a then 1 else 2

/-- The slot of two that is used, 0 none (R433). -/
def slotInUse (st : Nat → Nat) (k1 k2 : Nat) : Nat := if st k1 = 1 then 1 else if st k2 = 1 then 2 else 0

/-! ### The boot decisions (R429 to R435) -/

/-- The boot ROM's own records of fuse alarms (R432). -/
def fuseEvent (s : State) (code mask : Nat) : State :=
  if mask = 0 then s
  else post s ⟨0x0C, code, mask, s.now, (Config.evData 0x0C [code, mask]).take 52, [code, mask]⟩

/-- The words of a boot's read at normal margin: the array, of which weak fuses alone may read otherwise in this boot (R429, R431). -/
def readNormal (o : Fuses) (l : List (Nat × Word)) : Tab Word :=
  l.foldl (fun t x => t.set x.1 (t.get 0 x.1 ^^^ (x.2 &&& o.weak.get 0 x.1))) o.normal

/-- The words of its read at strict margin: a fuse with full margin may have lost it in this boot, and no other reads 1 (R429,
R431). -/
def readStrict (o : Fuses) (l : List (Nat × Word)) : Tab Word := l.foldl (fun t x => t.set x.1 (t.get 0 x.1 &&& ~~~x.2)) o.strict

/-- Both reads, the decision of every slot, the alarms and the shadows; the cause that stops the module, if one
does (R429 to R433, R435). -/
def fuseBoot (s : State) (flips : List (Fin 512 × Word × Word)) : Option Nat × State :=
  let n := readNormal s.otp (flips.map (fun x => (x.1.val, x.2.1)))
  let sm := readStrict s.otp (flips.map (fun x => (x.1.val, x.2.2)))
  let st (k : Nat) : Nat := slotState n sm k
  let mask (v : Nat) : Nat := (List.range 9).foldl (fun m k => if st k = v then m + 2 ^ k else m) 0
  let integ := mask 2
  let mrg := mask 3
  let useId := slotInUse st 0 1
  let useTrim := slotInUse st 2 3
  let useCust := slotInUse st 5 6
  let idw := slotWords n (useId - 1)
  let pol : Nat := if st 7 = 1 then (slotWords n 7).headD 0 |>.toNat else if st 7 = 0 then 0 else 7
  let lvl : Nat := if st 8 = 1 then (levelOf (levelBits (slotWords n 8))).getD 0 else 0
  let bad := st 8 = 2 ∨ st 8 = 3
  let sh : Shadow := {
    devId := if useId = 0 then 0 else (idw.getD 1 0) ++ (idw.getD 0 0)
    cust := if useCust = 0 then none else some (wordsBytes (slotWords n (4 + useCust)))
    vendor := if st 4 = 1 then wordsBytes (slotWords n 4) else []
    pol := BitVec.ofNat 3 pol
    lvl := BitVec.ofNat 8 lvl
    lvlBad := decide bad
    trim := if useTrim = 0 then [] else slotWords n (1 + useTrim) }
  let s := { s with otp := { s.otp with bootN := n, bootS := sm, shadow := sh, shadowN := sh.cpl } }
  let s := (s.fput F.OTP_STAT_rd 1).fput F.OTP_GSTAT_st ((List.range 9).foldl (fun m k => m + st k * 4 ^ k) 0)
  let s := (s.fbool F.OTP_STAT_ia (integ != 0)).fbool F.OTP_STAT_ma (mrg != 0)
  let s := (s.fput F.OTP_ALARM_integ integ).fput F.OTP_ALARM_mrg mrg
  let s := s.fput F.OTP_LOCK_lock ((List.range 9).foldl (fun m k =>
    if lockBlown (n.get 0 lockWord) (sm.get 0 lockWord) k then m + 2 ^ k else m) 0)
  let s := ((s.fput F.OTP_USE_id useId).fput F.OTP_USE_trim useTrim).fput F.OTP_USE_cust useCust
  let s := ((s.rput R.OTP_POL (BitVec.ofNat 32 pol)).fbool F.OTP_POL_restr (st 7 == 2 || st 7 == 3))
  let s := (s.fbool F.OTP_LEVEL_inv (decide bad)).fput F.OTP_LEVEL_lvl lvl
  let s : State := if useId = 0 then s
    else
      let s := (s.rput R.OTP_DEVL (idw.getD 0 0)).rput R.OTP_DEVH (idw.getD 1 0)
      (s.rput R.OTP_SER (idw.getD 2 0)).rput R.OTP_MFG (idw.getD 3 0)
  let s := fuseEvent (fuseEvent s 1 integ) 2 mrg
  let s := if integ ≠ 0 ∨ mrg ≠ 0 then s.fput F.OTP_EV_alarm 1 else s
  (if useId = 0 then some 0x71 else if useTrim = 0 then some 0x72 else if st 4 ≠ 1 then some 0x73 else none, s)

/-! ### The programming service (R436 to R442) -/

/-- Fuses that a target leaves to blow, in the order of R438: word and bit, those that read 0 at strict margin. -/
def fusesToBlow (s : State) (l : List (Nat × Word)) : List (Nat × Nat) :=
  l.flatMap (fun x =>
    ((List.range 32).filter (fun b => x.2.getLsbD b && !(s.otp.strict.get 0 x.1).getLsbD b)).map (fun b => (x.1, b)))

/-- A target would need a fuse that reads 1 at normal margin to read 0 (R437 code 0x5). -/
def wouldClear (s : State) (l : List (Nat × Word)) : Bool :=
  l.any (fun x => s.otp.normal.get 0 x.1 &&& ~~~x.2 != 0)

/-- Blow one fuse: it reads 1 at both margins. -/
def blow (s : State) (f : Nat × Nat) : State :=
  let m : Word := 1#32 <<< f.2
  { s with otp := { s.otp with normal := s.otp.normal.set f.1 (s.otp.normal.get 0 f.1 ||| m)
                               strict := s.otp.strict.set f.1 (s.otp.strict.get 0 f.1 ||| m)
                               weak := s.otp.weak.set f.1 (s.otp.weak.get 0 f.1 &&& ~~~m) } }

/-- A fuse that stays 0 at strict margin after four pulses; at normal margin its reading is open (R438, R440). -/
def weak (s : State) (f : Nat × Nat) : State :=
  let d := s.draw
  let m : Word := 1#32 <<< f.2
  let o := d.2.otp
  { d.2 with otp := { o with normal := if d.1.getLsbD 0 then o.normal.set f.1 (o.normal.get 0 f.1 ||| m) else o.normal
                             weak := o.weak.set f.1 (o.weak.get 0 f.1 ||| m) } }

/-- The fuse whose pulse the loss of power has cut: unblown, left weak, or blown, which is open (R440). -/
def cutFuse (s : State) (f : Nat × Nat) : State :=
  let d := s.draw
  if d.1.getLsbD 0 then weak d.2 f else if d.1.getLsbD 1 then blow d.2 f else d.2

/-- How many fuses of a sequence have been pulsed when the word of one of them has been: a word is pulsed whole (R438). -/
def wordEnd (seq : List (Nat × Nat)) (k : Nat) : Nat :=
  k + ((seq.drop k).takeWhile (fun f => f.1 == (seq.getD k (0, 0)).1)).length

/-- Pulse the fuses in order as far as the call gets: result code (`none` where it is cut), fuses blown, the
failing word, and the array (R438, R440, R442). -/
def pulse (s : State) (seq : List (Nat × Nat)) (o : PulseObs) : Option Nat × Nat × Nat × State :=
  let n := seq.length
  let at_ (x : Option Nat) : Nat := match x with | some k => k | none => n
  let cut := at_ o.cutAfter
  let fail := at_ o.failAfter
  let wfirst := at_ o.warnAfter
  -- a warning lets the word in progress complete
  let warn := wordEnd seq wfirst
  if cut < n ∧ cut ≤ fail ∧ cut ≤ warn then (none, cut, 0, cutFuse ((seq.take cut).foldl blow s) (seq.getD cut (0, 0)))
  else if fail < n ∧ (fail < warn ∨ ¬ wfirst < n) then
    let f := seq.getD fail (0, 0)
    let others := (seq.take (wordEnd seq fail)).filter (· != f)
    (some 8, others.length, f.1, weak (others.foldl blow s) f)
  else if wfirst < n then (some 1, warn, 0, (seq.take warn).foldl blow s)
  else (some 0, n, 0, seq.foldl blow s)

/-- The words that operation 0x1 asks for: the data words and their check word. -/
def slotTarget (k : Nat) (l : List Word) : List (Nat × Word) :=
  ((List.range (slotLen k)).map (fun i => (slotBase k + i, l.getD i 0))) ++ [(slotBase k + slotLen k, fuseCheck k l)]

/-- The thermometer words of a level, and the check word of an unlocked thermometer, which is 0 (R427, R430). -/
def levelTarget (lvl : Nat) : List (Nat × Word) :=
  (List.range 4).map (fun i => (slotBase 8 + i, BitVec.ofNat 32 ((2 ^ lvl - 1) >>> (32 * i)))) ++ [(slotBase 8 + 4, 0#32)]

/-- The refusals that hang on the module's state (R437 codes 0x1 and 0x2). -/
def serviceState (s : State) (op : Nat) : Nat :=
  if ¬ s.sw1 ∨ s.mode = .startup ∨ s.mode = .twin ∨ s.mode = .safe ∨ s.isSplit ∨ s.flag F.CSK_STAT_pfw then 1
  else if s.mode = .run ∧ op ≠ 3 then 2 else 0

/-- A call ends with a result code, and with what it did. -/
def serviceEnd (s : State) (code blown word : Nat) : State :=
  let s := (s.fput F.OTP_PCMD_res code).fput F.OTP_EV_pdone 1
  let s := if code ≠ 0 then s.fput F.OTP_EV_perr 1 else s
  (s.fput F.OTP_PRES_word word).fput F.OTP_PRES_blown blown

/-- Show the locks of the array. -/
def showLocks (s : State) : State :=
  s.fput F.OTP_LOCK_lock ((List.range 9).foldl (fun m k => if lockNow s k then m + 2 ^ k else m) 0)

/-- Run the pulses of an accepted call; a call that is cut stays in progress (R440). -/
def servicePulse (s : State) (seq : List (Nat × Nat)) (o : PulseObs) : State :=
  let r := pulse s seq o
  match r.1 with
  | some code => serviceEnd r.2.2.2 code r.2.1 r.2.2.1
  | none => ({ r.2.2.2 with otp := { r.2.2.2.otp with call := true } }).fput F.OTP_STAT_pbusy 1 |>.fput F.OTP_PCMD_busy 1

/-- The fields of OTP_PCMD and OTP_PSRC that a call shows. -/
def serviceBegin (s : State) (op idx lvl addr : Nat) : State :=
  let s := ((s.fput F.OTP_PCMD_op op).fput F.OTP_PCMD_idx idx).fput F.OTP_PCMD_lvl lvl
  s.rput R.OTP_PSRC (BitVec.ofNat 32 addr)

/-- A lock or the vendor lock closes a slot (R437 codes 0x3 and 0x4). -/
def serviceLock (s : State) (idx : Nat) : Nat :=
  if idx < 9 ∧ lockNow s idx then 3 else if idx ≤ 4 ∧ lockNow s 4 then 4 else 0

/-- The data words of a call in SRAM. -/
def serviceData (s : State) (addr n : Nat) : Option (List Word) × State :=
  if addr % 4 ≠ 0 ∨ addr < sramBase ∨ sramBase + 0x100000 < addr + 4 * n then (none, s)
  else
    let r := sramBytes s (addr - sramBase) (4 * n)
    (r.1.map (fun l => (List.range n).map (fun i => BitVec.ofNat 32 (le l (4 * i) 4))), r.2)

/-- Operation 0x1: program a slot (R437, R438). A source that cannot be read ends the call with an open code. -/
def serviceProgram (s : State) (idx addr : Nat) (o : PulseObs) : State :=
  let s := serviceBegin s 1 idx (s.fget F.OTP_PCMD_lvl) addr
  let c := serviceState s 1
  if c ≠ 0 then serviceEnd s c 0 0
  else if serviceLock s idx ≠ 0 then serviceEnd s (serviceLock s idx) 0 0
  else if 8 ≤ idx then serviceEnd s 6 0 0
  else
    match serviceData s addr (slotLen idx) with
    | (none, s) =>
      let d := s.draw
      serviceEnd d.2 (1 + d.1.toNat % 15) 0 0
    | (some l, s) =>
      let t := slotTarget idx l
      if wouldClear s t then serviceEnd s 5 0 0 else servicePulse s (fusesToBlow s t) o

/-- Operation 0x2: blow a lock (R439); the slot's state is the one decided at this boot (R431). -/
def serviceLockOp (s : State) (idx : Nat) (o : PulseObs) : State :=
  let s := serviceBegin s 2 idx (s.fget F.OTP_PCMD_lvl) (s.rget R.OTP_PSRC).toNat
  let c := serviceState s 2
  if c ≠ 0 then serviceEnd s c 0 0
  else if serviceLock s idx ≠ 0 then serviceEnd s (serviceLock s idx) 0 0
  else if 9 ≤ idx then serviceEnd s 6 0 0
  else
    let m : Word := 7#32 <<< (3 * idx)
    let s := showLocks (servicePulse s (fusesToBlow s [(lockWord, m)]) o)
    s.fbool F.OTP_PRES_gvld (bits (s.fget F.OTP_GSTAT_st) (2 * idx + 1) (2 * idx) == 1)

/-- A level above the `rlevel` of the running vintage (R437 code 0x7). -/
def aboveVintage (s : State) (lvl : Nat) : Bool :=
  match s.vint with
  | some v => decide (v.rlevel < lvl)
  | none => true

/-- Operation 0x3: raise the thermometer (R437, R438). -/
def serviceLevel (s : State) (lvl : Nat) (o : PulseObs) : State :=
  let s := serviceBegin s 3 8 lvl (s.rget R.OTP_PSRC).toNat
  let c := serviceState s 3
  if c ≠ 0 then serviceEnd s c 0 0
  else if serviceLock s 8 ≠ 0 then serviceEnd s (serviceLock s 8) 0 0
  else if lvl ≤ s.fget F.OTP_LEVEL_lvl then serviceEnd s 6 0 0
  else if s.mode = .run ∧ aboveVintage s lvl then serviceEnd s 7 0 0
  else if 128 < lvl then serviceEnd s 6 0 0
  else if wouldClear s (levelTarget lvl) then serviceEnd s 5 0 0
  else servicePulse s (fusesToBlow s (levelTarget lvl)) o

/-- How the pulses end in a call whose command brings no observation of them: whether and at which fuse they fail is a free value
(log 32). -/
def drawPulse (s : State) : PulseObs × State :=
  let d := s.draw
  (⟨if d.1.getLsbD 0 then some (d.1.toNat / 2 % 8192) else none, none, none⟩, d.2)

/-- The registers of a call: a0 to a3 of the calling core, in lockstep of both (R436). -/
def callRegs (s : State) (l : List (Nat × Nat)) : State :=
  onHart s false (fun (c : Core) => { c with x := l.foldl (fun x e => x.set (10 + e.1) (BitVec.ofNat 32 e.2)) c.x })

/-- A call by the firmware: it stands in a0 to a3, and a0 has its result when the service returns (R436). -/
def firmwareCall (s : State) (args : List (Nat × Nat)) (f : State → State) : State :=
  let t := f (callRegs s args)
  if t.otp.call then t else callRegs t [(0, t.fget F.OTP_PCMD_res)]

/-- Who may reach the service: the firmware of the pair, and the boot ROM itself (R436). A write to OTP_PCMD that
is not fetched from the boot ROM is refused; a checker core in lockstep drives nothing onto the bus (R341), and while split its
write is outside its map, a store access fault (R344, R493). -/
def viaService (s : State) (req : Requester) (args : List (Nat × Nat)) (f : State → State) : State :=
  if s.mode = .reset ∨ s.otp.call ∨ (req = .checker ∧ s.inLockstep) then s
  else
    match req with
    | .pair => firmwareCall s args f
    | .bootRom => f s
    | .checker => watched s req onStore (BitVec.ofNat 32 R.OTP_PCMD) (fun s => accessFault s req faultStore (BitVec.ofNat 32 R.OTP_PCMD))
    | _ => refuse s req R.OTP_PCMD 5

/-! ### Commands -/

/-- PROGRAM_SLOT (R436 to R438). -/
def execProgramSlot (req : Requester) (idx : Fin 16) (addr : Word) (o : PulseObs) (s : State) : Out :=
  .next (viaService s req [(0, 1), (1, idx.val), (2, addr.toNat)] (fun s => serviceProgram s idx.val addr.toNat o))

/-- BLOW_LOCK (R439). -/
def execBlowLock (req : Requester) (idx : Fin 16) (o : PulseObs) (s : State) : Out :=
  .next (viaService s req [(0, 2), (1, idx.val)] (fun s => serviceLockOp s idx.val o))

/-- RAISE_THERMOMETER (R438). -/
def execRaiseThermometer (req : Requester) (level : Byte) (o : PulseObs) (s : State) : Out :=
  .next (viaService s req [(0, 3), (3, level.toNat)] (fun s => serviceLevel s level.toNat o))

/-- A byte of a list with bits changed. -/
def upsetByte (l : List Byte) (i : Nat) (x : BitVec 64) : List Byte := l.modify i (fun b => b ^^^ x.setWidth 8)

/-- A fault changes bits of one form of the shadows. -/
def Shadow.upset (h : Shadow) (f : ShadowField) (x : BitVec 64) : Shadow :=
  match f with
  | .devId => { h with devId := h.devId ^^^ x }
  | .policy => { h with pol := h.pol ^^^ x.setWidth 3 }
  | .level => { h with lvl := h.lvl ^^^ x.setWidth 8 }
  | .customer i => { h with cust := h.cust.map (fun l => upsetByte l i x) }
  | .vendor i => { h with vendor := upsetByte h.vendor i x }
  | .trim i => { h with trim := h.trim.modify i (fun w => w ^^^ x.setWidth 32) }

/-- A fault in one form of the shadows: Lane A's is the true one, Lane B's the complemented one. -/
def Fuses.upset (o : Fuses) (l : Lane) (u : ShadowUpset) : Fuses :=
  match l with
  | .a => { o with shadow := o.shadow.upset u.field u.bits }
  | .b => { o with shadowN := o.shadowN.upset u.field u.bits }

/-- FUSE_SHADOW_MISMATCH (R435): the two forms are compared once they hold the boot's values; forms that differ are a device
fault. -/
def execFuseShadowMismatch (s : State) : Out :=
  if s.flag F.OTP_STAT_rd ∧ s.otp.shadowN ≠ s.otp.shadow.cpl then .next (deviceFault s 0x74) else .next s

end Sys2Proof.Machine
end

