-- ==== Sys2Proof/Machine/Image.lean ====
section
/-! DEFINITION. The vintage image as the lanes hold it: sections, cell entries, session and stream entries,
and net attributes (R125, R137 to R148). -/

namespace Sys2Proof.Machine

/-- An image as the bytes it reads. -/
abbrev Img := Nat → Byte

/-- A little-endian field of an image. -/
def Img.le (m : Img) (a : Nat) : Nat → Nat
  | 0 => 0
  | n + 1 => (m a).toNat + 256 * Img.le m (a + 1) n

/-- A big-endian field of an image. -/
def Img.be (m : Img) (a n : Nat) : Nat := (List.range n).foldl (fun v i => 256 * v + (m (a + i)).toNat) 0

/-- Bytes of an image. -/
def Img.bytes (m : Img) (a n : Nat) : List Byte := (List.range n).map (fun i => m (a + i))

/-- Sections in the order of R137. -/
def secChannels : Nat := 0
def secGroups : Nat := 1
def secCells : Nat := 2
def secNets : Nat := 3
def secSessions : Nat := 4
def secStream : Nat := 5
def secParams : Nat := 6
def secSignature : Nat := 7

/-! ### The configuration memory of a lane (R152, R153)

It holds what a readback pass reads, in rising addresses in the order of the pass: the settings loaded from the header, the
channel table, the group table, 2048 cell slots, the net attributes, the session table, the stream table and PARAMS. Each
table lies at a fixed address (DESIGN CHOICE, log 54). -/

/-- Where a section's table lies in the configuration memory. -/
def cfgHome (k : Nat) : Nat := [0xA0, 0x520, 0x550, 0x8550, 0x9650, 0xBE50, 0xBF50].getD k 0

/-- The room of a table and the size of its entries. -/
def cfgRoom (k : Nat) : Nat := [1152, 48, 32768, 4352, 10240, 256, 0x100000].getD k 0
def cfgUnit (k : Nat) : Nat := [24, 8, 16, 1, 64, 32, 4].getD k 1

/-- The settings loaded from the header: `cyc`, `sync`, `tpcfg` and `slice`. -/
def cfgSetting (a : Nat) : Bool := 0x34 ≤ a && a < 0x41

/-- The used length of a table: up to its last entry that holds anything; the fixed tables are whole. -/
def cfgUsed (m : Mem) (k : Nat) : Nat :=
  if k = 0 ∨ k = 1 ∨ k = 3 then cfgRoom k
  else m.foldl (fun n e =>
    if cfgHome k ≤ e.1 ∧ e.1 < cfgHome k + cfgRoom k then max n (((e.1 - cfgHome k) / cfgUnit k + 1) * cfgUnit k) else n) 0

/-- The section directory that stands for the layout of a configuration memory. -/
def cfgDir (m : Mem) (a : Nat) : Byte :=
  let k := (a - 0x60) / 8
  let v := if k = 7 then 0 else if (a - 0x60) % 8 < 4 then cfgHome k else cfgUsed m k
  BitVec.ofNat 8 (v >>> (8 * ((a - 0x60) % 4)))

/-- A configuration memory read as an image, by what its bytes stand for. -/
def cfgImg (m : Mem) (look : Nat → Byte) : Img := fun a => if 0x60 ≤ a ∧ a < 0xA0 then cfgDir m a else look a

/-- The words of a lane's configuration memory in true form: Lane B stores them complemented (R152). -/
def cfgA (s : State) : Img := fun a => memGet 0 s.la.cfg a
def cfgB (s : State) : Img := fun a => ~~~ memGet 0xFF s.lb.cfg a

/-- The configuration that Lane A holds, in true form. -/
def imgA (s : State) : Img := cfgImg s.la.cfg (cfgA s)

/-- The configuration that Lane B holds, in true form. -/
def imgB (s : State) : Img := cfgImg s.lb.cfg (cfgB s)

/-- Offset and length of a section (R140). -/
def Img.secOff (m : Img) (k : Nat) : Nat := Img.le m (0x60 + 8 * k) 4
def Img.secLen (m : Img) (k : Nat) : Nat := Img.le m (0x64 + 8 * k) 4

/-- The configuration memory that the loader writes from an image (R152). -/
def cfgOf (m : Img) : Mem :=
  let put (a o n : Nat) : Mem := (List.range n).filterMap (fun i => if m (o + i) = 0 then none else some (a + i, m (o + i)))
  put 0x34 0x34 13 ++ (List.range 7).flatMap (fun k =>
    put (cfgHome k) (m.secOff k) (min (m.secLen k) (cfgRoom k)))

/-- The 1 KiB blocks of the configuration memory of an image. -/
def cfgBlocks (m : Img) : Nat := (cfgHome secParams + m.secLen secParams + 1023) / 1024

/-- A cell entry (R125). -/
structure CellCfg where
  slot  : Nat
  typ   : Nat
  log   : Bool
  back  : Nat
  ptr   : Bool
  ins   : List Nat
  out0  : Nat
  out1  : Nat
  param : Nat
  words : List Nat
  deriving DecidableEq, Repr, Inhabited

/-- Number of entries in the CELLS section. -/
def Img.cellCount (m : Img) : Nat := m.secLen secCells / 16

/-- The parameter block that a pointer names (R126). -/
def Img.paramWords (m : Img) (param : Nat) : List Nat :=
  (List.range (bits param 37 22)).map (fun i => Img.le m (m.secOff secParams + bits param 21 0 + 4 * i) 4)

/-- The entry of a slot; slots beyond the section are NULL (R124). -/
def Img.cell (m : Img) (j : Nat) : CellCfg :=
  let w := if j < m.cellCount then Img.le m (m.secOff secCells + 16 * j) 16 else 0
  let p := bits w 127 88
  let ptr := bitAt w 15
  { slot := j, typ := bits w 7 0, log := bitAt w 9, back := bits w 14 11, ptr := ptr
    ins := [bits w 27 16, bits w 39 28, bits w 51 40, bits w 63 52]
    out0 := bits w 75 64, out1 := bits w 87 76, param := p
    words := if ptr then m.paramWords p else [] }

/-- The session entries: their offsets in the image. -/
def Img.sesOffs (m : Img) : List Nat :=
  (List.range (m.secLen secSessions / 64)).map (fun i => m.secOff secSessions + 64 * i)

/-- The entry of a session number (R145). -/
def Img.sesOff (m : Img) (sid : Nat) : Option Nat := m.sesOffs.find? (fun o => (m o).toNat == sid)

/-- Payload length of a session. -/
def Img.sesLen (m : Img) (sid : Nat) : Nat :=
  match m.sesOff sid with
  | none => 0
  | some o => (m (o + 2)).toNat

/-- The stream entries: their offsets. -/
def Img.strOffs (m : Img) : List Nat :=
  (List.range (m.secLen secStream / 32)).map (fun i => m.secOff secStream + 32 * i)

/-- The attribute byte of a net: boolean nets first, then analog nets (R144). -/
def Img.attr (m : Img) (i : Nat) : Nat := (m (m.secOff secNets + i)).toNat

/-- The declared safe value of a boolean net (R117). -/
def Img.safeVal (m : Img) (i : Nat) : Bool := m.attr i % 2 == 1

/-- An entry of CHANNELS (R141). -/
def Img.chanOff (m : Img) (n : Nat) : Nat := m.secOff secChannels + 24 * n

/-- The net whose Lane A value is sent as STDQ (R141). -/
def Img.qnet (m : Img) (n : Nat) : Nat := Img.le m (m.chanOff n + 0x10) 2

end Sys2Proof.Machine
end

