-- ==== Sys2Proof/Machine/Vintage.lean ====
section
/-! DEFINITION. The loading checks of a vintage (R52 to R64, R120 to R151, R165, R237 to R245, R268, R275, R279,
R337): the first check that fails, as refusal reason and byte offset. -/

namespace Sys2Proof.Machine

/-- A failed check: refusal reason and byte offset (R151). -/
abbrev Chk := Option (Nat × Nat)

def need (ok : Bool) (reason offs : Nat) : Chk := if ok then none else some (reason, offs)

/-- The bits of a register that belong to a field. -/
def usedBits (addr : Nat) : Word :=
  match regDesc addr with
  | none => 0
  | some d => d.fields.foldl (fun w f => w ||| fldMask ⟨addr, f.hi, f.lo⟩) 0

/-- The reserved bits of a register's word are 0. -/
def reservedZero (addr w : Nat) : Bool := BitVec.ofNat 32 w &&& ~~~(usedBits addr) == 0

/-- All bytes of a range are 0. -/
def Img.zeroes (m : Img) (a n : Nat) : Bool := (List.range n).all (fun i => m (a + i) == 0)

/-- The first byte of a range that is not 0. -/
def Img.nonZero (m : Img) (a b : Nat) : Option Nat := ((List.range (b - a)).find? (fun i => m (a + i) != 0)).map (a + ·)

/-! ### Steps 1 to 3: layout and hash (R137 to R140) -/

def Img.ilen (m : Img) : Nat := Img.le m 0x08 4
def Img.hasSig (m : Img) : Bool := (m 0x0E).getLsbD 0
def Img.fp (m : Img) : Nat := Img.le m 0x0C 2
def Img.rlevel (m : Img) : Nat := Img.le m 0x30 2
def Img.cycWord (m : Img) : Nat := Img.le m 0x34 4
def Img.syncWord (m : Img) : Nat := Img.le m 0x38 4
def Img.tpWord (m : Img) : Nat := Img.le m 0x3C 4
def Img.slice (m : Img) : Nat := (m 0x40).toNat

/-- Step 1. -/
def checkHeader (m : Img) : Chk :=
  need (m.bytes 0 4 == [0x53, 0x54, 0x56, 0x56]) 0x01 0x00
  <|> need (Img.le m 0x04 2 == 0x0100) 0x01 0x04
  <|> need (Img.le m 0x06 2 == 0x00A0) 0x01 0x06
  <|> need (Img.le m 0x0E 2 < 2) 0x08 0x0E
  <|> need (m.zeroes 0x32 2) 0x08 0x32
  <|> need (reservedZero R.PRS_CYC m.cycWord) 0x08 0x34
  <|> need (reservedZero R.PRS_SYNC m.syncWord && !bitAt m.syncWord 31) 0x08 0x38
  <|> need (reservedZero R.CHN_TPCFG m.tpWord) 0x08 0x3C
  <|> need (m.zeroes 0x41 3) 0x08 0x41
  <|> need (m.zeroes 0x58 8) 0x08 0x58

/-- The permitted lengths of the sections (R140). -/
def secLenOk (m : Img) (k : Nat) : Bool :=
  let n := m.secLen k
  match k with
  | 0 => n == 1152
  | 1 => n == 48
  | 2 => n % 16 == 0 && n ≤ 32768
  | 3 => n == 4352
  | 4 => n % 64 == 0 && n ≤ 10240
  | 5 => n % 32 == 0 && n ≤ 256
  | 6 => n % 4 == 0
  | _ => n == if m.hasSig then 144 else 0

/-- Placement of the sections from the k-th on, after the end of the one before; the end of the last (R137). -/
def checkPlaces (m : Img) : List Nat → Nat → Chk
  | [], last => need (last ≤ m.ilen && (last + 15) / 16 * 16 == m.ilen) 0x02 0x08
  | k :: r, last =>
    let off := m.secOff k
    let len := m.secLen k
    if len = 0 then need (off == 0) 0x02 (0x60 + 8 * k) <|> checkPlaces m r last
    else need (off % 16 == 0 && last ≤ off && off + len ≤ m.ilen && (k ≠ 7 || off + 144 == m.ilen)) 0x02 (0x60 + 8 * k)
      <|> checkPlaces m r (off + len)

/-- Padding between the sections (R137). -/
def checkPadding (m : Img) : List Nat → Nat → Chk
  | [], last => (m.nonZero last m.ilen).map (fun a => (0x08, a))
  | k :: r, last =>
    if m.secLen k = 0 then checkPadding m r last
    else (m.nonZero last (m.secOff k)).map (fun a => (0x08, a)) <|> checkPadding m r (m.secOff k + m.secLen k)

/-- Step 2. -/
def checkLayout (m : Img) : Chk :=
  need (0x1650 ≤ m.ilen && m.ilen ≤ 0x100000 && m.ilen % 16 == 0) 0x02 0x08
  <|> (List.range 8).findSome? (fun k => need (secLenOk m k) 0x02 (0x64 + 8 * k))
  <|> checkPlaces m (List.range 8) 0xA0
  <|> checkPadding m (List.range 8) 0xA0

/-- Offset of SIGNATURE, or the image length (R139). -/
def Img.signed (m : Img) : Nat := if m.hasSig then m.secOff secSignature else m.ilen

/-- The digest H (R139). The 36 bytes 0x00C to 0x02F count as zero, as the rule's text has it; its pseudocode writes 32 zero bytes over
them (DEDUCED, log 13). -/
def Img.digest (m : Img) : List Byte :=
  sha256 (m.bytes 0 0x0C ++ List.replicate 36 0 ++ m.bytes 0x30 (m.signed - 0x30))

/-- Step 3. -/
def checkHash (m : Img) : Chk :=
  let h := m.digest
  need (m.bytes 0x10 32 == h) 0x03 0x10
  <|> need (m.bytes 0x0C 2 == [h.getD 1 0, h.getD 0 0]) 0x03 0x0C

/-! ### Steps 5 and 6: level and signature (R148, R149, R433, R434) -/

def checkLevel (m : Img) (lvl : Option Nat) : Chk :=
  need (m.rlevel ≤ 128) 0x05 0x30
  <|> match lvl with
      | none => some (0x05, 0)
      | some l => need (l ≤ m.rlevel) 0x05 0x30

/-- Step 6. A reserved byte of SIGNATURE that is not 0 is refused with 0x08, a wrong `alg` with 0x07 (DESIGN CHOICE, log 52). An unsigned
vintage is refused with 0x06 where the policy demands a signature, also where the customer key group is invalid, for which 0x07 fits
too (DESIGN CHOICE, log 52). -/
def checkSignature (m : Img) (required : Bool) (cust : Option (List Byte)) : Chk :=
  let o := m.secOff secSignature
  if m.hasSig then
    match cust with
    | none => some (0x07, 0)
    | some key =>
      need (m o == 1) 0x07 o
      <|> need (m.zeroes (o + 1) 3) 0x08 (o + 1)
      <|> need (m.zeroes (o + 0x84) 12) 0x08 (o + 0x84)
      <|> need (sha256 (m.bytes (o + 4) 64) == key) 0x07 (o + 4)
      <|> need (ecdsaVerify (m.be (o + 4) 32) (m.be (o + 0x24) 32) (m.be (o + 0x44) 32) (m.be (o + 0x64) 32) m.digest)
            0x07 (o + 0x44)
  else need (!required) 0x06 0x0E

/-! ### Step 7: header settings, channels and groups -/

/-- The press cycle that a PRS_CYC word sets (R104). -/
def cycleOf (w : Nat) : Nat := (w % 16 + 1) * 4

def Img.cyc (m : Img) : Nat := cycleOf m.cycWord

/-- The ranges of CHN_TPCFG and R54. -/
def tpOk (w : Nat) : Bool :=
  let p := bits w 25 16
  let d := bits w 9 0
  1 ≤ p && p ≤ 1000 && 20 ≤ d && d ≤ 1000 && 48 * (d + 20) ≤ p * 1000

/-- PRS_SYNC against a press cycle: `src` 0b11 and `offs` above C − 1 are refused. -/
def syncOk (w c : Nat) : Bool := bits w 1 0 != 3 && bits w 13 8 < c

def checkSettings (m : Img) : Chk :=
  need (syncOk m.syncWord m.cyc) 0x12 0x38
  <|> need (tpOk m.tpWord) 0x12 0x3C
  <|> need (5 ≤ m.slice && m.slice ≤ 20 && m.slice + 12 ≤ 10 * m.cyc) 0x12 0x40

/-- The words of a channel's configuration that the rules compare, and the use bit of each group: in the image, or
in the registers. -/
structure ChanCfgs where
  cfg  : Nat → Nat
  filt : Nat → Nat
  ocfg : Nat → Nat
  lst  : Nat → Nat
  use  : Nat → Bool

namespace ChanCfgs

def mode (x : ChanCfgs) (n : Nat) : Nat := bits (x.cfg n) 2 0
def itype (x : ChanCfgs) (n : Nat) : Nat := bits (x.cfg n) 13 12
def otype (x : ChanCfgs) (n : Nat) : Nat := bits (x.ocfg n) 23 22
def par (x : ChanCfgs) (n : Nat) : Nat := bits (x.ocfg n) 21 20
def lead (x : ChanCfgs) (n : Nat) : Nat := bits (x.ocfg n) 5 0

end ChanCfgs

/-- CHN_CFG without its partners: input type, range of the mode, source selection (R43, R52, R80). -/
def cfgOwnOk (x : ChanCfgs) (n : Nat) : Bool :=
  let w := x.cfg n
  let m := x.mode n
  let ss := bits w 15 14
  let sc := bits w 21 16
  (x.itype n != 0) == isInputMode m
    && (m == 0 || bitAt w 11 == (m == 4 || m == 5 || m == 6))
    && (match m with
        | 1 => true
        | 2 => ss == 0 || ss == 1
        | 3 | 7 => ss == 1 || ss == 3
        | _ => ss == 0)
    && sc < 48 && (ss == 2 || sc == 0)

/-- The source channel of R52 and the counter partner of R62. -/
def cfgPartnersOk (x : ChanCfgs) (n : Nat) : Bool :=
  let w := x.cfg n
  let sc := bits w 21 16
  let p := if n % 2 = 0 then n + 1 else n - 1
  (bits w 15 14 != 2 || (x.mode sc == 6 && groupOf sc == groupOf n))
    && (x.mode n != 7 || (x.mode p == 7 && x.itype p == x.itype n))

/-- CHN_FILT: no zero, and the debounce of a counter track (R64). -/
def filtOk (x : ChanCfgs) (n : Nat) : Bool :=
  let w := x.filt n
  bits w 27 16 != 0 && bits w 15 0 != 0 && (x.mode n != 7 || bits w 15 0 ≤ 3)

/-- The members of the unit that a channel's words name (R237, R242): same mode and lead. -/
def unitAt (x : ChanCfgs) (n : Nat) : List Nat :=
  allChans.filter (fun k => x.mode k == x.mode n && x.lead k == x.lead n)

/-- CHN_OCFG against mode and unit (R237, R242). -/
def ocfgOk (x : ChanCfgs) (n : Nat) : Bool :=
  let u := unitAt x n
  let l := x.lead n
  match x.mode n with
  | 4 => (u.all fun k => x.otype k == x.otype n && x.par k == x.par n) &&
    (match x.otype n, x.par n with
     | 1, 0 => l == n && u == [n]
     | 1, 1 => l % 2 == 0 && u == [l, l + 1]
     | 1, 2 => l % 4 == 0 && u == [l, l + 1, l + 2, l + 3]
     | 2, 0 => u.length == 2 && u.head? == some l && u.all (fun k => groupOf k == groupOf l)
     | _, _ => false)
  | 5 => x.otype n == 0 && x.par n == 0 && l == n
  | _ => x.ocfg n == 0

/-- CHN_LST against the mode (R268). -/
def lstOk (x : ChanCfgs) (n : Nat) : Bool :=
  let w := x.lst n
  if x.mode n = 5 then 20 ≤ bits w 13 0 && bits w 13 0 ≤ 10000 && bits w 17 16 ≤ 2 else w == 0

/-- The channels of an image. -/
def Img.chans (m : Img) : ChanCfgs where
  cfg n := Img.le m (m.chanOff n) 4
  filt n := Img.le m (m.chanOff n + 4) 4
  ocfg n := Img.le m (m.chanOff n + 8) 4
  lst n := Img.le m (m.chanOff n + 12) 4
  use g := (m (m.secOff secGroups + 8 * g + 3)).getLsbD 7

/-! ### Drivers of the nets (R118, R122, R129) -/

/-- A net's driver: 1 fixed, 2 cell output, 3 session block; class; slot and output number of a cell; whether it may
be a reset net (R167). -/
structure Drv where
  kind  : Nat
  cls   : Bool
  slot  : Option (Nat × Nat)
  reset : Bool
  deriving DecidableEq, Repr

/-- How a connection is used (R121, R164, R167): at a safety input; at an input that its table lists as non-safety; at an input whose
class the cell's output takes (R122), which is no listed non-safety input either; as a reset net. -/
inductive Use where
  | safe | any | byClass | reset
  deriving DecidableEq, Repr

/-- Kinds of an input in the connection tables: safety, optional safety, non-safety, optional non-safety, of either class by R122 and
optional such, reset net, analog, first net of a block, unused. -/
inductive InKind where
  | s | so | n | no | c | co | r | a | blk | z
  deriving DecidableEq, Repr

/-- The inputs of a cell type. Those of AND, OR, TON, TOF and LATCH take a net of either class (R122), and no consumed bit of safe
value 1, which only an input listed as non-safety takes (R164). -/
def inKinds : Nat → List InKind
  | 0x01 | 0x02 => [.co, .co, .co, .co]
  | 0x50 => [.no, .no, .no, .no]
  | 0x03 | 0x04 => [.c, .z, .z, .z]
  | 0x05 => [.c, .c, .z, .z]
  | 0x10 | 0x11 | 0x12 | 0x14 | 0x22 => [.s, .s, .r, .z]
  | 0x13 | 0x30 => [.s, .so, .r, .z]
  | 0x15 => [.s, .s, .n, .s]
  | 0x16 | 0x18 => [.s, .s, .s, .s]
  | 0x17 => [.s, .s, .s, .so]
  | 0x20 => [.s, .z, .z, .z]
  | 0x21 => [.n, .s, .no, .z]
  | 0x23 => [.s, .so, .z, .z]
  | 0x31 => [.s, .s, .a, .a]
  | 0x33 => [.no, .z, .z, .z]
  | 0x34 => [.a, .r, .z, .z]
  | 0x40 => [.r, .z, .z, .z]
  | 0x41 => [.blk, .z, .z, .z]
  | _ => [.z, .z, .z, .z]

/-- Kinds of an output: class safety, non-safety, by its inputs, analog, block, none. -/
inductive OutKind where
  | s | n | byIn | a | blk | z
  deriving DecidableEq, Repr

/-- The outputs of a cell type. -/
def outKinds : Nat → OutKind × OutKind
  | 0x01 | 0x02 | 0x03 | 0x04 | 0x05 => (.byIn, .z)
  | 0x17 | 0x18 | 0x20 => (.s, .n)
  | 0x21 | 0x34 | 0x41 => (.s, .z)
  | 0x31 | 0x32 => (.s, .a)
  | 0x40 => (.blk, .s)
  | 0x50 => (.n, .z)
  | 0x00 => (.z, .z)
  | _ => (.s, .s)

def knownType (t : Nat) : Bool := t ≤ 0x05 || (0x10 ≤ t && t ≤ 0x18) || (0x20 ≤ t && t ≤ 0x23) || (0x30 ≤ t && t ≤ 0x34)
  || t == 0x40 || t == 0x41 || t == 0x50

/-- The session that SESIN or SESOUT names. -/
def CellCfg.sid (c : CellCfg) : Nat := bits c.param 7 0

/-- The nets that a cell drives, as net (analog nets from 4096 on), driver. -/
def cellDrives (m : Img) (c : CellCfg) : List (Nat × Drv) :=
  let one (k : OutKind) (i net : Nat) : List (Nat × Drv) :=
    if net = 0 then [] else
    match k with
    | .s => [(net, ⟨2, true, some (c.slot, i), c.typ == 0x20 && i == 0⟩)]
    | .n => [(net, ⟨2, false, some (c.slot, i), false⟩)]
    | .byIn => [(net, ⟨2, true, some (c.slot, i), false⟩)]
    | .a => [(4096 + net, ⟨2, false, some (c.slot, i), false⟩)]
    | .blk => (List.range (8 * m.sesLen c.sid)).map (fun b => (net + b, ⟨3, true, some (c.slot, i), true⟩))
    | .z => []
  one (outKinds c.typ).1 0 c.out0 ++ one (outKinds c.typ).2 1 c.out1

/-- The fixed drivers (R118). -/
def fixedDrives (m : Img) : List (Nat × Drv) :=
  let f (net : Nat) (cls : Bool) : Nat × Drv := (net, ⟨1, cls, none, false⟩)
  [f 0 true, f 1 false] ++ (List.range 16).map (fun i => f (112 + i) false)
    ++ ((allChans.filter (fun n => let k := m.chans.mode n; k == 1 || k == 2 || k == 3)).map
        (fun n => f (16 + n) (m.chans.mode n != 3)))
    ++ (List.range 96).map (fun i => f (4096 + i) true)

/-- Enter a driver where the net has none yet. -/
def addDrv (t : Tab Drv) (e : Nat × Drv) : Tab Drv := if (t.find e.1).isSome then t else t.set e.1 e.2

def Img.cells (m : Img) : List CellCfg := (List.range m.cellCount).map m.cell

/-- R122 for AND, OR, TON, TOF and LATCH: of class safety only when every connected input is. -/
def lowerClasses (cells : List CellCfg) (t : Tab Drv) : Tab Drv :=
  cells.foldl (fun t c =>
    if 1 ≤ c.typ ∧ c.typ ≤ 5 ∧ c.out0 ≠ 0 then
      match t.find c.out0 with
      | some d =>
        if d.slot = some (c.slot, 0) ∧ d.cls
           ∧ c.ins.any (fun i => i != 0 && (match t.find i with | some e => !e.cls | none => true))
        then t.set c.out0 { d with cls := false } else t
      | none => t
    else t) t

/-- The same until nothing changes, at most as often as there are cells. -/
def settleClasses (cells : List CellCfg) : Nat → Tab Drv → Tab Drv
  | 0, t => t
  | k + 1, t => let t' := lowerClasses cells t; if t' = t then t else settleClasses cells k t'

/-- Every driven net. -/
def drivers (m : Img) : Tab Drv :=
  let cells := m.cells
  let t := ((fixedDrives m) ++ cells.flatMap (cellDrives m)).foldl addDrv Tab.empty
  settleClasses cells (cells.length + 1) t

/-! ### Cells -/

/-- A connection that a cell reads: net (analog nets from 4096 on), use, back input, byte offset. -/
structure Conn where
  net  : Nat
  use  : Use
  back : Bool
  offs : Nat
  deriving DecidableEq, Repr

/-- The byte of an input field in a cell entry. -/
def inByte (i : Nat) : Nat := 2 + 3 * i / 2

/-- The parameter block's offset in the image. -/
def Img.blockAt (m : Img) (c : CellCfg) : Nat := m.secOff secParams + bits c.param 21 0

/-- The parameter nets of a cell (R165): net, use, offset; an optional one at net 0 is unconnected. -/
def paramNets (m : Img) (c : CellCfg) : List Conn :=
  let w (i : Nat) := c.words.getD i 0
  let po := m.secOff secCells + 16 * c.slot + 11
  let wo (i : Nat) := m.blockAt c + 4 * i
  let opt (net : Nat) (u : Use) (o : Nat) : List Conn := if net = 0 then [] else [⟨net, u, false, o⟩]
  match c.typ with
  | 0x15 | 0x16 => opt (bits c.param 39 28) .reset po
  | 0x18 => opt (bits (w 0) 27 16) .safe (wo 0) ++ [⟨bits (w 0) 11 0, .safe, false, wo 0⟩]
  | 0x31 => opt (bits (w 0) 27 16) .any (wo 0) ++ opt (bits (w 0) 11 0) .reset (wo 0) ++ opt (bits (w 1) 11 0) .safe (wo 1)
  | 0x32 => opt (bits (w 0) 27 16) .reset (wo 0)
      ++ (List.range (c.words.length - 2)).map (fun k => ⟨bits (w (k + 2)) 11 0, .safe, false, wo (k + 2)⟩)
  | 0x33 => opt (bits (w 0) 27 16) .reset (wo 0)
  | _ => []

/-- The connections of the four inputs. -/
def inputConns (m : Img) (c : CellCfg) : List Conn :=
  let o := m.secOff secCells + 16 * c.slot
  (inKinds c.typ).zipIdx.flatMap (fun e =>
    let net := c.ins.getD e.2 0
    let mk (net : Nat) (u : Use) : Conn := ⟨net, u, bitAt c.back e.2, o + inByte e.2⟩
    match e.1 with
    | .s => [mk net .safe]
    | .so => if net = 0 then [] else [mk net .safe]
    | .n => [mk net .any]
    | .no => if net = 0 then [] else [mk net .any]
    | .c => [mk net .byClass]
    | .co => if net = 0 then [] else [mk net .byClass]
    | .r => if net = 0 then [] else [mk net .reset]
    | .a => [mk (4096 + net) .safe]
    | .blk => (List.range (8 * m.sesLen c.sid)).map (fun b => mk (net + b) .safe)
    | .z => [])

/-- Every connection that a cell reads. -/
def allConns (m : Img) (c : CellCfg) : List Conn := inputConns m c ++ paramNets m c

/-- One connection: driven, in order, and of the right class and safe value (R120, R121, R130, R164, R167); a reset net is a
safety input too. -/
def checkConn (m : Img) (t : Tab Drv) (slot : Nat) (k : Conn) : Chk :=
  match t.find k.net with
  | none => some (0x0B, k.offs)
  | some d =>
    need (k.back || (match d.slot with | some e => decide (e.1 < slot) | none => true)) 0x0E k.offs
    <|> (match k.use with
         | .any => none
         | .byClass => need (!(d.kind == 3 && m.safeVal k.net)) 0x0D k.offs
         | .safe => need (d.cls && !(d.kind == 3 && m.safeVal k.net)) 0x0D k.offs
         | .reset => need (d.reset && !(d.kind == 3 && m.safeVal k.net)) 0x0D k.offs)

/-- The four input fields: unused or unconnected ones name net 0 without a back bit; analog indexes (R127). An input that the
type uses but whose parameters give it no work (BAND `in1` with `lat` 0, SESIN `in0` with `rr` 0) may be connected (DESIGN
CHOICE, log 52). -/
def checkInputFields (m : Img) (c : CellCfg) : Chk :=
  let o := m.secOff secCells + 16 * c.slot
  need ((c.typ != 0x01 && c.typ != 0x02) || c.ins.any (· != 0)) 0x0A (o + inByte 0)
  <|> (inKinds c.typ).zipIdx.findSome? (fun e =>
    let net := c.ins.getD e.2 0
    let back := bitAt c.back e.2
    let at_ := o + inByte e.2
    match e.1 with
    | .z => need (net == 0 && !back) 0x0A at_
    | .so | .no | .co | .r => need (net != 0 || !back) 0x0A at_
    | .a => need (net < 256) 0x0A at_
    | .blk =>
      let n := 8 * m.sesLen c.sid
      if n = 0 then need (net == 0 && !back) 0x0A at_
      else need (net != 0) 0x0D at_ <|> need (net + n ≤ 4096) 0x0A at_
    | _ => none)

/-- The two output fields (R118, R127, R129). Every output may be left unconnected, those too that the tables do not mark optional
(DESIGN CHOICE, log 52). -/
def checkOutputs (m : Img) (t : Tab Drv) (c : CellCfg) : Chk :=
  let o := m.secOff secCells + 16 * c.slot + 8
  let mine (net i : Nat) : Bool := match t.find net with | some d => d.slot == some (c.slot, i) | none => true
  let one (k : OutKind) (i net : Nat) : Chk :=
    match k with
    | .z => need (net == 0) 0x0A (o + i)
    | .a => need (net == 0 || (96 ≤ net && net < 256)) 0x0A (o + i)
        <|> need (net == 0 || mine (4096 + net) i) 0x0B (o + i)
    | .blk =>
      let n := 8 * m.sesLen c.sid
      if n = 0 then need (net == 0) 0x0A (o + i)
      else need (128 ≤ net && net + n ≤ 4096) 0x0A (o + i)
        <|> need ((List.range n).all (fun b => mine (net + b) i)) 0x0B (o + i)
    | _ => need (net == 0 || 128 ≤ net) 0x0A (o + i) <|> need (net == 0 || mine net i) 0x0B (o + i)
  one (outKinds c.typ).1 0 c.out0 <|> one (outKinds c.typ).2 1 c.out1

/-- A field range. -/
def inRange (w hi lo a b : Nat) : Bool := a ≤ bits w hi lo && bits w hi lo ≤ b

/-- Reserved bits of an inline parameter: the fields marked reserved in the type's table. -/
def paramReserved (t p : Nat) : Bool :=
  if isDualT t then bits p 39 35 == 0 && !bitAt p 31
  else match t with
  | 0x17 | 0x20 | 0x22 => bits p 39 32 == 0
  | 0x23 => bits p 39 33 == 0 && !bitAt p 31
  | 0x30 => bits p 39 6 == 0
  | 0x40 => bits p 39 33 == 0 && bits p 31 8 == 0
  | 0x41 => bits p 39 8 == 0
  | 0x50 => bits p 39 20 == 0
  | _ => true
where
  isDualT (t : Nat) : Bool := 0x10 ≤ t && t ≤ 0x14

/-- Ranges of an inline parameter, without what concerns channels (R170 to R209). A TON or TOF whose bits above the 31 of its time
are not 0 is refused with 0x0A (DESIGN CHOICE, log 52). -/
def paramRange (c : CellCfg) : Bool :=
  let p := c.param
  match c.typ with
  | 0x01 | 0x02 | 0x05 | 0x21 => p == 0
  | 0x03 | 0x04 => bits p 39 31 == 0 && bits p 30 0 != 0
  | 0x10 | 0x11 | 0x12 => bits p 34 33 == 0 && inRange p 30 0 100 30000000
  | 0x13 => bits p 34 33 == 0 && bitAt p 32
      && (if c.ins.getD 1 0 = 0 then bits p 30 0 == 0 else inRange p 30 0 100 30000000)
  | 0x14 => inRange p 30 0 100 30000000
  | 0x15 => inRange p 27 16 1 4095 && inRange p 15 0 0 60000
  | 0x16 => inRange p 27 16 1 1000 && inRange p 15 0 1 500
  | 0x17 => inRange p 31 16 1 6000 && inRange p 15 0 1 4000
  | 0x20 => inRange p 31 16 200 5000 && inRange p 15 0 50 1000 && bits p 15 0 < bits p 31 16
  | 0x22 => inRange p 31 16 1 1000 && inRange p 15 0 1 1000
  | 0x23 => if bitAt p 32 then inRange p 30 0 1 30000000 else bits p 30 0 == 0
  | 0x30 => bits p 5 0 < 48
  | 0x34 => signed 16 (bits p 31 16) ≤ 8190 && -8191 ≤ signed 16 (bits p 15 0)
      && signed 16 (bits p 15 0) + 2 * (bits p 38 32 : Int) < signed 16 (bits p 31 16)
  | 0x50 => (List.range 5).all (fun i => bits p (4 * i + 3) (4 * i) ≤ 5)
  | _ => true

/-- Word count, reserved bits and ranges of the words of a block (R126, R188, R195, R200, R203). -/
def blockWords (t n : Nat) : Nat :=
  match t with
  | 0x18 => 3
  | 0x31 => 7
  | 0x33 => 4
  | _ => n + 2

/-- The bits of a block word that belong to a field. -/
def wordUsed (t i : Nat) : Nat :=
  match t, i with
  | 0x18, 0 => 0x1FFF0FFF
  | 0x18, 1 => 0xFFFFFFFF
  | 0x18, 2 => 0xFFFF
  | 0x31, 0 => 0x2FFF0FFF
  | 0x31, 1 => 0xFFF
  | 0x31, 2 => 0xFFFFFFFF
  | 0x31, 3 => 0x3FFFFFFF
  | 0x31, 4 => 0xFFFF3FFF
  | 0x31, 5 => 0xFFFF
  | 0x31, 6 => 0xFFFFFFFF
  | 0x33, 0 => 0x0FFFFF1F
  | 0x33, _ => 0xFFFFFFFF
  | 0x32, 0 => 0x0FFFFF3F
  | 0x32, 1 => 0xFFFFFFFF
  | _, _ => 0xFFF

/-- Two channels have identical filter settings and identical source selection (R92). -/
def sameJudged (x : ChanCfgs) (n k : Nat) : Bool := x.filt n == x.filt k && bits (x.cfg n) 15 14 == bits (x.cfg k) 15 14

/-- The range of a word of a parameter block. A time above its range is refused with 0x0A, also where it is above 2^31 − 1, which 0x12
names for a window (R87; DESIGN CHOICE, log 52). -/
def wordRange (m : Img) (c : CellCfg) (i w : Nat) : Bool :=
  match c.typ, i with
  | 0x18, 1 => inRange w 31 16 1 4000 && inRange w 15 0 1 4000
  | 0x18, 2 => inRange w 15 0 1 6000
  | 0x31, 1 => bits (c.words.getD 0 0) 27 16 == 0 || bits w 11 0 != 0
  | 0x31, 2 => inRange w 31 0 1000 2000000
  | 0x31, 3 => inRange w 29 20 10 500 && inRange w 19 0 1000 1000000
  | 0x31, 4 => inRange w 31 16 1 8190 && inRange w 13 0 1 8191
  | 0x31, 5 => inRange w 15 0 1 8190
  | 0x31, 6 => inRange w 31 0 100000 30000000
  | 0x33, 0 => bits w 4 0 < 24 && m.chans.mode (2 * bits w 4 0) == 7
  | 0x33, 1 => inRange w 31 0 1000 10000000
  | 0x33, 2 => inRange w 31 0 1000 1000000
  | 0x33, 3 => inRange w 31 0 1 0x7FFFFFFF
  | 0x32, 0 => inRange w 5 0 2 32
  | 0x32, 1 => inRange w 31 0 100 1000000
  | 0x32, _ =>
    let n := bits w 11 0 - 16
    let n0 := bits (c.words.getD 2 0) 11 0 - 16
    inRange w 11 0 16 63 && m.chans.mode n == 1 && sameJudged m.chans n n0
  | _, _ => true

/-- The parameter of a cell: inline or block (R126). -/
def checkParam (m : Img) (cells : List CellCfg) (c : CellCfg) : Chk :=
  let o := m.secOff secCells + 16 * c.slot
  let po := o + 11
  let x := m.chans
  if c.typ = 0x18 ∨ c.typ = 0x31 ∨ c.typ = 0x32 ∨ c.typ = 0x33 then
    let off := bits c.param 21 0
    let len := bits c.param 37 22
    need c.ptr 0x0A (o + 1)
    <|> need (bits c.param 39 38 == 0) 0x08 po
    <|> need (off % 4 == 0 && 1 ≤ len && off + 4 * len ≤ m.secLen secParams) 0x0A po
    <|> need (len == blockWords c.typ (bits (c.words.getD 0 0) 5 0)) 0x0A po
    <|> c.words.zipIdx.findSome? (fun e =>
          need (e.1 &&& wordUsed c.typ e.2 == e.1) 0x08 (m.blockAt c + 4 * e.2)
          <|> need (wordRange m c e.2 e.1) 0x0A (m.blockAt c + 4 * e.2))
    <|> need (c.typ != 0x31 || (48 ≤ c.ins.getD 2 0 && c.ins.getD 2 0 < 96)) 0x0A (o + inByte 2)
    <|> need (c.typ != 0x31 || c.ins.getD 3 0 + 48 == c.ins.getD 2 0) 0x0A (o + inByte 3)
  else
    need (!c.ptr) 0x0A (o + 1)
    <|> need (paramReserved c.typ c.param) 0x08 po
    <|> need (paramRange c) 0x0A po
    <|> (match c.typ with
         | 0x12 =>
           let a := c.ins.getD 0 0
           let b := c.ins.getD 1 0
           let ok (n : Nat) : Bool := 16 ≤ n && n ≤ 63 && x.mode (n - 16) == 1 && bits (x.cfg (n - 16)) 15 14 == 3
           need (ok a) 0x0A (o + inByte 0)
           <|> need (ok b && bits (x.filt (a - 16)) 27 16 == bits (x.filt (b - 16)) 27 16) 0x0A (o + inByte 1)
         | 0x30 =>
           let ch := bits c.param 5 0
           need (x.mode ch == 4 && x.lead ch == ch
             && !(cells.any (fun d => d.typ == 0x30 && d.slot < c.slot && bits d.param 5 0 == ch))) 0x09 po
         | 0x40 | 0x41 => need (m.sesOff c.sid).isSome 0x0A po
         | _ => none)

/-- A NULL entry is all zero (R124): the first field that is not. -/
def checkNull (m : Img) (o : Nat) : Chk :=
  let w := Img.le m o 16
  [(15, 8, 1), (27, 16, 2), (39, 28, 3), (51, 40, 5), (63, 52, 6), (75, 64, 8), (87, 76, 9), (127, 88, 11)].findSome?
    (fun e => need (bits w e.1 e.2.1 == 0) 0x0A (o + e.2.2))

/-- The inputs whose order a cell judges (R163, R175, R185, R186, R189), as net and byte offset; CHAIN taps are checked with their
words. -/
def judgedNets (m : Img) (c : CellCfg) : List (List (Nat × Nat)) :=
  let o := m.secOff secCells + 16 * c.slot
  let i (k : Nat) : Nat × Nat := (c.ins.getD k 0, o + inByte k)
  match c.typ with
  | 0x05 => [[i 0, i 1]]
  | 0x21 => [[i 0, i 1]]
  | 0x16 => [[i 0, i 1, i 2, i 3]]
  | 0x17 => [[i 1, i 2]]
  | 0x18 => [[i 1, i 2], [i 3, (bits (c.words.getD 0 0) 11 0, m.blockAt c)]]
  | _ => []

/-- Channels whose order a cell judges have identical filter settings and source selection (R92; DEDUCED, log 14). -/
def checkJudged (m : Img) (c : CellCfg) : Chk :=
  (judgedNets m c).findSome? (fun l =>
    let chs := l.filter (fun e => 16 ≤ e.1 && e.1 ≤ 63)
    match chs with
    | [] => none
    | (n, _) :: r => r.findSome? (fun e => need (sameJudged m.chans (e.1 - 16) (n - 16)) 0x0A e.2))

/-- One cell entry, field by field. Of several bad fields the first in this order is named: type, flags, inputs, outputs, parameter, nets
whose order is judged, then drivers, order and class of the connections (DESIGN CHOICE, log 52). -/
def checkCell (m : Img) (cells : List CellCfg) (t : Tab Drv) (c : CellCfg) : Chk :=
  let o := m.secOff secCells + 16 * c.slot
  need (knownType c.typ) 0x0A o
  <|> (if c.typ = 0 then checkNull m o
       else
         need ((m (o + 1)) &&& 0x05 == 0) 0x08 (o + 1)
         <|> checkInputFields m c
         <|> checkOutputs m t c
         <|> checkParam m cells c
         <|> checkJudged m c
         <|> (allConns m c).findSome? (checkConn m t c.slot))

/-! ### Channels, groups, nets, sessions, streams, parameters -/

/-- One CHANNELS entry (R141). -/
def checkChannel (m : Img) (t : Tab Drv) (n : Nat) : Chk :=
  let o := m.chanOff n
  let x := m.chans
  let q := m.qnet n
  need (reservedZero (R.CHN_CFG n) (x.cfg n)) 0x08 o
  <|> need (cfgOwnOk x n && cfgPartnersOk x n && (x.mode n == 0 || x.use (groupOf n))) 0x09 o
  <|> need (reservedZero (R.CHN_FILT n) (x.filt n)) 0x08 (o + 4)
  <|> need (filtOk x n) 0x09 (o + 4)
  <|> need (bits (x.cfg n) 15 14 != 2 || bits m.tpWord 9 0 + 20 ≤ bits (x.filt n) 27 16) 0x12 (o + 4)
  <|> need (reservedZero (R.CHN_OCFG n) (x.ocfg n)) 0x08 (o + 8)
  <|> need (ocfgOk x n) 0x09 (o + 8)
  <|> need (reservedZero (R.CHN_LST n) (x.lst n)) 0x08 (o + 12)
  <|> need (lstOk x n) 0x09 (o + 12)
  <|> need (q < 4096 && (x.mode n == 5 || q == 0)) 0x09 (o + 16)
  <|> need (x.mode n != 5 || (t.find q).isSome) 0x0B (o + 16)
  <|> need (m.zeroes (o + 18) 6) 0x08 (o + 18)

/-- Field ranges of FSG_CFG (R245, R271). -/
def fsgOk (w : Nat) : Bool := inRange w 29 16 10 10000 && inRange w 15 7 50 500 && inRange w 3 0 0 10

/-- One GROUPS entry (R142, R245). -/
def checkGroup (m : Img) (g : Nat) : Chk :=
  let o := m.secOff secGroups + 8 * g
  let w := Img.le m o 4
  let w0 := Img.le m (m.secOff secGroups) 4
  need (reservedZero (R.FSG_CFG g) w) 0x08 o
  <|> need (fsgOk w && bits w 29 16 == bits w0 29 16 && bits w 15 7 == bits w0 15 7) 0x09 o
  <|> need (m.zeroes (o + 4) 4) 0x08 (o + 4)

/-- The dark-test slots of a round (R245): two for each PN unit, one for each channel of a PP pair. -/
def dtSlotCount (x : ChanCfgs) : Nat :=
  allChans.foldl (fun k n =>
    if x.mode n = 4 then k + (if x.otype n = 2 then 1 else if x.lead n = n then 2 else 0) else k) 0

/-- The groups, then the length of the dark-test round (R245). -/
def checkGroups (m : Img) : Chk :=
  let w := Img.le m (m.secOff secGroups) 4
  (List.range 6).findSome? (checkGroup m)
  <|> need (dtSlotCount m.chans * (bits w 15 7 + 50) ≤ bits w 29 16 * 1000) 0x12 (m.secOff secGroups)

/-- One net attribute byte (R144): net index, analog nets from 4096 on. -/
def checkNet (m : Img) (t : Tab Drv) (i : Nat) : Chk :=
  let o := m.secOff secNets + i
  let a := m.attr i
  let d := t.find i
  let kind := match d with | some d => d.kind | none => 0
  let cls := match d with | some d => d.cls | none => false
  need (a < 16) 0x08 o
  <|> need (bits a 3 2 == kind && (a % 2 == 0 || kind == 3)) 0x0C o
  <|> need (bitAt a 1 == cls) (if kind = 2 ∨ kind = 3 then 0x0D else 0x0C) o

/-- The bytes of a peer address that a framing uses (R145). -/
def peerLen (xport : Nat) : Nat := if xport = 1 then 4 else if xport = 2 then 16 else 6

/-- Number of bits set in the lowest n. -/
def popCount (w n : Nat) : Nat := ((List.range n).filter (fun i => bitAt w i)).length

/-- One SESSIONS entry (R129, R145, R275, R279); `before` holds the entries ahead of it. -/
def checkSession (m : Img) (cells : List CellCfg) (before : List Nat) (o : Nat) : Chk :=
  let b (k : Nat) : Nat := (m (o + k)).toNat
  let f (k n : Nat) : Nat := Img.le m (o + k) n
  let role := b 1
  let per := f 8 4
  let lim := if role = 2 then f 12 4 else f 16 4
  let limOk := 500 ≤ lim && lim ≤ 10000000 && 2 * per ≤ lim && lim ≤ 32000 * per
  let same (p : Nat) : Bool := m p == m o
  let sum := (before ++ [o]).foldl (fun s p => if m (p + 1) == m (o + 1) then s + 8 * (m (p + 2)).toNat else s) 0
  let named := (cells.filter (fun c => (c.typ == 0x40 || c.typ == 0x41) && c.sid == b 0))
  need (b 0 < 160 && !before.any same
      && named.length == 1 && named.all (fun c => c.typ == (if role = 2 then 0x40 else 0x41))) 0x10 o
  <|> need (role == 1 || role == 2) 0x10 (o + 1)
  <|> need (b 2 ≤ 16 && sum ≤ 4096) 0x10 (o + 2)
  <|> need (1 ≤ b 3 && b 3 ≤ 3) 0x10 (o + 3)
  <|> need (f 4 4 != 0 && !before.any (fun p => m.bytes (p + 1) 1 == m.bytes (o + 1) 1 && m.bytes (p + 3) 5 == m.bytes (o + 3) 5
        && m.bytes (p + 0x16) 2 == m.bytes (o + 0x16) 2 && m.bytes (p + 0x20) 16 == m.bytes (o + 0x20) 16)) 0x10 (o + 4)
  <|> need (125 ≤ per && per ≤ 1000000) 0x10 (o + 8)
  <|> need (if role = 2 then limOk else f 12 4 == 0) 0x10 (o + 12)
  <|> need (if role = 1 then limOk else f 16 4 == 0) 0x10 (o + 16)
  <|> need (inRange (f 0x14 2) 11 0 1 4094 && !bitAt (f 0x14 2) 12) 0x10 (o + 0x14)
  <|> need (f 0x16 2 ≥ if b 3 = 3 then 0x0600 else 1024) 0x10 (o + 0x16)
  <|> need (b 0x18 ≤ 1) 0x10 (o + 0x18)
  <|> need (b 0x19 < 32) 0x08 (o + 0x19)
  <|> need (if b 0x18 = 0 then popCount (b 0x19) 5 == 1 else 2 ≤ popCount (b 0x19) 5) 0x10 (o + 0x19)
  <|> need (if b 0x18 = 0 then f 0x1A 2 == 0
            else f 0x1A 2 != 0 && !before.any (fun p => m.bytes (p + 0x1A) 2 == m.bytes (o + 0x1A) 2)) 0x10 (o + 0x1A)
  <|> need (m.zeroes (o + 0x1C) 4) 0x08 (o + 0x1C)
  <|> need (!m.zeroes (o + 0x20) (peerLen (b 3)) && m.zeroes (o + 0x20 + peerLen (b 3)) (16 - peerLen (b 3))) 0x10 (o + 0x20)
  <|> need (m.zeroes (o + 0x30) 16) 0x08 (o + 0x30)

/-- The entries of a section in order, each with those ahead of it. -/
def checkEntries (f : List Nat → Nat → Chk) : List Nat → List Nat → Chk
  | _, [] => none
  | before, o :: r => f before o <|> checkEntries f (before ++ [o]) r

/-- Samples per set and sets per frame of a STREAM entry (R334). -/
def Img.strM (m : Img) (o : Nat) : Nat :=
  popCount (Img.le m (o + 4) 8) 48 * (if (m (o + 3)).toNat = 3 then 2 else 1)
def nsetOf (k : Nat) : Nat := min (714 / k) 256

/-- Wire rate of a stream in bits per microsecond, as numerator and denominator (R337). -/
def strRate (m : Img) (o : Nat) : Nat × Nat :=
  let k := m.strM o
  ((114 + 2 * k * nsetOf k) * 8, nsetOf k * 2 ^ (m (o + 2)).toNat)

/-- The sum of rates of streams is at most 2000 bits per microsecond (R337). -/
def ratesOk (l : List (Nat × Nat)) : Bool :=
  let den := l.foldl (fun d e => d * e.2) 1
  l.foldl (fun s e => s + e.1 * (den / e.2)) 0 ≤ 2000 * den

/-- One STREAM entry (R146, R279, R337). -/
def checkStream (m : Img) (before : List Nat) (o : Nat) : Chk :=
  let b (k : Nat) : Nat := (m (o + k)).toNat
  let all := before ++ [o]
  let port (p : Nat) : List (Nat × Nat) := (all.filter (fun q => bitAt (m (q + 0x14)).toNat p)).map (strRate m)
  need (!before.any (fun p => m.bytes p 2 == m.bytes o 2)) 0x11 o
  <|> need (b 2 ≤ 10) 0x11 (o + 2)
  <|> need (1 ≤ b 3 && b 3 ≤ 3) 0x11 (o + 3)
  <|> need (m.zeroes (o + 10) 2) 0x08 (o + 4)
  <|> need (m.strM o != 0) 0x11 (o + 4)
  <|> need (inRange (Img.le m (o + 0x12) 2) 11 0 1 4094 && !bitAt (Img.le m (o + 0x12) 2) 12) 0x11 (o + 0x12)
  <|> need (b 0x14 < 32) 0x08 (o + 0x14)
  <|> need (b 0x14 != 0) 0x11 (o + 0x14)
  <|> need (m.zeroes (o + 0x15) 11) 0x08 (o + 0x15)
  <|> need (ratesOk (all.map (strRate m)) && (List.range 5).all (fun p => ratesOk (port p))) 0x11 o

/-- PARAMS words that no cell points to (R147). -/
def checkParams (m : Img) (cells : List CellCfg) : Chk :=
  let blocks := (cells.filter (·.ptr)).map (fun c => (bits c.param 21 0 / 4, bits c.param 37 22))
  (List.range (m.secLen secParams / 4)).findSome? (fun i =>
    need (blocks.any (fun e => e.1 ≤ i && i < e.1 + e.2) || Img.le m (m.secOff secParams + 4 * i) 4 == 0)
      0x08 (m.secOff secParams + 4 * i))

/-- Step 7, in the order of R150. -/
def checkSections (m : Img) : Chk :=
  let cells := m.cells
  let t := drivers m
  checkSettings m
  <|> allChans.findSome? (checkChannel m t)
  <|> checkGroups m
  <|> cells.findSome? (checkCell m cells t)
  <|> (List.range 4352).findSome? (checkNet m t)
  <|> checkEntries (checkSession m cells) [] m.sesOffs
  <|> checkEntries (checkStream m) [] m.strOffs
  <|> checkParams m cells

/-! ### Step 8: evaluation length (R133) -/

/-- The rank of every cell, by slot. -/
def ranks (m : Img) : Tab Nat :=
  let t := drivers m
  m.cells.foldl (fun r c =>
    if c.typ = 0 then r
    else
      let top := (allConns m c).foldl (fun k e =>
        if e.back then k
        else match t.find e.net with
          | some d => (match d.slot with | some sl => max k (r.get 0 sl.1) | none => k)
          | none => k) 0
      r.set c.slot (top + 1)) Tab.empty

def topRank (r : Tab Nat) : Nat := r.entries.foldl (fun k e => max k e.2) 0

/-- E of R133. -/
def evalLen (r : Tab Nat) : Nat :=
  let n (k : Nat) : Nat := (r.entries.filter (fun e => e.2 == k)).length
  (List.range (topRank r)).foldl (fun s k => s + (n (k + 1) + 15) / 16) 0 + topRank r + 16

/-! ### The whole check -/

/-- Steps 1 to 7 in order, with what step 4 to 6 compare against. -/
def checkVintage (m : Img) (sealFp : Nat) (lvl : Option Nat) (required : Bool) (cust : Option (List Byte)) : Chk :=
  checkHeader m <|> checkLayout m <|> checkHash m
  <|> need (m.fp == sealFp) 0x04 0x0C
  <|> checkLevel m lvl <|> checkSignature m required cust <|> checkSections m

/-- Non-NULL cells, session entries and stream entries (PRS_VUSE). -/
def vuseOf (m : Img) : Nat × Nat × Nat :=
  ((m.cells.filter (fun c => c.typ != 0)).length, m.sesOffs.length, m.strOffs.length)

end Sys2Proof.Machine
end

