-- ==== Sys2Proof/Machine/BootRom.lean ====
section
/-! DEFINITION. The boot ROM (R472 to R476, R485): the firmware image and its checks, and the mailbox commands that
it serves while it has control. -/

namespace Sys2Proof.Machine

/-! ### The firmware image (R473, R474) -/

/-- The longest firmware image (R473). -/
def fwMax : Nat := 196608

def fwLen (m : Img) : Nat := m.le 0x08 4
def fwVer (m : Img) : Word := BitVec.ofNat 32 (m.le 0x0C 4)
def fwLoad (m : Img) : Nat := m.le 0x10 4
def fwInitOff (m : Img) : Nat := m.le 0x14 4
def fwRunOff (m : Img) : Nat := m.le 0x18 4

/-- Size of the code (R473). -/
def fwCode (m : Img) : Nat := fwLen m - 208

/-- The hash of an image (R473). -/
def fwHash (m : Img) : List Byte :=
  sha256 (m.bytes 0 0x20 ++ List.replicate 32 0 ++ m.bytes 0x40 (fwLen m - 208))

/-- Header, lengths and entries; `avail` is how many bytes the source holds (R474). -/
def fwFormOk (m : Img) (avail : Nat) : Bool :=
  let n := fwLen m
  m.bytes 0 4 == [0x53, 0x54, 0x56, 0x46] && m.le 4 2 == 0x0100 && m.zeroes 6 2 && m.zeroes 0x1C 4
    && 208 ≤ n && n ≤ fwMax && n % 16 == 0 && n ≤ avail
    && fwLoad m % 4 == 0 && fwLoad m + fwCode m ≤ 0x40000
    && fwLoad m ≤ fwInitOff m && fwInitOff m < fwLoad m + fwCode m
    && fwLoad m ≤ fwRunOff m && fwRunOff m < fwLoad m + fwCode m

/-- The signature under the vendor key (R148, R474). -/
def fwSigOk (m : Img) (vendor : List Byte) : Bool :=
  let o := fwLen m - 144
  m o == 1 && m.zeroes (o + 1) 3 && m.zeroes (o + 0x84) 12
    && sha256 (m.bytes (o + 4) 64) == vendor
    && ecdsaVerify (m.be (o + 4) 32) (m.be (o + 0x24) 32) (m.be (o + 0x44) 32) (m.be (o + 0x64) 32) (m.bytes 0x20 32)

/-- The boot ROM accepts an image (R474). -/
def fwAccepted (m : Img) (avail : Nat) (vendor : List Byte) : Bool :=
  fwFormOk m avail && m.bytes 0x20 32 == fwHash m && fwSigOk m vendor

/-- Bytes as an image: beyond the end it reads 0. -/
def imgOf (l : List Byte) : Img := fun a => l.getD a 0

/-- The image's records in the Cask, in key order: the live PARAM records from the first firmware key upward (R475). -/
def imageRecs (s : State) : List JRec :=
  let rs := (liveParams s.cask.recs).filter (fun (r : JRec) => fwKey ≤ r.key)
  (rs.foldl (fun (t : Tab JRec) (r : JRec) => t.set r.key r) Tab.empty).entries.map (fun e => e.2)

/-- As many bytes of an image have been read as its header says. -/
def imageWhole (l : List Byte) : Bool := decide (12 ≤ l.length) && decide (fwLen (imgOf l) ≤ l.length)

/-- The image in the Cask (R475): each record is read from its page, with what its codes correct or cannot correct recorded (R374,
R380), until `len` bytes have been read. Where a page cannot be read there is no image (DEDUCED, log 43). -/
def caskImage (s : State) : List Byte × State :=
  let r := (imageRecs s).foldl (fun (a : Option (List Byte) × State) r =>
    match a.1 with
    | none => a
    | some l =>
      if imageWhole l then a
      else
        let p := readPayload a.2 r
        (p.1.map (l ++ ·), p.2)) (some [], s)
  (r.1.getD [], r.2)

/-- The image in SRAM: its header says how far it reaches; none where a word of it cannot be read. -/
def sramImage (s : State) : List Byte × State :=
  match sramBytes s 0 0x40 with
  | (none, s) => ([], s)
  | (some h, s) =>
    let n := min (le h 8 4) fwMax
    match sramBytes s 0 n with
    | (none, s) => ([], s)
    | (some l, s) => (l, s)

/-- Store bytes into a TCM word by word. -/
def fillTcm (s : State) (m off : Nat) (l : List Byte) : State :=
  let n := l.length / 4
  noteRange (s.setRam m ((List.range n).foldl (fun (r : Ram) i =>
    r.store (off + 4 * i) (BitVec.ofNat 32 (le l (4 * i) 4))) (s.ram m))) m (tcmBase + off) (tcmBase + off + 4 * n)

/-- Take an accepted image over: its code goes into both TCMs (R469, R473). -/
def loadFw (s : State) (m : Img) (host : Bool) : State :=
  let code := m.bytes 0x40 (fwCode m)
  let s := fillTcm (fillTcm s mTcmM (fwLoad m) code) mTcmC (fwLoad m) code
  let s := (s.rput R.SYS_FWVER (fwVer m)).fput F.SYS_FWSTAT_vld 1
  let s := (s.fbool F.SYS_FWSTAT_src host).fput F.SYS_FWSTAT_len (fwLen m)
  { s with boot := { s.boot with
      fwEntry := BitVec.ofNat 32 (tcmBase + fwRunOff m)
      fwInit := BitVec.ofNat 32 (tcmBase + fwInitOff m) } }

/-- Both cores go to an address. -/
def jumpCores (s : State) (pc : Word) : State :=
  s.setTnd { s.tnd with main := { s.tnd.main with pc := pc }, chk := { s.tnd.chk with pc := pc } }

/-- The boot ROM hands control to the firmware's run entry (R471). -/
def startFw (s : State) : State :=
  jumpCores { s with boot := { s.boot with fwRun := true } } s.boot.fwEntry

/-- A core with machine timer interrupts armed and a trap handler. -/
def Core.armTimer (handler : Word) (c : Core) : Core :=
  ({ c with csr := c.csr.set csrMtvec handler }.csrBit csrMie 7 true).csrBit csrMstatus 3 true

/-- The init entry is called, with 10 ms to return: the timer is armed, and mtvec holds the boot ROM's own handler, which lies
somewhere in the ROM (R476; log 2). -/
def callInit (s : State) : State :=
  let d := s.draw
  let s := d.2
  let s := (s.rput R.TND_MTCMPL (BitVec.ofNat 32 (s.now + 10000))).rput R.TND_MTCMPH (BitVec.ofNat 32 ((s.now + 10000) / 2 ^ 32))
  let arm := Core.armTimer (BitVec.ofNat 32 (d.1.toNat % 0x4000 * 4))
  let s := s.setTnd { s.tnd with main := arm s.tnd.main, chk := arm s.tnd.chk }
  jumpCores { s with boot := { s.boot with phase := .initCall s.now } } s.boot.fwInit

/-- A refused image in STARTUP: HELD with cause 0x27 (R474). -/
def refuseFw (s : State) : State := deviceFault (s.fput F.SYS_FWSTAT_vld 0) 0x27

/-! ### Mailbox commands (R485) -/

/-- The boot ROM waits for the host to place its firmware (R475). -/
def hostWaits (s : State) : Bool := s.mode == .startup && s.boot.phase == .hostWait

/-- In STARTUP the firmware has control while its init entry runs, and the boot ROM in every other step (R469, R476). -/
def romSteps (s : State) : Bool :=
  s.mode == .startup && match s.boot.phase with
    | .hostWait => true
    | .sealRead _ _ => true
    | _ => false

/-- The boot ROM has control and serves the mailbox (R472, R485); a halted core serves nothing. -/
def romServes (s : State) : Bool :=
  !s.tnd.halted && (s.mode == .held || (s.mode == .twin && !s.boot.fwRun) || romSteps s)

/-- A step of STARTUP in which the boot ROM does not wait for the host: no command is permitted (R485). -/
def romBusy (s : State) : Bool := s.mode == .startup && !hostWaits s

/-- An answer in TND_PMBX. -/
def answer (s : State) (op result detail : Nat) : State :=
  pmbx s (BitVec.ofNat 32 (op % 256 * 2 ^ 24 + result % 256 * 2 ^ 16 + detail % 2 ^ 16))

/-- Command 0x01. -/
def romStatus (s : State) : State :=
  if romBusy s then answer s 1 0xF2 0 else answer s 1 0 (modeCode s.mode * 256 + s.fget F.SYS_FAULT_cause)

/-- An operation of the fuse service by its number. One that is none of the three is refused for the module's state as every request
is (R437), and ends with an open code else. -/
def serviceOp (s : State) (op idx addr lvl : Nat) (o : PulseObs) : State :=
  if op = 1 then serviceProgram s idx addr o
  else if op = 2 then serviceLockOp s idx o
  else if op = 3 then serviceLevel s lvl o
  else if serviceState s op ≠ 0 then serviceEnd s (serviceState s op) 0 0
  else
    let d := s.draw
    serviceEnd d.2 (1 + d.1.toNat % 15) 0 0

/-- Command 0x02: a0 to a3 from SRAM; a call that is cut gives no answer (R440). -/
def romFuse (s : State) (offset : Nat) (o : PulseObs) : State :=
  if s.mode ≠ .held then answer s 2 0xF2 0
  else if s.otp.call then s
  else
    let r : Option (List Byte) × State := if 0x100000 < offset + 16 then (none, s) else sramBytes s (offset / 4 * 4) (offset % 4 + 16)
    match r with
    | (none, s) =>
      let d := s.draw
      answer d.2 2 (1 + d.1.toNat % 15) 0
    | (some l, s) =>
      let l := l.drop (offset % 4)
      let s := serviceOp s (le l 0 4) (le l 4 4) (le l 8 4) (le l 12 4) o
      if s.otp.call then s else answer s 2 (s.fget F.OTP_PCMD_res) (s.fget F.OTP_PRES_blown)

/-- Command 0x03. -/
def romCheck (s : State) : State :=
  if s.mode = .startup then answer s 3 0xF2 0
  else
    let r := caskImage s
    let m := imgOf r.1
    answer r.2 3 (if fwAccepted m r.1.length s.otp.shadow.vendor then 0 else 0x27) (fwVer m).toNat

/-- Command 0x04: in STARTUP the sequence continues with the init entry; in TWIN the image starts in both cores. -/
def romBoot (s : State) : State :=
  if s.mode = .held ∨ romBusy s then answer s 4 0xF2 0
  else
    let r := sramImage s
    let m := imgOf r.1
    let s := r.2
    if fwAccepted m r.1.length s.otp.shadow.vendor then
      let s := loadFw s m true
      if s.mode = .startup then callInit s else startFw s
    else
      let s := answer s 4 0x27 0
      if s.mode = .startup then refuseFw s else s.fput F.SYS_FWSTAT_vld 0

/-- The boot ROM takes a mailbox word as a command. -/
def romCommand (s : State) (w : Word) : State :=
  let op := bits w.toNat 31 24
  if op = 1 then romStatus s
  else if op = 2 then
    let o := drawPulse s
    romFuse o.2 (bits w.toNat 23 0) o.1
  else if op = 3 then romCheck s
  else if op = 4 then romBoot s
  else answer s op 0xF1 0

/-- A write of TND_HMBX; a host's sets `msip`, and the boot ROM takes it where it has control (R346, R485). -/
def mailboxWrite (s : State) (req : Requester) (w : Word) : State :=
  let s := s.rput R.TND_HMBX w
  if isHost req then
    let s := s.fput F.TND_MSIP_msip 1
    if romServes s then romCommand s w else s
  else s

/-- STATUS (R485): the boot ROM serves mailbox command 0x01. -/
def execStatus (s : State) : Out := .next (if romServes s then romStatus s else s)

/-- FUSE_SERVICE (R485): mailbox command 0x02. -/
def execFuseService (offset : BitVec 24) (o : PulseObs) (s : State) : Out :=
  .next (if romServes s then romFuse s offset.toNat o else s)

/-- CHECK_FIRMWARE_IN_THE_CASK (R485): mailbox command 0x03. -/
def execCheckFirmwareInTheCask (s : State) : Out := .next (if romServes s then romCheck s else s)

/-- BOOT_FIRMWARE_FROM_SRAM (R475, R485): mailbox command 0x04. -/
def execBootFirmwareFromSram (s : State) : Out := .next (if romServes s then romBoot s else s)

end Sys2Proof.Machine
end

