-- ==== Sys2Proof/Machine/Cells.lean ====
section
/-! DEFINITION. The safety function cells (R160 to R209, R535): one evaluation of one cell. Inputs and windows
are taken as events in the order of their stamps. The text states Lane A's true terms (R135); Lane B evaluates
the same table on complemented nets and complements what it writes. -/

namespace Sys2Proof.Machine

/-! ### What a cell reads -/

/-- Where a cell input comes from. -/
inductive Src where
  | bool (net : Nat) (back : Bool)
  | ana (net : Nat) (back : Bool)
  | chan (k : Nat)
  deriving DecidableEq, Repr

/-- An input position of a cell. -/
structure CellIn where
  src  : Src
  safe : Bool
  rst  : Bool
  deriving DecidableEq, Repr

/-- What an evaluation sees: the snapshot, the nets so far, and the nets of the previous cycle (R131); `bR` is the entry
stamp (R163), `old` the earliest stamp that a change still takes. -/
structure Env where
  img    : Img
  first  : Bool
  b      : Stamp
  bNat   : Tick
  bR     : Stamp
  old    : Stamp
  bnet   : Nat → BNet
  anet   : Nat → ANet
  pbnet  : Nat → BNet
  panet  : Nat → ANet
  valid  : Nat → BNet
  edges  : Nat → Int × List (Tick × Int)
  ses    : Nat → SesView
  unit   : Nat → List Nat

/-- A cell under evaluation: its state and what it reports to the journal (R168, R125). -/
structure CR where
  c   : CellSt
  log : List (List Nat)

/-- The inputs of one event: before it, after it, and its stamp. -/
structure View where
  was : Nat → BNet
  cur : Nat → BNet
  t   : Stamp

/-- Configuration and surroundings of a cell. -/
structure Ctx where
  cfg : CellCfg
  env : Env

/-- A word of the parameter block. -/
def Ctx.word (x : Ctx) (i : Nat) : Nat := x.cfg.words.getD i 0

def Ctx.par (x : Ctx) (hi lo : Nat) : Nat := bits x.cfg.param hi lo

def Ctx.inNet (x : Ctx) (i : Nat) : Nat := x.cfg.ins.getD i 0

/-- Whether input i is connected (R165). -/
def Ctx.conn (x : Ctx) (i : Nat) : Bool := x.inNet i != 0

def Ctx.bin (x : Ctx) (i : Nat) : Src := .bool (x.inNet i) (bitAt x.cfg.back i)
def Ctx.ain (x : Ctx) (i : Nat) : Src := .ana (x.inNet i) (bitAt x.cfg.back i)

/-- Cell type codes (R128). -/
def isDual (t : Nat) : Bool := 0x10 ≤ t && t ≤ 0x14

/-- The cell types with a trip latch (R166, R168, R206). -/
def Ctx.latched (x : Ctx) : Bool :=
  let t := x.cfg.typ
  isDual t || t == 0x15 || t == 0x16 || t == 0x22 || t == 0x30 || t == 0x31 || t == 0x32 || t == 0x33
    || (t == 0x34 && bitAt x.cfg.param 39)

/-- The cell types with an `ok` output that shows the latch. -/
def hasOk (t : Nat) : Bool := isDual t || t == 0x16 || t == 0x22 || t == 0x30

/-- The input positions of a cell by its type. -/
def Ctx.inputs (x : Ctx) : List CellIn :=
  let s (i : Nat) : CellIn := ⟨x.bin i, true, false⟩
  let n (i : Nat) : CellIn := ⟨x.bin i, false, false⟩
  let r (i : Nat) : CellIn := ⟨x.bin i, true, true⟩
  let p (net : Nat) : CellIn := ⟨.bool net false, true, false⟩
  let rn (net : Nat) : CellIn := ⟨.bool net false, true, true⟩
  let byClass (i : Nat) : CellIn := ⟨x.bin i, x.conn i && bitAt (x.env.img.attr (x.inNet i)) 1, false⟩
  match x.cfg.typ with
  | 0x01 => [byClass 0, byClass 1, byClass 2, byClass 3]
  | 0x02 => [byClass 0, byClass 1, byClass 2, byClass 3]
  | 0x03 => [byClass 0]
  | 0x04 => [byClass 0]
  | 0x05 => [byClass 0, byClass 1]
  | 0x15 => [s 0, s 1, n 2, s 3, rn (x.par 39 28)]
  | 0x16 => [s 0, s 1, s 2, s 3, rn (x.par 39 28)]
  | 0x17 => [s 0, s 1, s 2, s 3]
  | 0x18 => [s 0, s 1, s 2, s 3, p (bits (x.word 0) 11 0), p (bits (x.word 0) 27 16)]
  | 0x20 => [s 0]
  | 0x21 => [n 0, s 1, n 2]
  | 0x22 => [s 0, s 1, r 2]
  | 0x23 => [s 0, s 1]
  | 0x30 => [s 0, s 1, r 2] ++ (x.env.unit (x.par 5 0)).map (fun k => ⟨.chan k, true, false⟩)
  | 0x31 => [s 0, s 1, rn (bits (x.word 0) 11 0), ⟨.bool (bits (x.word 0) 27 16) false, false, false⟩,
             p (bits (x.word 1) 11 0), ⟨x.ain 2, true, false⟩, ⟨x.ain 3, true, false⟩]
  | 0x32 => rn (bits (x.word 0) 27 16) :: (List.range (bits (x.word 0) 5 0)).map (fun k => p (bits (x.word (k + 2)) 11 0))
  | 0x33 => [n 0, rn (bits (x.word 0) 27 16), ⟨.chan (2 * bits (x.word 0) 4 0), true, false⟩,
             ⟨.chan (2 * bits (x.word 0) 4 0 + 1), true, false⟩]
  | 0x34 => ⟨x.ain 0, true, false⟩ :: (if bitAt x.cfg.param 39 then [r 1] else [])
  | 0x40 => if bitAt x.cfg.param 32 then [r 0] else []
  | 0x50 => [n 0, n 1, n 2, n 3]
  | t => if isDual t then [s 0, s 1, r 2] else []

/-- Read one input: an invalid one counts as its safe value (R36, R131, R161). -/
def Ctx.read (x : Ctx) : Src → BNet
  | .bool net back => if back then (if x.env.first then ⟨false, false, 0⟩ else x.env.pbnet net) else x.env.bnet net
  | .ana net back =>
    let a := if back then (if x.env.first then ANet.undriven else x.env.panet net) else x.env.anet net
    ⟨false, a.q, a.t⟩
  | .chan k => let v := x.env.valid k
               ⟨false, v.v, v.t⟩

/-- Read one analog input. -/
def Ctx.analog (x : Ctx) (i : Nat) : ANet :=
  if bitAt x.cfg.back i then (if x.env.first then ANet.undriven else x.env.panet (x.inNet i))
  else x.env.anet (x.inNet i)

/-! ### Stamps and windows -/

/-- A stamp that stays comparable: one older than 2^30 microticks is carried as 2^30 microticks old (R87). -/
def refresh (b t : Stamp) : Stamp :=
  if 2 ^ 30 ≤ (b - t).toNat ∧ (b - t).toNat < 3 * 2 ^ 30 then b - (2 ^ 30 : Nat) else t

/-- A window has closed at stamp t (R99, R102). -/
def winDone (w : Win) (t : Stamp) : Bool := w.len ≤ (t - w.start).toNat && (t - w.start).toNat < 3 * 2 ^ 30

/-- An event lies inside a window (R99). -/
def Win.holds (w : Win) (t : Stamp) : Bool := (t - w.start).toNat < w.len

/-- What is left of a window that an event meets: nothing where the event lies inside. -/
def meet (w : Option Win) (t : Stamp) : Option Win := w.filter (fun w => !w.holds t)

/-- The stamp at which a window closes (R89). -/
def winEnd (w : Win) : Stamp := w.start + BitVec.ofNat 32 w.len

/-- If an open window has closed at t, what follows with the closing stamp. -/
def onClose (w : Option Win) (t : Stamp) (r : CR) (k : Stamp → CR) : CR :=
  match w with
  | some w => if winDone w t then k (winEnd w) else r
  | none => r

/-- A window of a cell with what its close does. -/
abbrev Closing := (CellSt → Option Win) × (CR → Stamp → CR)

/-- Of the windows that have closed at t, the one that closed first. -/
def firstClosed (l : List Closing) (t : Stamp) (c : CellSt) : Option (Stamp × (CR → Stamp → CR)) :=
  l.foldl (fun (best : Option (Stamp × (CR → Stamp → CR))) k =>
    match k.1 c with
    | none => best
    | some w =>
      if ¬ winDone w t then best
      else match best with
        | none => some (winEnd w, k.2)
        | some (e, f) => if (t - e).toNat < (t - winEnd w).toNat then some (winEnd w, k.2) else some (e, f)) none

/-- Close the windows of a cell that have closed at t, in the order of their ends; a close takes its own window away. -/
def closeWins (l : List Closing) (t : Stamp) (r : CR) : CR :=
  l.foldl (fun r _ => match firstClosed l t r.c with | none => r | some (e, f) => f r e) r

/-- The microtick count of a stamp that lies at or before the boundary. -/
def Ctx.abs (x : Ctx) (t : Stamp) : Nat := x.env.bNat.toNat - (x.env.b - t).toNat

/-! ### Outputs and the trip latch -/

/-- A boolean output takes a value at a stamp (R89). -/
def BNet.put (o : BNet) (v : Bool) (t : Stamp) : BNet := if o.v = v then o else ⟨v, true, t⟩

def CR.out0 (r : CR) (v : Bool) (t : Stamp) : CR := { r with c := { r.c with o0 := r.c.o0.put v t } }
def CR.out1 (r : CR) (v : Bool) (t : Stamp) : CR := { r with c := { r.c with o1 := r.c.o1.put v t } }
def CR.say (r : CR) (l : List Nat) : CR := { r with log := r.log ++ [l] }
def CR.to (r : CR) (st : Nat) : CR := { r with c := { r.c with st := st } }

/-- The trip latch is set with a code at a stamp (R166, R168): every boolean output goes to its safe value. The codes of a
cell's own section that have set it are bits of `own`. -/
def CR.trip (r : CR) (slot code : Nat) (t : Stamp) : CR :=
  let c := r.c
  let new := if code = 3 then !c.code3 else !bitAt c.own code
  let c := { c with trip := true, tcode := if c.trip then c.tcode else code }
  let c := if code = 3 then { c with code3 := true, g3 := none, acc3 := if c.code3 then c.acc3 else t }
           else { c with own := c.own ||| 2 ^ code, gOwn := none }
  let r := (CR.out0 ⟨c, r.log⟩ false t).out1 false t
  if new then r.say [2, slot, code, t.toNat] else r

/-- The causes of the cell's own codes have gone at a stamp (R166). -/
def CR.gone (r : CR) (cond : Bool) (t : Stamp) : CR :=
  if cond && r.c.own != 0 && r.c.gOwn.isNone then { r with c := { r.c with gOwn := some t } } else r

/-- The stamp from which every cause is gone, if every one is. -/
def CellSt.goneAt (c : CellSt) : Option Stamp :=
  match c.code3, c.g3, c.own != 0, c.gOwn with
  | true, some a, true, some b => some (laterOf a b)
  | true, some a, false, _ => some a
  | false, _, true, some b => some b
  | _, _, _, _ => none

/-- The latch clears at a reset pulse (R166); the record names the code that first set it (R168; DESIGN CHOICE, log 6). -/
def CR.clear (r : CR) (slot : Nat) (t : Stamp) : CR :=
  let code := r.c.tcode
  let r : CR := ⟨{ r.c with trip := false, code3 := false, own := 0, g3 := none, gOwn := none, clr := t, tcode := 0 }, r.log⟩
  r.say [3, slot, code, t.toNat]

/-- An input rises in an event. -/
def View.rise (w : View) (i : Nat) : Bool := !(w.was i).v && (w.cur i).v
def View.fall (w : View) (i : Nat) : Bool := (w.was i).v && !(w.cur i).v
def View.on (w : View) (i : Nat) : Bool := (w.cur i).v

/-- The latest of some stamps (R89). -/
def latestOf (t : Stamp) (l : List Stamp) : Stamp := l.foldl (fun t u => laterOf u t) t

/-- The latest and the earliest of the stamps that some inputs carry (R89), one that changes in the event that of the event. A back
input (R131) may bring a change with a stamp earlier than one seen before it. -/
def View.latest (w : View) (l : List Nat) : Stamp :=
  match l with
  | [] => w.t
  | i :: l => latestOf (w.cur i).t (l.map (fun k => (w.cur k).t))

def View.earliest (w : View) (l : List Nat) : Stamp :=
  match l with
  | [] => w.t
  | i :: l => l.foldl (fun t k => earlierOf (w.cur k).t t) (w.cur i).t

/-- Inputs 0 and 1 are 1, one of them rises in the event, and the last rise of 1 is earlier than that of 0 (R90, R175, R189). -/
def View.setEdge (w : View) : Bool := (w.rise 0 || w.rise 1) && w.on 0 && w.on 1 && later (w.cur 0).t (w.cur 1).t

/-- An input has the value it is awaited at, since a stamp inside a window (R90, R99): its change may come before what opens the
window is seen. -/
def Win.met (w : Win) (n : BNet) (v : Bool) : Bool := n.v == v && w.holds n.t

/-- Two events less than a window's length apart, in either order (R90, R99). -/
def within (len : Nat) (s t : Stamp) : Bool := (Win.mk s len).holds t || (Win.mk t len).holds s

def CR.tripped (r : CR) : Bool := r.c.trip

/-! ### Reset edge, logic and timers (R170 to R175) -/

/-! ### Faults of the cells -/

/-- Two channels, or the single channel of an ESTOP (R179). -/
def Ctx.twoCh (x : Ctx) : Bool := !(x.cfg.typ == 0x13 && !x.conn 1)

def Ctx.antiv (x : Ctx) : Bool := x.cfg.typ == 0x11 || (x.cfg.typ == 0x14 && bitAt x.cfg.param 34)

/-- Whether a channel is active (R176). -/
def Ctx.active (x : Ctx) (v : Nat → BNet) (k : Nat) : Bool :=
  if k = 0 then (v 0).v
  else if ¬ x.twoCh then false
  else if x.antiv then !(v 1).v && (v 1).q else (v 1).v

/-- Every connected channel is inactive and valid. -/
def Ctx.bothOff (x : Ctx) (v : Nat → BNet) : Bool :=
  !x.active v 0 && !x.active v 1 && (v 0).q && (!x.twoCh || (v 1).q)

/-- Both hands are released (R184). -/
def handOn (v : Nat → BNet) (h : Nat) : Bool := (v (2 * h)).v && !(v (2 * h + 1)).v
def handOff (v : Nat → BNet) (h : Nat) : Bool := !(v (2 * h)).v && (v (2 * h + 1)).v
def handOdd (v : Nat → BNet) (h : Nat) : Bool := !handOn v h && !handOff v h

def Ctx.lockTul (x : Ctx) : Nat := x.par 15 0 * 1000
def Ctx.lockTfb (x : Ctx) : Nat := x.par 27 16 * 1000
/-- Put a window's start into a list ordered oldest first, once. -/
def putOpen (b t : Stamp) : List (Stamp × Int) → List (Stamp × Int)
  | [] => [(t, 0)]
  | e :: l => if e.1 = t then e :: l else if (b - e.1).toNat < (b - t).toNat then (t, 0) :: e :: l else e :: putOpen b t l

def Ctx.brTfb (x : Ctx) : Nat := x.word 2
def Ctx.brTp (x : Ctx) : Nat := bits (x.word 3) 19 0
def Ctx.brTeach (x : Ctx) : Bool := bitAt (x.word 0) 29
def Ctx.taps (x : Ctx) : Nat := bits (x.word 0) 5 0
def chLit (v : Nat → BNet) (k : Nat) : Bool := (v (k + 1)).v
def Ctx.chAll (x : Ctx) (v : Nat → BNet) : Bool := (List.range x.taps).all (chLit v)

/-- The causes of a cell's own codes are gone: R177, R183, R184, R190, R194, R195, R196, R199, R202, R205; those of BAND come
with its sample (R206). -/
def goneCond (x : Ctx) (c : CellSt) (v : Nat → BNet) : Bool :=
  match x.cfg.typ with
  | 0x15 => (v 0).v && (v 1).v
  | 0x16 => handOff v 0 && handOff v 1
  | 0x22 => (v 1).v && !(v 0).v
  | 0x30 => (List.range (x.env.unit (x.par 5 0)).length).all (fun i => (v (3 + i)).q)
  | 0x31 => !(v 1).v && (!bitAt c.own 0xB || (v 4).v)
  | 0x32 => x.chAll v
  | 0x33 => !(v 0).v || (c.f4 && (v 2).q && (v 3).q)
  | 0x34 => false
  | _ => x.bothOff v

/-- A feedback window of LOCK (R183) opens at s, unless `in1` has risen inside it already. -/
def lockAwait (x : Ctx) (c : CellSt) (fb : BNet) (s : Stamp) : CellSt :=
  if (Win.mk s x.lockTfb).met fb true then c else { c with opens := putOpen x.env.b s c.opens }

/-- LOCK `out1` falls (R183): the feedback window starts, with the guard open at its closing (`f2`). Every fall has its own. -/
def lockDrop (x : Ctx) (v : Nat → BNet) (t : Stamp) (c : CellSt) : CellSt :=
  let c := { c with s1 := t }
  if (v 0).v then lockAwait x c (v 1) t else { c with f2 := true, s2 := t }

/-- BRAKE `out0` falls (R195): `w3` is the first application window whose fall is still to come, `w4` the last one, inside which
the feedback may be 1; an armature at rest has fallen (DEDUCED, log 22). -/
def brakeDrop (x : Ctx) (c : CellSt) (lifted : Bool) (t : Stamp) : CellSt :=
  { c with st := if lifted then 3 else 0, w4 := some ⟨t, x.brTfb⟩
           w3 := if c.w3.isSome || !lifted then c.w3 else some ⟨t, x.brTfb⟩ }

/-- What a trip ends or opens in a cell beside its outputs: a fall of LOCK `out1` and of BRAKE `out0` opens the window that
R183 and R195 have for it. The windows of EDM end with it (DESIGN CHOICE, log 56, R190). -/
def tripWork (x : Ctx) (v : Nat → BNet) (was : CellSt) (code : Nat) (t : Stamp) (c : CellSt) : CellSt :=
  match x.cfg.typ with
  | 0x15 =>
    let c := { c with st := 0, w1 := none }
    if was.o1.v then lockDrop x v t c else c
  | 0x16 => { c with st := 0, w3 := none }
  | 0x22 => { c with st := 0, w1 := none, w2 := none }
  | 0x31 =>
    let c := { c with n3 := code, w2 := none, st := if c.st = 4 then 0 else c.st }
    if was.o0.v then brakeDrop x c (v 1).v t else c
  | 0x33 => if code = 9 then { c with f4 := false } else c
  | k => if isDual k then { c with st := 5, w1 := none } else c

/-- A fault of a cell at a stamp, with the inputs as they are then; the cause of an own code may be gone with it. -/
def CR.fault (x : Ctx) (v : Nat → BNet) (r : CR) (code : Nat) (t : Stamp) : CR :=
  let was := r.c
  let r := r.trip x.cfg.slot code t
  let r : CR := ⟨tripWork x v was code t r.c, r.log⟩
  if code = 3 then r else r.gone (goneCond x r.c v) t

/-- RSTE (R170 to R172): 0 WAIT0, 1 ARMED, 2 pressed. -/
def stepRste (x : Ctx) (r : CR) (w : View) : CR :=
  let i := w.cur 0
  let p := r.c.s1
  let tmin := x.par 15 0 * 1000
  let tmax := x.par 31 16 * 1000
  if ¬ i.q then (CR.mk { r.c with st := 0, w1 := none } r.log).out1 false w.t
  else if ¬ i.v then
    let r := r.out1 false w.t
    let ok := r.c.st = 2 ∧ inWindow w.t (p + BitVec.ofNat 32 tmin) (tmax - tmin)
    let r : CR := ⟨{ r.c with st := 1, w1 := none }, r.log⟩
    if ok then r.out0 true w.t else r
  else if r.c.st = 1 ∧ w.rise 0 then ⟨{ r.c with st := 2, s1 := w.t, w1 := some ⟨w.t, 5000000⟩ }, r.log⟩
  else r

def closeRste (x : Ctx) (r : CR) (t : Stamp) : CR :=
  onClose r.c.w1 t r (fun e =>
    (CR.mk { r.c with w1 := none } r.log).out1 true e |>.say [4, x.cfg.slot, e.toNat])

/-- AND and OR (R174). -/
def stepAnd (x : Ctx) (r : CR) (w : View) : CR :=
  let ins := (List.range 4).filter x.conn
  if ins ≠ [] ∧ ins.all w.on then r.out0 true (w.latest ins) else r.out0 false (w.earliest (ins.filter (fun i => !w.on i)))

def stepOr (x : Ctx) (r : CR) (w : View) : CR :=
  let ins := (List.range 4).filter x.conn
  if ins.any w.on then r.out0 true (w.earliest (ins.filter w.on)) else r.out0 false (w.latest ins)

/-- TON and TOF (R174). -/
def stepTon (x : Ctx) (r : CR) (w : View) : CR :=
  if w.rise 0 then ⟨{ r.c with w1 := some ⟨w.t, x.par 30 0⟩ }, r.log⟩
  else if w.fall 0 then (CR.mk { r.c with w1 := none } r.log).out0 false w.t else r

def closeTon (r : CR) (t : Stamp) : CR :=
  onClose r.c.w1 t r (fun e => (CR.mk { r.c with w1 := none } r.log).out0 true e)

def stepTof (x : Ctx) (r : CR) (w : View) : CR :=
  if w.rise 0 then (CR.mk { r.c with w1 := none } r.log).out0 true w.t
  else if w.fall 0 then ⟨{ r.c with w1 := some ⟨w.t, x.par 30 0⟩ }, r.log⟩ else r

def closeTof (r : CR) (t : Stamp) : CR :=
  onClose r.c.w1 t r (fun e => (CR.mk { r.c with w1 := none } r.log).out0 false e)

/-- LATCH (R175). -/
def stepLatch (r : CR) (w : View) : CR :=
  if w.fall 1 then r.out0 false w.t
  else if w.setEdge then r.out0 true (w.cur 0).t else r

/-! ### Dual-channel input functions (R176 to R181, R535) -/

def Ctx.man (x : Ctx) : Bool := bitAt x.cfg.param 32

/-- The function is satisfied at t: ON, or WAITRST when `man` is 1. -/
def dualClosed (x : Ctx) (r : CR) (t : Stamp) : CR :=
  if x.man || x.cfg.typ == 0x13 then ⟨{ r.c with st := 2, s1 := t, w1 := none }, r.log⟩
  else (CR.mk { r.c with st := 3, s1 := t, w1 := none } r.log).out0 true t

/-- Channel k goes inactive; `other` says whether its partner is active then. -/
def dualOff (x : Ctx) (r : CR) (k : Nat) (other : Bool) (t : Stamp) : CR :=
  let W := x.par 30 0
  let kk : Int := k
  match r.c.st with
  | 1 => if r.c.n1 = kk then ⟨{ r.c with st := 0, w1 := none }, r.log⟩ else r
  | 2 => if other then ⟨{ r.c with st := 4, n1 := k, w1 := some ⟨t, W⟩, f1 := false }, r.log⟩ else r.to 0
  | 3 =>
    let r := r.out0 false t
    if other then ⟨{ r.c with st := 4, n1 := k, w1 := some ⟨t, W⟩, f1 := false }, r.log⟩ else r.to 0
  | 4 =>
    if r.c.n1 = kk then ⟨{ r.c with f1 := false }, r.log⟩
    else if r.c.w1.any (fun w => !within W w.start t) then r
    else if r.c.f1 then ⟨{ r.c with st := 1, w1 := some ⟨r.c.s2, W⟩ }, r.log⟩
    else ⟨{ r.c with st := 0, w1 := none }, r.log⟩
  | _ => r

/-- Channel k goes active; `other` says whether its partner is active. In OPEN with both channels wanted, the partner then
closes it or the window runs (R177). -/
def dualOn (x : Ctx) (r : CR) (k : Nat) (t : Stamp) : CR :=
  let kk : Int := k
  match r.c.st with
  | 0 =>
    if r.c.f3 then r
    else if ¬ x.twoCh then dualClosed x r t
    else ⟨{ r.c with st := 1, n1 := k, w1 := some ⟨t, x.par 30 0⟩ }, r.log⟩
  | 1 =>
    match r.c.w1 with
    | some w => if r.c.n1 ≠ kk ∧ within w.len w.start t then dualClosed x r (laterOf t w.start) else r
    | none => r
  | 4 => if r.c.n1 = kk then ⟨{ r.c with f1 := true, s2 := t }, r.log⟩ else r
  | _ => r

/-- One event of the group: inactivations first, then activations (R535). -/
def stepDual (x : Ctx) (r : CR) (w : View) : CR :=
  let was := x.active w.was
  let on := x.active w.cur
  let off (k : Nat) := was k && !on k
  let up (k : Nat) := !was k && on k
  if r.tripped then r
  else
    -- after the inactivations a channel is active when it was and did not go inactive
    let r := if off 0 then dualOff x r 0 (was 1 && !off 1) w.t else r
    let r := if off 1 then dualOff x r 1 (was 0 && !off 0) w.t else r
    let r := if up 0 then dualOn x r 0 w.t else r
    let r := if up 1 then dualOn x r 1 w.t else r
    if x.bothOff w.cur then ⟨{ r.c with f3 := false }, r.log⟩ else r

def closeDual (x : Ctx) (v : Nat → BNet) (r : CR) (t : Stamp) : CR :=
  onClose r.c.w1 t r (fun e =>
    if r.c.st = 1 then r.fault x v 1 e
    else if r.c.st = 4 then r.fault x v 2 e else r)

/-! ### LOCK (R182, R183): 0 no unlock, 1 unlock delay, 2 unlocked; `w1` the delay, `f1` opened in this
snapshot; `s1` the last withdrawal of a request or fall of `out1`; `opens` the feedback windows, `f2` one waits for the
guard since `s2` -/

/-- `out0` by its condition; it rises with the latest of what it needs (R89). That it rises again with the withdrawal of a request whose
delay has not run out is the model's choice (DESIGN CHOICE, log 56, R182). -/
def lockOut (r : CR) (v : Nat → BNet) (t : Stamp) : CR :=
  if (v 0).v && (v 1).v && !r.c.o1.v && !r.tripped && r.c.st != 1 then
    r.out0 true (latestOf r.c.s1 [r.c.clr, (v 0).t, (v 1).t])
  else r.out0 false t

/-- The unlock delay has run out; a feedback window that is still open goes on (R183). -/
def lockUnlock (r : CR) (v : Nat → BNet) (e : Stamp) : CR :=
  if (v 2).v && (v 3).v then (CR.mk { r.c with w1 := none, st := 2 } r.log).out1 true e
  else ⟨{ r.c with w1 := none, st := 0, s1 := e }, r.log⟩

/-- The request or the permission falls, or the request rises with the permission at 1 (R182). -/
def lockRequest (x : Ctx) (r : CR) (w : View) : CR :=
  let drop := w.fall 2 || w.fall 3
  if r.tripped then r
  else if r.c.st = 1 ∧ drop then ⟨{ r.c with st := 0, w1 := none, s1 := w.t }, r.log⟩
  else if r.c.st = 2 ∧ drop then
    let r := r.out1 false w.t
    ⟨lockDrop x w.cur w.t { r.c with st := 0 }, r.log⟩
  else if (w.rise 2 || w.rise 3) && w.on 2 && w.on 3 && !later (w.cur 3).t (w.cur 2).t && r.c.st == 0 then
    ⟨{ r.c with st := 1, w1 := some ⟨(w.cur 2).t, x.lockTul⟩, f1 := true }, r.log⟩
  else r

/-- What the guard does to the feedback windows (R183): closing opens the one that waits; a fall that is seen late makes one that
has started since wait for the closing (R90). -/
def lockGuard (x : Ctx) (w : View) (c : CellSt) : CellSt :=
  if w.fall 0 then
    let l := c.opens.filter (fun e => later w.t e.1)
    if l.length = c.opens.length then c else { c with opens := l, f2 := true, s2 := w.t }
  else if c.f2 && w.rise 0 then lockAwait x { c with f2 := false } (w.cur 1) (laterOf w.t c.s2)
  else c

def stepLock (x : Ctx) (r : CR) (w : View) : CR :=
  let r := lockRequest x r w
  let r : CR := ⟨lockGuard x w r.c, r.log⟩
  let r : CR :=
    if w.rise 1 then ⟨{ r.c with opens := r.c.opens.filter (fun e => !(Win.mk e.1 x.lockTfb).holds w.t) }, r.log⟩ else r
  let r := if w.fall 1 && !r.c.o1.v && w.on 0 then r.fault x w.cur 5 w.t else r
  lockOut r w.cur (if r.c.st = 1 ∧ w.on 2 then (w.cur 2).t else w.t)

/-- The delay closes at an event only when an earlier snapshot opened it: a fall of the permission in the snapshot of the
request keeps `out1` at 0 (R182). It is judged by the inputs as they are at its end: `v` before the event at t, `u` with
it. -/
def closeLock (x : Ctx) (last : Bool) (v u : Nat → BNet) (r : CR) (t : Stamp) : CR :=
  let delay : List Closing := if r.c.f1 && !last then [] else [(fun c => c.w1, fun r e =>
    let i := if e = t then u else v
    lockOut (lockUnlock r i e) i e)]
  let await : Closing := (fun c => c.opens.head?.map (fun e => ⟨e.1, x.lockTfb⟩),
    fun r e => CR.fault x v ⟨{ r.c with opens := r.c.opens.tail }, r.log⟩ 5 e)
  closeWins (delay ++ List.replicate r.c.opens.length await) t r

/-! ### THAND (R184, R185): 0 wait for release, 1 released, 2 first hand, 3 on -/

/-- The stamp from which a hand is as it is: the later of its two contacts. -/
def handAt (v : Nat → BNet) (h : Nat) : Stamp := laterOf (v (2 * h)).t (v (2 * h + 1)).t

/-- Discrepancy windows run whatever the latch, from where a hand begins to be inconsistent (`f1`, `f2`). -/
def stepThand (x : Ctx) (r : CR) (w : View) : CR :=
  let tcd := x.par 27 16 * 1000
  let win (was : Bool) (old : Option Win) (h : Nat) : Option Win :=
    if handOdd w.cur h then (if was then old else some ⟨w.t, tcd⟩) else none
  let free := handOff w.cur 0 && handOff w.cur 1
  let r : CR := ⟨{ r.c with w1 := win r.c.f1 r.c.w1 0, w2 := win r.c.f2 r.c.w2 1
                            f1 := handOdd w.cur 0, f2 := handOdd w.cur 1 }, r.log⟩
  if r.tripped then r
  else
    let a0 := handOn w.cur 0
    let a1 := handOn w.cur 1
    let t0 := handAt w.cur 0
    let t1 := handAt w.cur 1
    let tsync := x.par 15 0 * 1000
    let both : CR := (CR.mk { r.c with st := 3, w3 := none } r.log).out0 true (latestOf t0 [t1, r.c.clr])
    let r :=
      match r.c.st with
      | 1 =>
        if a0 && a1 then both
        else if a0 || a1 then ⟨{ r.c with st := 2, n1 := if a0 then 0 else 1, w3 := some ⟨if a0 then t0 else t1, tsync⟩ }, r.log⟩
        else r
      | 2 =>
        let mine := if r.c.n1 = 0 then a0 else a1
        if ¬ mine then ⟨{ r.c with st := 0, w3 := none }, r.log⟩
        else if a0 && a1 then (if within tsync t0 t1 then both else ⟨{ r.c with st := 0, w3 := none }, r.log⟩)
        else r
      | 3 => if a0 && a1 then r else (r.out0 false w.t).to 0
      | _ => r
    if r.c.st = 0 ∧ free then r.to 1 else r

def closeThand (x : Ctx) (v : Nat → BNet) (r : CR) (t : Stamp) : CR :=
  closeWins
    [(fun c => c.w1, fun r e => CR.fault x v ⟨{ r.c with w1 := none }, r.log⟩ 4 e),
     (fun c => c.w2, fun r e => CR.fault x v ⟨{ r.c with w2 := none }, r.log⟩ 4 e),
     (fun c => c.w3, fun r _ => ⟨{ r.c with st := 0, w3 := none }, r.log⟩)] t r

/-! ### MUTE2 and MUTE4 (R186 to R188): `n1` and `n2` are the sensor pairs, 0 wait for both inactive, 1 both
have been inactive, 2 the first sensor is active, 3 the second is; `f1` muting; `f2` and `f3` the pair has come in time and
both sensors have been active since -/

/-- One sensor pair in one event: its next state, its window, and whether its later sensor came in time. -/
def mutePair (p : Int) (win : Option Win) (len : Nat) (a b : BNet) (t : Stamp) : Int × Option Win × Bool :=
  if !a.v && !b.v then (1, none, false)
  else if p = 1 then
    (if a.v && b.v then (0, none, true) else (if a.v then 2 else 3, some ⟨t, len⟩, false))
  else if p = 2 ∨ p = 3 then
    (if a.v && b.v then (0, none, within len a.t b.t)
     else if (if p = 2 then a.v else b.v) then (p, win, false) else (0, none, false))
  else (0, none, false)

def Ctx.mute4 (x : Ctx) : Bool := x.cfg.typ == 0x18
def Ctx.muteT12 (x : Ctx) : Nat := (if x.mute4 then bits (x.word 1) 15 0 else x.par 15 0) * 1000
def Ctx.muteT34 (x : Ctx) : Nat := bits (x.word 1) 31 16 * 1000
def Ctx.muteMax (x : Ctx) : Nat := (if x.mute4 then bits (x.word 2) 15 0 else x.par 31 16) * 100000

/-- The position of the enable, if it is connected. -/
def Ctx.mutePos (x : Ctx) : Option Nat :=
  if x.mute4 then (if bits (x.word 0) 27 16 = 0 then none else some 5) else if x.conn 3 then some 3 else none

/-- The enable is unconnected or 1. -/
def Ctx.muteEn (x : Ctx) (v : Nat → BNet) : Bool := x.mutePos.all (fun i => (v i).v)

/-- Muting can start at m (R186): `in0` and the enable are 1, and were at m. -/
def Ctx.muteClear (x : Ctx) (v : Nat → BNet) (m : Stamp) : Bool :=
  (v 0).v && !later (v 0).t m && x.mutePos.all (fun i => (v i).v && !later (v i).t m)

def Ctx.muteHold (x : Ctx) (v : Nat → BNet) : Bool :=
  ((v 1).v && (v 2).v) || (x.mute4 && (v 3).v && (v 4).v)

/-- One event of a muting cell; `f4` notes that muting ended with an invalid sensor or enable (R160). A rise of `in0` or of the
enable that is seen after the sensors' (R131) still lets muting start where its stamp is not later than m (R90). -/
def stepMute (x : Ctx) (r : CR) (w : View) : CR :=
  let v := w.cur
  let (p1, w1, go1) := mutePair r.c.n1 r.c.w1 x.muteT12 (v 1) (v 2) w.t
  let (p2, w2, go2) :=
    if x.mute4 && bitAt (x.word 0) 28
    then mutePair r.c.n2 r.c.w2 x.muteT34 (v 4) (v 3) w.t
    else (0, none, false)
  let late := w.rise 0 || x.mutePos.any w.rise
  let m1 := laterOf (v 1).t (v 2).t
  let m2 := laterOf (v 3).t (v 4).t
  let try1 := (go1 || (late && r.c.f2)) && x.muteClear v m1
  let try2 := (go2 || (late && r.c.f3)) && x.muteClear v m2
  let m := if try1 && try2 then earlierOf m1 m2 else if try1 then m1 else m2
  let r : CR := ⟨{ r.c with n1 := p1, n2 := p2, w1 := w1, w2 := w2, f2 := go1 || (r.c.f2 && (v 1).v && (v 2).v)
                            f3 := go2 || (r.c.f3 && (v 3).v && (v 4).v) }, r.log⟩
  let stop := r.c.f1 && !(x.muteHold v && x.muteEn v)
  let start := !r.c.f1 && (try1 || try2) && x.muteHold v
  let lost := (List.range 5).any (fun i => !(v (i + 1)).q)
  let r : CR :=
    if stop then ⟨{ r.c with f1 := false, w3 := none, f4 := lost }, r.log⟩
    else if start then ⟨{ r.c with f1 := true, w3 := some ⟨m, x.muteMax⟩, f4 := false }, r.log⟩
    else ⟨{ r.c with f4 := r.c.f4 && lost }, r.log⟩
  (r.out1 r.c.f1 (if r.c.f1 then m else w.t)).out0 ((v 0).v || r.c.f1) w.t

def closeMute (v : Nat → BNet) (r : CR) (t : Stamp) : CR :=
  closeWins
    [(fun c => c.w1, fun r _ => ⟨{ r.c with n1 := 0, w1 := none }, r.log⟩),
     (fun c => c.w2, fun r _ => ⟨{ r.c with n2 := 0, w2 := none }, r.log⟩),
     (fun c => c.w3, fun r e =>
       let r : CR := ⟨{ r.c with f1 := false, w3 := none, n1 := 0, n2 := 0, f2 := false, f3 := false }, r.log⟩
       (r.out1 false e).out0 (v 0).v e)] t r

/-! ### START, EDM and STOPC (R189 to R191) -/

def stepStart (x : Ctx) (r : CR) (w : View) : CR :=
  if w.fall 1 then r.out0 false w.t
  else if (w.setEdge || (w.rise 2 && w.on 0 && w.on 1 && later (w.cur 0).t (w.cur 1).t))
      && (!x.conn 2 || (w.on 2 && !later (w.cur 2).t (w.cur 0).t)) then r.out0 true (w.cur 0).t
  else r

/-- The command rises at s: ON, with the pick-up window, which a fall of the feedback since then has met already. -/
def edmOn (x : Ctx) (c : CellSt) (fb : BNet) (s : Stamp) : CellSt :=
  let win : Win := ⟨s, x.par 15 0 * 1000⟩
  { c with st := 2, w1 := if win.met fb false then none else if c.w1.isSome then c.w1 else some win }

/-- EDM goes to READY with the latest of what it needs (R89), and on to ON where the command rises then or later (R190; DEDUCED,
log 22). -/
def edmReady (x : Ctx) (r : CR) (v : Nat → BNet) : CR :=
  let s := latestOf (v 1).t (r.c.clr :: (match r.c.w2 with | some w => [w.start] | none => []))
  let r := r.out0 true s
  let c := { r.c with st := 1, w2 := none }
  ⟨if (v 0).v && !later s (v 0).t then edmOn x c (v 1) (v 0).t else c, r.log⟩

/-- EDM (R190): 0 CHECK, 1 READY, 2 ON, 3 OFFW. A fall of the feedback meets the pick-up window, which goes on when the
command falls before it. -/
def stepEdm (x : Ctx) (r : CR) (w : View) : CR :=
  let r : CR := if w.fall 1 then ⟨{ r.c with w1 := meet r.c.w1 w.t }, r.log⟩ else r
  if r.tripped then r
  else match r.c.st with
    | 1 => if w.rise 0 then ⟨edmOn x r.c (w.cur 1) w.t, r.log⟩ else r
    | 2 =>
      if w.fall 0 then
        if w.on 1 then r.to 1
        else
          let r := r.out0 false w.t
          ⟨{ r.c with st := 3, w2 := some ⟨w.t, x.par 31 16 * 1000⟩ }, r.log⟩
      else if w.rise 1 then r.say [5, x.cfg.slot, w.t.toNat] else r
    | _ => if w.on 1 then edmReady x r w.cur else r

def closeEdm (x : Ctx) (v : Nat → BNet) (r : CR) (t : Stamp) : CR :=
  closeWins [(fun c => c.w1, fun r e => r.fault x v 6 e), (fun c => c.w2, fun r e => r.fault x v 7 e)] t r

/-- STOPC ends its stop: `out0` falls. -/
def stopDone (r : CR) (t : Stamp) : CR :=
  (CR.mk { r.c with st := 0, s1 := t, f1 := true, f2 := true, w1 := none } r.log).out0 false t

/-- STOPC (R191): 0 off, 1 on, 2 stopping; `f1` off since this cycle, `f2` has been on. -/
def stepStopc (x : Ctx) (r : CR) (w : View) : CR :=
  match r.c.st with
  | 1 =>
    if w.fall 0 then
      let r := r.out1 false w.t
      let td : Win := ⟨w.t, x.par 30 0⟩
      if ¬ bitAt x.cfg.param 32 then stopDone r w.t
      else if w.on 1 && !later (w.cur 1).t w.t then stopDone r w.t
      else if td.met (w.cur 1) true then stopDone r (w.cur 1).t
      else ⟨{ r.c with st := 2, w1 := some td }, r.log⟩
    else r
  | 2 =>
    match r.c.w1 with
    | some td => if w.rise 1 then (if td.holds w.t then stopDone r w.t else if later td.start w.t then stopDone r td.start else r) else r
    | none => r
  | _ => r

def closeStopc (r : CR) (t : Stamp) : CR := onClose r.c.w1 t r (fun e => stopDone r e)

def finStopc (r : CR) (v : Nat → BNet) : CR :=
  if r.c.st = 0 ∧ ¬ r.c.f1 ∧ (v 0).v then
    let t := if r.c.f2 then laterOf (v 0).t r.c.s1 else (v 0).t
    ((r.to 1).out0 true t).out1 true t
  else r

/-! ### OUTP (R192 to R194): `f2` is q -/

def stepOutp (x : Ctx) (r : CR) (w : View) : CR :=
  let q := w.on 0 && (!x.conn 1 || w.on 1) && !r.tripped
  let lead := (x.env.unit (x.par 5 0)).findIdx (· == x.par 5 0)
  let r : CR := ⟨{ r.c with f2 := q }, r.log⟩
  if q && (w.cur (3 + lead)).q then
    r.out0 true (latestOf (w.cur 0).t (r.c.clr :: (w.cur (3 + lead)).t :: (if x.conn 1 then [(w.cur 1).t] else [])))
  else r.out0 false w.t

/-! ### BRAKE (R195 to R199) -/

/-- The load condition of a release is within the teach condition (R197): the voltage at d, and the last steady current, if there is
one; the first release judges the current in hand (DEDUCED, log 22). -/
def Ctx.brNear (x : Ctx) (steady : Option Int) (volt cur : Int) : Bool :=
  let vt : Int := bits (x.word 5) 15 0
  let it : Int := bits (x.word 4) 31 16
  (volt - vt).natAbs ≤ (vt / 10).natAbs && (steady.getD cur - it).natAbs ≤ (it * 15 / 100).natAbs

/-- Minimum dip and signature window by the load condition (R196, R197). -/
def Ctx.brBand (x : Ctx) (near : Bool) : Int × Nat × Nat :=
  let tol := bits (x.word 3) 29 20
  let dmin := bits (x.word 4) 13 0
  let t := if near then tol else 2 * tol
  (if near then dmin else dmin / 2, x.brTp * (1000 - t) / 1000, x.brTp * (1000 + t) / 1000)

/-- A release begins at s (R195, R196): every one is watched on its own. -/
def brRelease (x : Ctx) (r : CR) (v : Nat → BNet) (s : Stamp) : CR :=
  let r := r.out0 true s
  let met := (Win.mk s x.brTfb).met (v 1) true
  ⟨{ r.c with st := if met then 2 else 1, w2 := none
              pulls := r.c.pulls ++ [⟨s, !met, -32768, 0, none, true, true, 0, x.brTeach⟩] }, r.log⟩

/-- An application begins (R195); the checks of the releases go on (R195, R196). -/
def brApply (x : Ctx) (r : CR) (v : Nat → BNet) (t : Stamp) : CR :=
  let r := r.out0 false t
  ⟨brakeDrop x r.c (v 1).v t, r.log⟩

/-- What a rise or a fall of the feedback meets (R195). -/
def brFeedback (x : Ctx) (w : View) (c : CellSt) : CellSt :=
  let c := if w.fall 1 then { c with w3 := meet c.w3 w.t, st := if c.st = 3 then 0 else c.st } else c
  if w.rise 1 then
    { c with pulls := c.pulls.map (fun p => { p with fb := p.fb && !(Win.mk p.s x.brTfb).holds w.t })
             st := if c.o0.v && c.st == 1 then 2 else c.st }
  else c

/-- The holding test in one event (R199): it fails on a fall of `ssnet` inside its window, and has not run where `ssnet` fell before
its start. A start that is seen after that fall has failed with it (R90). -/
def brHold (x : Ctx) (r : CR) (w : View) : CR :=
  let v := w.cur
  let ss := v 4
  if r.c.st = 4 then
    if ¬ w.fall 4 then r
    else if r.c.w2.any (fun k => k.holds w.t) then r.fault x v 0xB w.t
    else ⟨{ r.c with st := 0, w2 := none }, r.log⟩
  else if w.rise 3 && r.c.st == 0 && !(v 0).v && !(v 1).v then
    let win : Win := ⟨w.t, x.word 6⟩
    if ss.v && !later ss.t w.t then ⟨{ r.c with st := 4, w2 := some win }, r.log⟩
    else if !ss.v && later ss.t w.t && win.holds ss.t then r.fault x v 0xB ss.t
    else r
  else r

/-- BRAKE: `pulls` the releases still watched, `w3` and `w4` the application windows, `w2` the holding test. The checks of the feedback
go on while the latch is set. A rise of `in0` at the stamp at which `ssnet` falls ends the holding test first (DESIGN CHOICE, log
56). -/
def stepBrake (x : Ctx) (r : CR) (w : View) : CR :=
  let v := w.cur
  let r := if r.tripped then r
    else if w.rise 0 then brRelease x r v (laterOf w.t r.c.clr)
    else if w.fall 0 then brApply x r v w.t
    else r
  let r : CR := ⟨brFeedback x w r.c, r.log⟩
  if r.c.o0.v then r
  else if w.rise 1 && !(r.c.w4.any (fun k => k.holds w.t)) then r.fault x v 8 w.t
  else if r.tripped then r
  else brHold x r w

/-- The oldest release whose feedback is awaited. -/
def Ctx.brWin (x : Ctx) (c : CellSt) : Option Win := (c.pulls.find? (·.fb)).map (fun p => ⟨p.s, x.brTfb⟩)

/-- The first release whose feedback is awaited no longer awaits it. -/
def unawait : List Pull → List Pull
  | [] => []
  | p :: l => if p.fb then { p with fb := false } :: l else p :: unawait l

def closeBrake (x : Ctx) (v : Nat → BNet) (r : CR) (t : Stamp) : CR :=
  closeWins
    (List.replicate r.c.pulls.length (x.brWin, fun r e => CR.fault x v ⟨{ r.c with pulls := unawait r.c.pulls }, r.log⟩ 8 e)
      ++ [(fun c => c.w3, fun r e => CR.fault x v ⟨{ r.c with w3 := none }, r.log⟩ 8 e),
     (fun c => c.w4, fun r e =>
       let r : CR := ⟨{ r.c with w4 := none }, r.log⟩
       if (v 1).v ∧ ¬ r.c.o0.v then r.fault x v 8 e
       else ⟨{ r.c with st := if r.c.st = 3 then 0 else r.c.st }, r.log⟩),
     (fun c => c.w2, fun r e =>
       (CR.mk { r.c with w2 := none, st := 0, f4 := true } r.log).say [6, x.cfg.slot, e.toNat])]) t r

/-- What the sample of a cycle decides of a release: no signature yet, or a fault with its stamp or none, with widened bands or not. -/
abbrev Judged := Pull × Option (Option Stamp × Bool)

/-- The sample of the cycle for one release (R196 to R198), `steady` the last steady current before it: the highest current and the dip
depth go on to 2 × tp, the dip is the first of the release, and none by the end of the signature window is a fault at that end. -/
def brJudge (x : Ctx) (steady : Option Int) (p : Pull) : Judged :=
  let cur := (x.analog 2).x.toInt
  let volt := (x.analog 3).x.toInt
  let ts := (x.analog 2).t
  let take := (x.analog 2).q
  let near := x.brNear steady volt cur
  let (dmin, lo, hi) := x.brBand near
  let since := (ts - p.s).toNat
  if (¬ p.judge ∧ ¬ p.note) ∨ 2 ^ 31 ≤ since then (p, none)
  else
    let early := decide (since < 2 * x.brTp)
    let peak := if take && (p.judge || early) then max p.peak cur else p.peak
    let depth := if take && early then max p.depth (peak - cur) else p.depth
    let p := { p with peak := peak, depth := depth }
    if ¬ p.judge then (p, none)
    else if ¬ x.brTeach ∧ ((take ∧ hi ≤ since) ∨ ((¬ take ∨ peak - dmin < cur) ∧ winDone ⟨p.s, hi⟩ x.env.b)) then
      ({ p with judge := false }, some (some (p.s + BitVec.ofNat 32 hi), !near))
    else if take ∧ cur ≤ peak - dmin then
      ({ p with judge := false, dip := some (ts, volt) },
       some (if x.brTeach || decide (lo ≤ since) then none else some ts, !near && !x.brTeach))
    else (p, none)

/-- The confirmation point s + tfb of a release: its steady current (R197, R198), where `due` says that it has come. -/
def brConfirm (x : Ctx) (due : Pull → Bool) (p : Pull) : Pull :=
  if p.conf && due p then { p with conf := false, cur := (x.analog 2).x.toInt } else p

/-- The sample of a cycle for every watched release, oldest first; each takes the steady current of the last release before it that has
one by its sample, that of the release before where it has come by d (DESIGN CHOICE, log 56, R197). -/
def brJudgeAll (x : Ctx) : Option Int → List Pull → List Judged
  | _, [] => []
  | steady, p :: l =>
    let j := brJudge x steady p
    j :: brJudgeAll x (if j.1.conf then steady else some j.1.cur) l

/-- The teach record of a release (R198): d - s, the highest current, the dip depth within 2 × tp, the voltage at d and the current
at s + tfb, once all are known; without the values at d where no dip has come by then (DESIGN CHOICE, log 56). -/
def brRecord (x : Ctx) (p : Pull) : List Nat :=
  match p.dip with
  | none => [7, x.cfg.slot, unsign 16 p.peak, p.depth.toNat, unsign 16 p.cur]
  | some (d, volt) => [7, x.cfg.slot, (d - p.s).toNat, unsign 16 p.peak, p.depth.toNat, unsign 16 volt, unsign 16 p.cur]

/-- A release of which nothing is awaited any more. -/
def Pull.over (p : Pull) : Bool := !p.fb && !p.judge && !p.conf && !p.note

/-- Releases that are over leave the list from its front; the last steady current stays (`n2`, `f5`). -/
def brPrune (c : CellSt) : List Pull → CellSt
  | [] => { c with pulls := [] }
  | p :: l => if p.over then brPrune { c with n2 := p.cur, f5 := true } l else { c with pulls := p :: l }

/-- What BRAKE does at a boundary (R196 to R198): the confirmation points that the sample in hand has reached, the judgement of the
releases, the confirmation points up to the boundary, the records, each at the later of s + tfb and s + 2 × tp. All come whether or not
the release has ended or tripped by then. -/
def brFinish (x : Ctx) (v : Nat → BNet) (r : CR) : CR :=
  let ts := (x.analog 2).t
  let reached (p : Pull) : Bool := let n := (ts - p.s).toNat; x.brTfb ≤ n && n < 2 ^ 31
  let closed (n : Nat) (p : Pull) : Bool := winDone ⟨p.s, n⟩ x.env.b
  let js := brJudgeAll x (if r.c.f5 then some r.c.n2 else none) (r.c.pulls.map (brConfirm x reached))
  let pulls := (js.map (·.1)).map (brConfirm x (closed x.brTfb))
  let due (p : Pull) : Bool := p.note && closed (max x.brTfb (2 * x.brTp)) p
  let log := (pulls.filter due).map (brRecord x)
  let pulls := pulls.map (fun p => if due p then { p with note := false, judge := false } else p)
  let r : CR := ⟨{ r.c with pulls := pulls }, r.log⟩
  let r := (js.filterMap (·.2)).foldl (fun (r : CR) k =>
    let r : CR := ⟨{ r.c with f3 := k.2 }, r.log⟩
    match k.1 with | none => r | some t => r.fault x v 0xA t) r
  ⟨brPrune r.c r.c.pulls, r.log ++ log⟩

/-- The status word of BRAKE. -/
def brStatus (x : Ctx) (r : CR) : Nat :=
  (if r.tripped then 15 else r.c.st) * 4096 + r.c.n3.toNat % 16 * 256 + (if x.brTeach then 8 else 0)
    + (if r.c.f3 then 4 else 0) + (if r.c.st = 4 ∧ ¬ r.tripped then 2 else 0) + (if r.c.f4 then 1 else 0)

/-! ### CHAIN (R200 to R202) -/

/-- The length of the window in which openings count as simultaneous (R201). -/
def Ctx.chTol (x : Ctx) : Nat := bits (x.word 0) 15 8 + 1

/-- The window of the oldest opening that is not reported yet. -/
def Ctx.chWin (x : Ctx) (l : List (Stamp × Int)) : Option Win := l.head?.map (fun e => ⟨e.1, x.chTol⟩)

/-- The stamp with which `out0` rises: the latest of the taps and of the clearing of the latch (R89). -/
def Ctx.chRise (x : Ctx) (c : CellSt) (v : Nat → BNet) : Stamp := latestOf c.clr ((List.range x.taps).map (fun k => (v (k + 1)).t))

/-- A tap is lit while a tap upstream of it is dark. -/
def Ctx.chOdd (x : Ctx) (v : Nat → BNet) : Bool :=
  (List.range x.taps).any (fun k => chLit v k && (List.range k).any (fun j => !chLit v j))

/-- One event of CHAIN: `opens` the openings whose report is not decided yet, each with f and its set D as a mask, `w2` the window of
the oldest, `n2` the report, `w1` the plausibility window from where the condition arose (`f1`); both windows run whatever the
latch. A tap that has gone dark inside the window and is lit again before its end stays in D (DESIGN CHOICE, log 56). -/
def stepChain (x : Ctx) (r : CR) (w : View) : CR :=
  let v := w.cur
  let all := x.chAll v
  let newDark : Nat := (List.range x.taps).foldl (fun m k => if chLit w.was k && !chLit v k then m + 2 ^ k else m) 0
  let opens := r.c.opens.map (fun e => if (Win.mk e.1 x.chTol).holds w.t then (e.1, ((e.2.toNat ||| newDark : Nat) : Int)) else e)
  let new := !all && r.c.st == 1 && newDark != 0
  let opens := if new then opens ++ [(w.t, (newDark : Int))] else opens
  let r : CR := ⟨{ r.c with st := if all then 1 else if new then 0 else r.c.st, opens := opens, w2 := x.chWin opens }, r.log⟩
  let odd := x.chOdd v
  let r : CR := ⟨{ r.c with f1 := odd, w1 := if odd then (if r.c.f1 then r.c.w1 else some ⟨w.t, x.word 1⟩) else none }, r.log⟩
  if all && !r.tripped then r.out0 true (x.chRise r.c w.cur) else r.out0 false w.t

/-- The reported contacts (R201). -/
def chReport (d : Nat) : Nat :=
  (List.range 32).foldl (fun m k => if bitAt d k && (k == 0 || !bitAt d (k - 1)) then m + 2 ^ k else m) 0

def closeChain (x : Ctx) (v : Nat → BNet) (r : CR) (t : Stamp) : CR :=
  closeWins
    (List.replicate r.c.opens.length (fun c => c.w2, fun r _ =>
       let e := r.c.opens.headD (0, 0)
       let m := chReport e.2.toNat
       let first := ((List.range 32).find? (bitAt m)).getD 0
       let many := ((List.range 32).filter (bitAt m)).length
       (CR.mk { r.c with opens := r.c.opens.tail, w2 := x.chWin r.c.opens.tail, n2 := ((first + (if 1 < many then 16384 else 0) : Nat) : Int) } r.log).say
         [8, x.cfg.slot, m, e.1.toNat])
      ++ [(fun c => c.w1, fun r e => CR.fault x v ⟨{ r.c with w1 := none }, r.log⟩ 0xC e)]) t r

/-- The report word: the last report stays until the next one is decided (DESIGN CHOICE, log 56, R201). -/
def chWord (x : Ctx) (r : CR) (v : Nat → BNet) : Nat :=
  (if x.chAll v then 0 else 32768) + r.c.n2.toNat % 32768 + (if bitAt r.c.own 0xC then 8192 else 0)

/-! ### SPEED (R203 to R205): `n1` p0, `s1` e, `s2` the last counted edge, `n2` position at the window start, `n3` window index, `n4`
position, `f1` limit exceeded in the window, `f2` standstill, `f3` within limit -/

def posDiff (a b : Int) : Nat := (signed 32 (unsign 32 (a - b))).natAbs

def Ctx.spTss (x : Ctx) : Nat := x.word 1
def Ctx.spTw (x : Ctx) : Nat := max 1 (x.word 2)

def speedOut (r : CR) (t : Stamp) : CR :=
  (r.out0 (r.c.f2 && !r.tripped) t).out1 (r.c.f3 && !r.tripped) t

/-- Speed windows that end at or before a microtick (R204). -/
def speedWin (x : Ctx) (r : CR) (now : Nat) : CR :=
  let j := r.c.n3.toNat
  let j' := now / x.spTw
  if j' ≤ j then r
  else
    let e := if r.c.f1 then j + 2 else j + 1
    let r : CR := if e ≤ j' then speedOut ⟨{ r.c with f3 := true }, r.log⟩ (BitVec.ofNat 32 (e * x.spTw)) else r
    ⟨{ r.c with n2 := r.c.n4, n3 := j', f1 := false }, r.log⟩

/-- A counted edge at a position; `f4` an edge has been counted since the trip (R205). -/
def speedEdge (x : Ctx) (r : CR) (w : View) (pos : Int) : CR :=
  let jit := bits (x.word 0) 15 8
  let r : CR := ⟨{ r.c with n4 := pos, f4 := true, s2 := w.t }, r.log⟩
  let r : CR := if jit < posDiff pos r.c.n1 then
      ⟨{ r.c with n1 := pos, s1 := w.t, w2 := some ⟨w.t, x.spTss⟩, f2 := false }, r.log⟩ else r
  let r : CR := if x.word 3 < posDiff pos r.c.n2 then ⟨{ r.c with f1 := true, f3 := false }, r.log⟩ else r
  let r : CR := if w.on 0 then ⟨{ r.c with w1 := some ⟨w.t, x.spTss⟩ }, r.log⟩ else r
  speedOut r w.t

def stepSpeed (x : Ctx) (r : CR) (w : View) : CR :=
  let now := x.abs w.t
  let r := speedWin x r now
  let edge := ((x.env.edges (bits (x.word 0) 4 0)).2.filter (fun e => e.1.toNat == now)).getLast?
  let r : CR :=
    if w.rise 0 then ⟨{ r.c with w1 := some ⟨laterOf w.t r.c.s2, x.spTss⟩ }, r.log⟩
    else if w.fall 0 then ⟨{ r.c with w1 := none }, r.log⟩ else r
  match edge with
  | some (_, pos) => speedEdge x r w pos
  | none => speedOut r w.t

def closeSpeed (x : Ctx) (v : Nat → BNet) (r : CR) (t : Stamp) : CR :=
  closeWins
    [(fun c => c.w2, fun r e => speedOut ⟨{ r.c with w2 := none, f2 := true }, r.log⟩ e),
     (fun c => c.w1, fun r e => CR.fault x v ⟨{ r.c with w1 := none }, r.log⟩ 9 e)] t (speedWin x r (x.abs t))

/-! ### BAND (R206): `f2` inside -/

/-- The sample of a cycle. A value that comes back inside and leaves the band again before the reset pulse sets no new 0xE, and its cause
stays gone (DESIGN CHOICE, log 56, R206). -/
def bandSample (x : Ctx) (r : CR) : CR :=
  let a := x.analog 0
  let v := a.x.toInt
  let lo := signed 16 (x.par 15 0)
  let hi := signed 16 (x.par 31 16)
  let hys : Int := x.par 38 32
  let t := if x.env.first then x.env.b else a.t
  let out := v < lo || hi < v || v == 8191 || v == -8192
  let inn := lo + hys ≤ v && v ≤ hi - hys && !(v == 8191 || v == -8192)
  if ¬ a.q then (CR.mk { r.c with f2 := false } r.log).out0 false t
  else
    let r := r.gone inn t
    let was := r.c.f2
    let r : CR := ⟨{ r.c with f2 := if out then false else if inn then true else was }, r.log⟩
    let r := if was && !r.c.f2 && bitAt x.cfg.param 39 && !r.tripped then r.trip x.cfg.slot 0xE t else r
    r.out0 (r.c.f2 && !r.tripped) t

/-! ### SESIN, SESOUT and LAMP (R207 to R209) -/

/-- SESIN (R207): `f1` released, `n2` the entry to RUN it is released for, `n1` the microtick of the pulse that released it, `f2` the
reset net was valid; `f3` and `s3` are valid and stamp of bits at their safe values: those of the last fault, also of one that is over
within the snapshot. -/
def finSesin (x : Ctx) (r : CR) (v : Nat → BNet) (t : Stamp) (rise : Bool) : CR :=
  let rr := bitAt x.cfg.param 32
  let ses := x.env.ses (x.par 7 0)
  let r : CR :=
    match ses.fault, ses.entry with
    | some f, _ => ⟨{ r.c with f3 := false, s3 := f.setWidth 32 }, r.log⟩
    | none, none => ⟨{ r.c with f3 := true, s3 := 0 }, r.log⟩
    | none, some _ => r
  let okNow := match ses.entry with | some (_, q, _) => q && ses.runAt.isSome | none => false
  let run := (ses.runAt.getD 0).toNat
  let kept := r.c.f1 && r.c.n2 == (run : Int) && okNow
  let pulse := rise && okNow && decide (run < x.abs t)
  let free := !rr || kept || pulse
  let r : CR := ⟨{ r.c with f1 := okNow && free, n2 := run, n1 := if pulse && !kept then x.abs t else r.c.n1, f2 := (v 0).q }, r.log⟩
  let at_ := match ses.entry with | some (e, _, _) => e.toNat | none => 0
  if okNow && free then r.out1 true (BitVec.ofNat 32 (if pulse then max (x.abs t) at_ else at_))
  else r.out1 false (if r.c.f3 then BitVec.ofNat 32 at_ else r.c.s3)

/-- The bits of a SESIN block: their values and stamps (R207). -/
def sesinBits (x : Ctx) (c : CellSt) : List BNet :=
  let sid := x.par 7 0
  let len := 8 * x.env.img.sesLen sid
  let safe (i : Nat) : Bool := x.env.img.safeVal (x.cfg.out0 + i)
  let rr := bitAt x.cfg.param 32
  match (x.env.ses sid).entry with
  | none => (List.range len).map (fun i => ⟨safe i, true, 0⟩)
  | some (t, q, l) =>
    if ¬ q then (List.range len).map (fun i => ⟨safe i, false, t.setWidth 32⟩)
    else if c.f1 then
      (List.range len).map (fun i => ⟨l.getD i false, true, BitVec.ofNat 32 (if rr then max t.toNat c.n1.toNat else t.toNat)⟩)
    else (List.range len).map (fun i => ⟨safe i, c.f3, c.s3⟩)

/-- The pattern of a lamp code at microtick t (R209). -/
def lampOn (code t : Nat) : Bool :=
  match code with
  | 1 => true
  | 2 => t % 1000000 < 500000
  | 3 => t % 250000 < 125000
  | 4 => t % 1000000 < 100000 || (200000 ≤ t % 1000000 && t % 1000000 < 300000)
  | 5 => t % 2000000 < 100000
  | _ => false

def lampCode (x : Ctx) (v : Nat → BNet) : Nat :=
  match ([3, 2, 1, 0].find? (fun i => x.conn i && (v i).v)) with
  | some i => bits x.cfg.param (4 * i + 3) (4 * i)
  | none => x.par 19 16

/-! ### The evaluation of one cell -/

/-- One event by the cell's type; events with equal stamps come in one view, so that no cell orders them (R90). A window
starts at the stamp of the event that opens it (R100, R101). -/
def cellStep (x : Ctx) (r : CR) (w : View) : CR :=
  match x.cfg.typ with
  | 0x01 => stepAnd x r w
  | 0x02 => stepOr x r w
  | 0x03 => stepTon x r w
  | 0x04 => stepTof x r w
  | 0x05 => stepLatch r w
  | 0x15 => stepLock x r w
  | 0x16 => stepThand x r w
  | 0x17 => stepMute x r w
  | 0x18 => stepMute x r w
  | 0x20 => stepRste x r w
  | 0x21 => stepStart x r w
  | 0x22 => stepEdm x r w
  | 0x23 => stepStopc x r w
  | 0x30 => stepOutp x r w
  | 0x31 => stepBrake x r w
  | 0x32 => stepChain x r w
  | 0x33 => stepSpeed x r w
  | t => if isDual t then stepDual x r w else r

/-- The windows that have closed at a stamp, by the cell's type; `last` at the boundary; `v` the inputs before the event at
that stamp, `u` the inputs with it. -/
def cellClose (x : Ctx) (last : Bool) (v u : Nat → BNet) (r : CR) (t : Stamp) : CR :=
  match x.cfg.typ with
  | 0x03 => closeTon r t
  | 0x04 => closeTof r t
  | 0x15 => closeLock x last v u r t
  | 0x16 => closeThand x v r t
  | 0x17 => closeMute v r t
  | 0x18 => closeMute v r t
  | 0x20 => closeRste x r t
  | 0x22 => closeEdm x v r t
  | 0x23 => closeStopc r t
  | 0x31 => closeBrake x v r t
  | 0x32 => closeChain x v r t
  | 0x33 => closeSpeed x v r t
  | c => if isDual c then closeDual x v r t else r

/-- The latch is cleared at t: the state the cell then enters. -/
def cellCleared (x : Ctx) (v : Nat → BNet) (r : CR) (t : Stamp) : CR :=
  let r := if hasOk x.cfg.typ then r.out1 true t else r
  match x.cfg.typ with
  | 0x15 => lockOut (r.to 0) v t
  | 0x16 => r.to (if handOff v 0 && handOff v 1 then 1 else 0)
  | 0x22 => if (v 1).v then edmReady x (r.to 0) v else r.to 0
  | 0x30 => stepOutp x r ⟨v, v, t⟩
  | 0x31 => if (v 0).v then brRelease x (r.to 0) v t else r.to (if (v 1).v then 3 else 0)
  | 0x32 => if x.chAll v then r.out0 true (x.chRise r.c v) else r
  | 0x33 => speedOut r t
  | 0x34 => r.out0 r.c.f2 t
  | c => if isDual c then ⟨{ r.c with st := 0, f3 := !x.bothOff v, w1 := none }, r.log⟩ else r

/-- The position of the reset net among the inputs, if there is one. -/
def rstPos (ins : List CellIn) : Option Nat :=
  let i := ins.findIdx (fun p => p.rst)
  if i < ins.length then some i else none

/-- Safety inputs that set the latch, by position (R166). -/
def guardPos (ins : List CellIn) : List Nat :=
  (List.range ins.length).filter (fun i => match ins[i]? with | some p => p.safe && !p.rst | none => false)

def isChan (p : Option CellIn) : Bool := match p with | some ⟨.chan _, _, _⟩ => true | _ => false

/-- The code that an input sets when it becomes invalid: 0xD for a channel of an OUTP (R194), else 0x3. -/
def lossCode (x : Ctx) (p : Option CellIn) : Nat := if x.cfg.typ = 0x30 ∧ isChan p then 0xD else 3

/-- The latch takes the loss of a safety input (R166, R194). -/
def takeLoss (x : Ctx) (ins : List CellIn) (w : View) (r : CR) : CR :=
  let g := guardPos ins
  let lost := g.filter (fun i => (w.was i).q && !(w.cur i).q)
  if x.latched then lost.foldl (fun r i => r.fault x w.cur (lossCode x ins[i]?) w.t) r else r

/-- When the causes of a latch go (R166): code 0x3 with the validity of every safety input, an own code by its section. -/
def takeGone (x : Ctx) (ins : List CellIn) (w : View) (r : CR) : CR :=
  let g := guardPos ins
  let back := g.filter (fun i => !(w.was i).q && (w.cur i).q)
  let others := g.filter (fun i => lossCode x ins[i]? = 3)
  let r : CR := if r.c.code3 ∧ back ≠ [] then ⟨{ r.c with acc3 := laterOf w.t r.c.acc3 }, r.log⟩ else r
  let r : CR := if r.c.code3 then
      ⟨{ r.c with g3 := if others.all (fun i => (w.cur i).q) then
                          (match r.c.g3 with | some t => some t | none => some r.c.acc3) else none }, r.log⟩ else r
  r.gone (goneCond x r.c w.cur) w.t

/-- One event of any cell: losses of validity, the cell's own rules, the causes that go, the reset pulse. -/
def cellEvent (x : Ctx) (ins : List CellIn) (r : CR) (w : View) : CR :=
  let r := takeGone x ins w (cellStep x (takeLoss x ins w r) w)
  match rstPos ins with
  | none => r
  | some i =>
    if ¬ w.rise i then r
    else if r.tripped then
      match r.c.goneAt with
      | some c => if later w.t c then cellCleared x w.cur (r.clear x.cfg.slot w.t) w.t else r
      | none => r
    else if isDual x.cfg.typ && r.c.st == 2 && later w.t r.c.s1 then
      (r.to 3).out0 true w.t
    else r

/-- Put a stamp into a list ordered oldest first, once. -/
def putStamp (b t : Stamp) : List Stamp → List Stamp
  | [] => [t]
  | s :: l => if s = t then s :: l else if (b - s).toNat < (b - t).toNat then t :: s :: l else s :: putStamp b t l

/-- What a cell reads of one input now, against the previous cycle: value and valid with the stamp of the
change it sees (R161, R163). An invalid input counts as its safe value (R36), taken as 0 for every input: for a non-safety
input that an invalid consumed bit of declared safe value 1 feeds, that is the model's choice (DESIGN CHOICE, log 52). -/
def seenInput (x : Ctx) (start : Stamp) (raw prev : BNet) : BNet :=
  let v := raw.v && raw.q
  if x.env.first then ⟨v, raw.q, x.env.b⟩
  else if v != prev.v || raw.q != prev.q then ⟨v, raw.q, laterOf raw.t start⟩
  else ⟨v, raw.q, refresh x.env.b prev.t⟩

/-- The initial state of a cell at its first evaluation (R163, R180, R203). The first reference of SPEED is the position in hand, with
the stamp of the event of entry, from where `tss` runs, and the speed window that is running then counts as exceeded (DESIGN CHOICE, log
56, R204). -/
def cellStart (x : Ctx) (c : CellSt) (t : Stamp) : CellSt :=
  let c := { c with seen := true, clr := t }
  let c := if hasOk x.cfg.typ then { c with o1 := c.o1.put true t } else c
  match x.cfg.typ with
  | 0x14 => { c with f3 := bitAt x.cfg.param 33 }
  | 0x15 => { c with s1 := t }
  | 0x33 =>
    let p := (x.env.edges (bits (x.word 0) 4 0)).1
    { c with n1 := p, n2 := p, n4 := p, s1 := t, s2 := t, w2 := some ⟨t, x.spTss⟩, n3 := (x.abs t / x.spTw : Nat)
             f1 := x.abs t % x.spTw != 0, f2 := false, f3 := false }
  | _ => c

/-- Work of a cell at the boundary itself, after every event. LAMP reads its pattern at the boundary, whose stamp its output takes
(DESIGN CHOICE, log 56, R209). -/
def cellFinish (x : Ctx) (v : Nat → BNet) (r : CR) (rise : Bool) : CR :=
  match x.cfg.typ with
  | 0x16 => if r.c.st = 0 ∧ ¬ r.tripped ∧ handOff v 0 ∧ handOff v 1 then r.to 1 else r
  | 0x17 => if !(v 1).v && !(v 2).v then ⟨{ r.c with n1 := 1 }, r.log⟩ else r
  | 0x18 =>
    let r : CR := if !(v 1).v && !(v 2).v then ⟨{ r.c with n1 := 1 }, r.log⟩ else r
    if bitAt (x.word 0) 28 && !(v 3).v && !(v 4).v then ⟨{ r.c with n2 := 1 }, r.log⟩ else r
  | 0x20 => if r.c.st = 0 ∧ (v 0).q ∧ ¬ (v 0).v then r.to 1 else r
  | 0x23 => finStopc r v
  | 0x30 => stepOutp x r ⟨v, v, x.env.b⟩
  | 0x31 => brFinish x v r
  | 0x34 => bandSample x r
  | 0x40 => finSesin x r v (v 0).t rise
  | 0x41 =>
    let s := x.env.ses (x.par 7 0)
    r.out0 s.ok (if x.env.first then x.env.b else s.okT.setWidth 32)
  | 0x50 => r.out0 (lampOn (lampCode x v) x.env.bNat.toNat) x.env.b
  | t => if isDual t && !r.tripped && x.bothOff v then ⟨{ r.c with f3 := false }, r.log⟩ else r

/-- The safety inputs whose invalidity alone would hold an output at its safe value (R160): every one that sets a trip latch,
and of the other types those that the output follows. A channel of an OUTP is no input of the cell. -/
def blamed (x : Ctx) (ins : List CellIn) (c : CellSt) (second : Bool) : List Nat :=
  let g := guardPos ins
  match x.cfg.typ with
  | 0x05 => g.filter (· == 1)
  | 0x17 => if second then g.filter (· != 0) else if c.f4 then g else g.filter (· == 0)
  | 0x18 => if second then g.filter (· != 0) else if c.f4 then g else g.filter (· == 0)
  | 0x21 => g.filter (· == 1)
  | 0x23 => g.filter (· == 0)
  | 0x30 => g.filter (fun i => !isChan ins[i]?)
  | 0x40 => []
  | 0x41 => []
  | 0x50 => []
  | _ => g

/-- The stamp with which an output is invalid, the earliest of the invalid inputs that hold it at its safe value. -/
def badStamp (raws : Nat → BNet) (l : List Nat) : Option Stamp :=
  l.foldl (fun (a : Option Stamp) i =>
    let n := raws i
    if n.q then a else match a with | none => some n.t | some t => some (earlierOf t n.t)) none

/-- The inputs that hold an output at its safe value alone where they are valid and 0 (R89, R160), by the type's own rules. -/
def Ctx.holders (x : Ctx) (second : Bool) : List Nat :=
  match x.cfg.typ with
  | 0x01 => (List.range 4).filter x.conn
  | 0x15 => if second then [2, 3] else [0, 1]
  | 0x17 => if second then (if x.conn 3 then [1, 2, 3] else [1, 2]) else []
  | 0x22 => if second then [] else [1]
  | 0x30 => if second then [] else if x.conn 1 then [0, 1] else [0]
  | 0x31 => if second then [] else [0]
  | 0x32 => if second then [] else (List.range x.taps).map (· + 1)
  | _ => []

/-- What holds an output at its safe value since before a stamp, whatever is invalid: a code of the cell's own, an input by the
type's rules, an inactive channel of a pair, a hand that is not actuated, a counter that has moved. -/
def Ctx.heldBy (x : Ctx) (c : CellSt) (v : Nat → BNet) (second : Bool) (t : Stamp) : Bool :=
  let early (n : BNet) : Bool := n.q && later t n.t
  c.own != 0 || (x.holders second).any (fun i => !(v i).v && early (v i))
    || (isDual x.cfg.typ && !second && ((!x.active v 0 && early (v 0)) || (x.twoCh && !x.active v 1 && early (v 1))))
    || (x.cfg.typ == 0x16 && !second
        && ((!(v 0).v && early (v 0)) || ((v 1).v && early (v 1)) || (!(v 2).v && early (v 2)) || ((v 3).v && early (v 3))))
    || (x.cfg.typ == 0x33 && (if second then !c.f3 else !c.f2))

/-- An output that ends the evaluation: an unchanged value keeps its stamp (R161); a safe value that an invalid
safety input holds is invalid with that stamp (R160), unless something else holds it there since before (`own`), which is then the
earliest of the events that force it (R89). -/
def finalOut (old new : BNet) (bad : Option Stamp) (own : Stamp → Bool) : BNet :=
  let n := if new.v = old.v then { new with t := old.t } else new
  match bad with
  | some t => if n.v || (later t n.t && own t) then { n with q := true } else ⟨false, false, t⟩
  | none => { n with q := true }

/-- A written analog output: its stamp is the boundary of the cycle that changed it (R160). -/
def finalAna (b : Stamp) (old : ANet) (x : Nat) : ANet :=
  let w := BitVec.ofNat 16 x
  if w = old.x then { old with q := true } else ⟨w, true, b⟩

/-- The safety inputs that must be valid before a cell leaves its initial state (R163). The channels of an OUTP are none: the
validity of a channel that has not been valid since entry holds back `out0` alone (R193, R461). -/
def startPos (x : Ctx) (ins : List CellIn) : List Nat :=
  (guardPos ins).filter (fun i => !(x.cfg.typ == 0x30 && isChan ins[i]?))

/-- Evaluate one cell (R160 to R169); channel and function faults of one cycle both latch, each with its own clearing
(R37). At its first evaluation a cell takes its inputs as an event, even where none is 1 (R163): a channel of an antivalent
pair that is already active counts as going active. Where it leaves its initial state later, because an input has become valid, the
event carries the latest of b_R and the stamps of the inputs that have come back (DESIGN CHOICE, log 56). -/
def evalCell (x : Ctx) (c0 : CellSt) : CR :=
  let ins := x.inputs
  let b := x.env.b
  let raws := ins.map (fun p => x.read p.src)
  let nul : BNet := ⟨false, true, 0⟩
  let raw (i : Nat) : BNet := raws.getD i nul
  let g := startPos x ins
  if ¬ c0.seen ∧ ¬ g.all (fun i => (raw i).q) then
    let eff := (List.range ins.length).map (fun i => seenInput x 0 (raw i) (c0.ins.getD i nul))
    ⟨{ c0 with ins := eff, o0 := finalOut c0.o0 c0.o0 (badStamp raw g) (fun _ => false)
               o1 := finalOut c0.o1 c0.o1 (badStamp raw g) (fun _ => false) }, []⟩
  else
    let start := if x.env.first then b else if c0.seen then x.env.old
      else g.foldl (fun t i => if (c0.ins.getD i nul).q then t else laterOf (raw i).t t) (refresh b x.env.bR)
    let prev (i : Nat) : BNet :=
      if c0.seen then c0.ins.getD i nul
      else ⟨isDual x.cfg.typ && x.antiv && x.twoCh && i == 1, (raw i).q, (c0.ins.getD i nul).t⟩
    let eff := (List.range ins.length).map (fun i => seenInput x start (raw i) (prev i))
    let cur (i : Nat) : BNet :=
      let e := eff.getD i nul
      if !c0.seen && e.v != (prev i).v then { e with t := laterOf e.t start } else e
    let changed := (List.range ins.length).filter (fun i => (cur i).v != (prev i).v || (cur i).q != (prev i).q)
    let ed := if x.cfg.typ = 0x33 then (x.env.edges (bits (x.word 0) 4 0)).2.map (fun e => e.1.setWidth 32) else []
    let entry := if c0.seen then [] else [start]
    let ts := (entry ++ changed.map (fun i => (cur i).t) ++ ed).foldl (fun l t => putStamp b t l) []
    let c := if c0.seen then { c0 with s1 := refresh b c0.s1, s2 := refresh b c0.s2, clr := refresh b c0.clr, acc3 := refresh b c0.acc3
                                       g3 := c0.g3.map (refresh b), gOwn := c0.gOwn.map (refresh b) }
             else cellStart x c0 start
    let c := if x.cfg.typ = 0x23 then { c with f1 := false } else if x.cfg.typ = 0x15 then { c with f1 := false } else c
    let c := if x.cfg.typ = 0x20 then { c with o0 := c.o0.put false b } else c
    let at_ (t : Stamp) (strict : Bool) (i : Nat) : BNet :=
      let age := (b - (cur i).t).toNat
      let lim := (b - t).toNat
      if changed.contains i ∧ (lim < age ∨ (¬ strict ∧ age = lim)) then cur i
      else if changed.contains i then prev i else cur i
    let r := ts.foldl (fun r t =>
        let r := cellClose x false (at_ t true) (at_ t false) r t
        cellEvent x ins r ⟨at_ t true, at_ t false, t⟩) (CR.mk c [])
    let r := cellClose x true cur cur r b
    let rise := match rstPos ins with | some i => (cur i).v && !(prev i).v | none => false
    let r := cellFinish x cur r rise
    let ana := if x.cfg.typ = 0x31 then brStatus x r else if x.cfg.typ = 0x32 then chWord x r cur else 0
    let o0 := if x.cfg.typ = 0x40 then (sesinBits x r.c).headD r.c.o0
              else finalOut c0.o0 r.c.o0 (badStamp raw (blamed x ins r.c false)) (x.heldBy r.c cur false)
    let log := if x.cfg.log && o0.v != c0.o0.v then r.log ++ [[9, x.cfg.slot, if o0.v then 1 else 0, o0.t.toNat]] else r.log
    ⟨{ r.c with ins := eff, o0 := o0
                o1 := finalOut c0.o1 r.c.o1 (badStamp raw (blamed x ins r.c true)) (x.heldBy r.c cur true)
                a1 := finalAna b c0.a1 ana }, log⟩

end Sys2Proof.Machine
end

