-- ==== Sys2Proof/Machine/Frames.lean ====
section
/-! DEFINITION. The coupler frames: layouts, check value, auxiliary words (R69 to R74), and what the logic
side holds as a channel's front-end configuration. -/

namespace Sys2Proof.Machine

/-- The CRC of a frame: header byte of direction and channel, then the seven upper bytes but one (R70). -/
def frameCrc (down : Bool) (n : Nat) (w : BitVec 64) : BitVec 16 :=
  let v := w.toNat
  crc16 (BitVec.ofNat 8 ((if down then 0x80 else 0) + n) ::
    [56, 48, 40, 32, 24, 16].map (fun i => BitVec.ofNat 8 (v >>> i)))

/-- A frame with its CRC in place. -/
def sealFrame (down : Bool) (n : Nat) (w : Nat) : BitVec 64 :=
  let b := BitVec.ofNat 64 (w / 65536 * 65536)
  BitVec.ofNat 64 (w / 65536 * 65536 + (frameCrc down n b).toNat)

/-- Whether a frame's CRC matches (R70). -/
def frameOk (down : Bool) (n : Nat) (w : BitVec 64) : Bool := w.toNat % 65536 == (frameCrc down n w).toNat

def b2n (b : Bool) : Nat := if b then 1 else 0

/-- The fields of a downlink frame. -/
def downFrame (n seq : Nat) (reqa enaa reqb enab tpd : Bool) (dts : Nat) (stdq : Bool) (aux : Nat) : BitVec 64 :=
  sealFrame true n (seq % 16 * 2 ^ 60 + b2n reqa * 2 ^ 59 + b2n enaa * 2 ^ 58 + b2n (!reqb) * 2 ^ 57
    + b2n enab * 2 ^ 56 + b2n tpd * 2 ^ 55 + dts % 4 * 2 ^ 53 + b2n stdq * 2 ^ 52 + aux % 16 * 2 ^ 48)

/-- The nibble of an auxiliary word that goes with a SEQ. -/
def auxNibble (w : BitVec 64) (seq : Nat) : Nat := bits w.toNat (63 - 4 * seq) (60 - 4 * seq)

/-- A downlink auxiliary word: register number and value. -/
def downAux (reg : Nat) (v : Word) : BitVec 64 := BitVec.ofNat 64 (reg % 256 * 2 ^ 56 + v.toNat * 2 ^ 24)

/-- An uplink auxiliary word. -/
def upAux (reg : Nat) (v : Word) (temp : BitVec 8) (vb : Nat) : BitVec 64 :=
  BitVec.ofNat 64 (reg % 256 * 2 ^ 56 + v.toNat * 2 ^ 24 + temp.toNat * 2 ^ 16 + vb % 16384 * 4)

/-- The word that sixteen nibbles spell, first nibble highest. -/
def nibblesWord (l : List Nat) : Nat := l.foldl (fun a x => 16 * a + x % 16) 0

/-- A code of 14 bits, saturated at the ends of the range (R65). -/
def code14 (x : Int) : Nat := unsign 14 (satSigned 14 x)

/-- The fields of a channel's three trim words, from bit 0 of the first word upward (R426). -/
def unpackTrim (w0 w1 w2 : Word) : Trim :=
  let v : BitVec 96 := w2 ++ w1 ++ w0
  { vOff := v.extractLsb' 0 8, vGain := v.extractLsb' 8 10, lOff := v.extractLsb' 18 8, lGain := v.extractLsb' 26 10
    hOff := v.extractLsb' 36 8, hGain := v.extractLsb' 44 10
    rv := v.extractLsb' 54 6, fv := v.extractLsb' 60 6, ri := v.extractLsb' 66 6, fi := v.extractLsb' 72 6
    ref := v.extractLsb' 78 8 }

/-- The values of the fields in their order. -/
def Trim.fields (t : Trim) : List Nat :=
  [t.vOff.toNat, t.vGain.toNat, t.lOff.toNat, t.lGain.toNat, t.hOff.toNat, t.hGain.toNat, t.rv.toNat, t.fv.toNat, t.ri.toNat,
    t.fi.toNat, t.ref.toNat]

/-- The factory trim of a channel as the fuse shadows hold it (R426, R435). -/
def trimOf (s : State) (n : Nat) : Trim :=
  let w (k : Nat) : Word := s.otp.shadow.trim.getD (3 * n + k) 0
  unpackTrim (w 0) (w 1) (w 2)

/-- The trim that a front end takes from its registers at a commit: that of the fuses where they hold its packing; what other
contents set is open (DESIGN CHOICE, log 7). -/
def trimIn (s : State) (n : Nat) (cfg : Tab Word) : Trim :=
  let ws := (List.range 7).map (fun k => cfg.get 0 (5 + k))
  if ws = (List.range 7).map (fun k => Config.feTrim k (trimOf s n).fields) then trimOf s n
  else
    let f (i : Nat) : Nat := Config.trimField i ws
    { vOff := BitVec.ofNat 8 (f 0), vGain := BitVec.ofNat 10 (f 1), lOff := BitVec.ofNat 8 (f 2), lGain := BitVec.ofNat 10 (f 3)
      hOff := BitVec.ofNat 8 (f 4), hGain := BitVec.ofNat 10 (f 5), rv := BitVec.ofNat 6 (f 6), fv := BitVec.ofNat 6 (f 7)
      ri := BitVec.ofNat 6 (f 8), fi := BitVec.ofNat 6 (f 9), ref := BitVec.ofNat 8 (f 10) }

/-- A sample under an offset and a gain of 1 + (g - 512) / 10240 (R426); between two codes the rounding is open. -/
def trimmed (n : Nat) (off : BitVec 8) (gain : BitVec 10) (x : Int) : Int :=
  let y := x * (9728 + gain.toNat)
  let q := y / 10240
  (if y % 10240 = 0 then q else if Config.trimRound n y then q + 1 else q) + off.toInt

/-- The front-end configuration that the lanes hold for a channel, registers 0x00 to 0x0B (R73, R74). -/
def cfgWord (s : State) (n reg : Nat) : Word :=
  match reg with
  | 0 => s.rget (R.CHN_CFG n) &&& 0x003FFFFF#32
  | 1 => s.rget (R.CHN_FILT n)
  | 2 => s.rget R.CHN_TPCFG
  | 3 => s.rget (R.CHN_OCFG n)
  | 4 => s.rget (R.CHN_LST n)
  | k => Config.feTrim (k - 5) (trimOf s n).fields

/-- The registers of a whole configuration. -/
def cfgTab (s : State) (n : Nat) : Tab Word := ⟨(List.range 12).map (fun r => (r, cfgWord s n r))⟩

/-! ### What the front end holds -/

/-- A front-end register in force. -/
def Fe.reg (f : Fe) (r : Nat) : Word := f.held.get 0 r

/-- The mode in use: measurement only until a commit (R44, R257). -/
def Fe.mode (f : Fe) : Nat := (f.reg 0).toNat % 8

def Fe.srcsel (f : Fe) : Nat := bits (f.reg 0).toNat 15 14
def Fe.itype (f : Fe) : Nat := bits (f.reg 0).toNat 13 12
def Fe.nLim (f : Fe) : Nat := bits (f.reg 1).toNat 27 16
def Fe.deb (f : Fe) : Nat := bits (f.reg 1).toNat 15 0
def Fe.dip (f : Fe) : Nat := bits (f.reg 2).toNat 9 0
def Fe.pms (f : Fe) : Nat := bits (f.reg 2).toNat 25 16
def Fe.otype (f : Fe) : Nat := bits (f.reg 3).toNat 23 22
def Fe.lead (f : Fe) : Nat := bits (f.reg 3).toNat 5 0
def Fe.lsto (f : Fe) : Nat := bits (f.reg 4).toNat 13 0
def Fe.lsst (f : Fe) : Nat := bits (f.reg 4).toNat 17 16

/-- The front end works with a committed configuration and has no configuration fault (R73). -/
def Fe.live (f : Fe) : Bool := f.committed && !f.cfgFlt

/-- The supply is present at this front end (R258). -/
def Fe.powered (f : Fe) : Bool := !(f.band == .absent || f.band == .reversed)

/-- A failed check in FE_SELF (R457). -/
def Fe.selfBad (f : Fe) : Bool := f.selfReg.toNat % 128 != 0

/-- FLT: a front-end fault is present (R73, R75, R239, R258, R260, R460). -/
def Fe.fltBit (f : Fe) : Bool :=
  f.cfgFlt || f.climLatch.isSome || f.supLatch.isSome || f.stFail || f.selfBad

/-- The output-stage test leaves the switches to the lanes (R459, R460). -/
def Fe.stageOk (f : Fe) : Bool := !f.stPend && f.stRun.isNone && !f.stFail

/-- Own terminal B is the contact source of an input mode, pulsed or steady (R43, "Sources and test pulses"). -/
def Fe.hasSource (f : Fe) : Bool :=
  (isInputMode f.mode && (f.srcsel == 0 || f.srcsel == 1)) || f.mode == 6

/-- A pulsed source: a test-pulse source, or the own terminal B with srcsel 0b00 (R53). -/
def Fe.pulsed (f : Fe) : Bool := ((f.mode == 1 || f.mode == 2) && f.srcsel == 0) || f.mode == 6

end Sys2Proof.Machine
end

