-- ==== Sys2Proof/Machine/Press.lean ====
section
/-! DEFINITION. The lanes: snapshots, cycles, tasting slices and releases (R21 to R23, R105 to R113, R116 to
R136, R210 to R213, R448 to R454, R534). -/

namespace Sys2Proof.Machine

/-- The lanes and the comparator still work: in RUN, and to the end of the microtick in which the module goes to SAFE
(R222, R226). -/
def State.pressLive (s : State) : Bool := s.mode == .run || (s.mode == .safe && s.safeFrom == s.now)

/-- The press cycle in microticks (R104). -/
def State.cyc (s : State) : Nat := (s.fget F.PRS_CYC_cdiv + 1) * 4

/-! ### Complement -/

/-- How a lane holds a net: Lane B complemented (R116). -/
def holdB (l : Lane) (n : BNet) : BNet := match l with | .a => n | .b => n.cpl
def holdA (l : Lane) (n : ANet) : ANet := match l with | .a => n | .b => n.cpl

/-- What a lane reads of its boolean net memory, in true terms; an undriven net holds the value of R120. -/
def readB (l : Lane) (t : Tab BNet) (n : Nat) : BNet := holdB l (t.get (holdB l BNet.undriven) n)
def readA (l : Lane) (t : Tab ANet) (n : Nat) : ANet := holdA l (t.get (holdA l ANet.undriven) n)
def writeB (l : Lane) (t : Tab BNet) (n : Nat) (x : BNet) : Tab BNet := t.set n (holdB l x)
def writeA (l : Lane) (t : Tab ANet) (n : Nat) (x : ANet) : Tab ANet := t.set n (holdA l x)

def State.lane (s : State) : Lane → LaneSt
  | .a => s.la
  | .b => s.lb

def State.setLane (s : State) (l : Lane) (x : LaneSt) : State :=
  match l with
  | .a => { s with la := x }
  | .b => { s with lb := x }

/-- How a lane holds the state of a cell: Lane B complemented (R124, R135). -/
def holdC (l : Lane) (c : CellSt) : CellSt := match l with | .a => c | .b => c.cpl

/-- The state registers of a slot as a lane holds them: a NULL slot's are 0, a cell's that has not run yet are at reset (R124). -/
def heldCell (l : Lane) (t : Tab CellSt) (typ j : Nat) : CellSt :=
  t.get (holdC l (if typ = 0 then CellSt.null else CellSt.reset)) j

/-- The same in true terms. -/
def cellOf (l : Lane) (t : Tab CellSt) (typ j : Nat) : CellSt := holdC l (heldCell l t typ j)

/-- A set trip latch among the cells of a lane. -/
def anyTrip (l : Lane) (t : Tab CellSt) : Bool := t.entries.any (fun e => (holdC l e.2).trip)

/-- A history without the entries that no snapshot needs any more: all from t on, and the newest before it. -/
def keepRecent {α : Type} (t : Nat) : List (Nat × α) → List (Nat × α)
  | [] => []
  | e :: l => if e.1 < t then [e] else e :: keepRecent t l

/-- The configuration that a lane holds, in true form. -/
def State.img (s : State) : Lane → Img
  | .a => imgA s
  | .b => imgB s

/-! ### The snapshot -/

/-- The sample of a channel that a snapshot of boundary b holds last (R21). -/
def lastSample (c : Chan) (b : Nat) : Option Sample := c.hist.find? (fun x => decide (x.idx < b))

/-- The first sample of a snapshot at which a channel fault shows: a valid sample is followed by an invalid one, or a channel
fault arises at its index while the channel is invalid already (R35, R38). -/
def fallIn (c : Chan) (prev b : Nat) : Option Sample :=
  (((c.hist.zip (c.hist.drop 1)).filter (fun e =>
    decide (prev ≤ e.1.idx) && decide (e.1.idx < b)
      && ((!e.1.valid && e.2.valid) || c.faults.contains e.1.idx))).map (fun e => { e.1 with valid := false })).getLast?

/-- What a snapshot shows of a channel: its last sample, or the fault that arose in it, even one that has gone again (R38). -/
def shownSample (c : Chan) (prev b : Nat) : Option Sample :=
  match fallIn c prev b with
  | some x => some x
  | none => lastSample c b

/-- The net of a channel's IN (R118, R119). -/
def chanNet (s : State) (prev b n : Nat) : BNet :=
  match shownSample (s.chan n) prev b with
  | none => ⟨false, false, 0⟩
  | some x => ⟨x.inn, x.valid, x.stamp⟩

/-- Validity of a channel as OUTP and SPEED read it. -/
def chanValid (s : State) (prev b n : Nat) : BNet :=
  match shownSample (s.chan n) prev b with
  | none => ⟨false, true, 0⟩
  | some x => ⟨x.valid, true, x.stamp⟩

/-- A channel's voltage and current nets (R118, R119). -/
def chanAna (s : State) (prev b n : Nat) : ANet × ANet :=
  match shownSample (s.chan n) prev b with
  | none => (ANet.undriven, ANet.undriven)
  | some x => (⟨x.v.signExtend 16, x.valid, BitVec.ofNat 32 x.idx⟩, ⟨x.i.signExtend 16, x.valid, BitVec.ofNat 32 x.idx⟩)

/-- The host request nets that a snapshot holds (R123). -/
def hreqNet (s : State) (b i : Nat) : BNet :=
  match s.hreq.find? (fun e => decide (e.1 < b)) with
  | none => ⟨false, true, 0⟩
  | some (t, w) => ⟨w.getLsbD i, true, BitVec.ofNat 32 t⟩

/-- The latest entry of a history that a snapshot of boundary b holds: what happened before it, and a window that has closed at
it (R21, R99). -/
def seenAt {α : Type} (close : α → Bool) (b : Nat) (l : List (Nat × α)) : Option (Nat × α) :=
  l.find? (fun e => decide (e.1 < b) || (close e.2 && decide (e.1 ≤ b)))

/-- The half of the session engine that a lane reads (R29, R298): Lane B restores its own. -/
def Ses.half (x : Ses) : Lane → SesHalf
  | .a => x.ha
  | .b => x.hb.restore

/-- The window of a session that a boundary finds closed (R288, R289), by its end. -/
def closedAt (h : SesHalf) (lim b : Nat) : Option Nat :=
  match h.win with
  | some w => if (h.st = .run ∨ h.st = .hold) ∧ w + lim ≤ b then some (w + lim) else none
  | none => none

/-- What a lane's snapshot holds of a session, from the lane's own half (R21, R207, R288, R289). -/
def sesView (s : State) (l : Lane) (i b : Nat) : SesView :=
  let h := (s.sess i).half l
  let shut := closedAt h (s.fget (F.SES_LIM_lim i)) b
  let entry := match shut, seenAt SesBits.close b h.bits with
    | some t, _ => some (t, (⟨true, false, none, []⟩ : SesBits))
    | none, e => e
  let fault : Option Nat := match shut with
    | some t => some t
    | none => (seenAt SesBits.close b (h.bits.filter (fun e => !e.2.valid))).map Prod.fst
  let ok := match shut, seenAt (fun e => e.1) b h.oks with
    | some t, some e => if h.st = SesSt.run then (t, false) else (e.1, e.2.2)
    | _, some e => (e.1, e.2.2)
    | _, none => (0, false)
  let tick (n : Nat) : Tick := BitVec.ofNat 64 n
  { ok := ok.2, okT := tick ok.1
    entry := entry.map (fun e => (tick e.1, e.2.valid, e.2.vals))
    runAt := entry.bind (fun e => if e.2.valid then e.2.run else none)
    fault := fault.map tick }

/-- The position of a counter pair as a lane holds it, and its edges between two boundaries (R63, R64, R203): every counted edge,
whether or not the channels are valid. -/
def pairEdges (s : State) (l : Lane) (prev b p : Nat) : Int × List (Tick × Int) :=
  let c := s.chan (2 * p)
  let edges := match l with | .a => c.edges | .b => c.edgesB
  let l' := (edges.filter (fun e => e.1 < b)).reverse
  let before := l'.filter (fun e => e.1 < prev)
  let now := l'.filter (fun e => prev ≤ e.1)
  let last := match lastSample c b with
    | some x => (match l with | .a => x.pos | .b => x.posB)
    | none => (match l with | .a => 0 | .b => -1)
  (match now.getLast? with | some e => e.2 | none => (match before.getLast? with | some e => e.2 | none => last),
    now.map (fun e => (BitVec.ofNat 64 e.1, e.2)))

/-- The snapshot of a cycle from what a lane holds, in true form (R21); a channel that is invalid in it is invalid with whatever
change it holds (R38). Lane B's counters are the complements that it counts. -/
def snapshot (s : State) (l : Lane) (k b prev : Nat) (first : Bool) : Snap :=
  let prev := if first then b else prev
  let inNets := (allChans.filter (fun n => let m := s.chMode n; m == 1 || m == 2 || m == 3)).map
    (fun n => (16 + n, chanNet s prev b n))
  { boundary := b, cycle := k, first := first, step := 0
    bnets := ⟨(0, ⟨false, true, 0⟩) :: (1, ⟨true, true, 0⟩) :: inNets
      ++ (List.range 16).map (fun i => (112 + i, hreqNet s b i))⟩
    anets := ⟨allChans.map (fun n => (n, (chanAna s prev b n).1)) ++ allChans.map (fun n => (48 + n, (chanAna s prev b n).2))⟩
    valids := ⟨allChans.map (fun n => (n, chanValid s prev b n))⟩
    counters := ⟨(List.range 24).map (fun p => (p, pairEdges s l prev b p))⟩
    ses := ⟨s.ses.entries.map (fun e => (e.1, sesView s l e.1 b))⟩ }

/-- What a snapshot holds of a session, complemented. -/
def SesView.cpl (v : SesView) : SesView :=
  { ok := !v.ok, okT := ~~~v.okT, entry := v.entry.map (fun e => (~~~e.1, !e.2.1, e.2.2.map (!·)))
    runAt := v.runAt.map (~~~·), fault := v.fault.map (~~~·) }

/-- The snapshot as Lane B holds it: nets, validity, consumed bits and the indexes of the counted edges complemented (R29, R116); its
counters are complements already (R64). -/
def Snap.cpl (x : Snap) : Snap :=
  { x with counters := x.counters.map (fun c => (c.1, c.2.map (fun e => (~~~e.1, e.2))))
           bnets := x.bnets.map BNet.cpl, anets := x.anets.map ANet.cpl, valids := x.valids.map BNet.cpl, ses := x.ses.map SesView.cpl }

/-! ### Evaluation -/

/-- What an evaluation has written so far. -/
structure Work where
  nets  : Tab BNet
  anets : Tab ANet
  cells : Tab CellSt
  log   : List (List Nat)

/-- Whether a cell type's second output is analog. -/
def anaOut (t : Nat) : Bool := t == 0x31 || t == 0x32

/-- The boundary index of a lane's cycle by its own count; Lane B's is Lane A's plus C/2 (R112). -/
def laneBound (s : State) (l : Lane) (x : LaneSt) : Nat :=
  match l with
  | .a => x.bnd
  | .b => x.bnd - s.cyc / 2

/-- Surroundings of a cell as the lane holds them: Lane B's are complements (R116, R135). -/
def laneEnv (s : State) (l : Lane) (x : LaneSt) (sn : Snap) (w : Work) : Env :=
  let hold (w : Tick) : Tick := match l with | .a => w | .b => ~~~w
  let tick (n : Nat) : Tick := hold (BitVec.ofNat 64 n)
  let stamp (n : Nat) : Stamp := (tick n).setWidth 32
  let none_ : SesView := ⟨false, 0, none, none, none⟩
  let b := laneBound s l x
  { img := s.img l, first := sn.first, b := stamp b, bNat := tick b, bR := stamp x.bR, old := stamp (max x.bR (b - 2 ^ 30))
    bnet := w.nets.get (holdB l BNet.undriven), anet := w.anets.get (holdA l ANet.undriven)
    pbnet := x.prevNets.get (holdB l BNet.undriven), panet := x.prevANets.get (holdA l ANet.undriven)
    valid := sn.valids.get (holdB l ⟨false, true, 0⟩)
    edges := sn.counters.get (match l with | .a => (0, []) | .b => (-1, []))
    ses := sn.ses.get (match l with | .a => none_ | .b => none_.cpl)
    unit := s.unitOf }

/-- Surroundings complemented. -/
def Env.cpl (e : Env) : Env :=
  { e with b := ~~~e.b, bNat := ~~~e.bNat, bR := ~~~e.bR, old := ~~~e.old
           bnet := fun n => (e.bnet n).cpl, anet := fun n => (e.anet n).cpl
           pbnet := fun n => (e.pbnet n).cpl, panet := fun n => (e.panet n).cpl
           valid := fun k => (e.valid k).cpl
           edges := fun p => (-1 - (e.edges p).1, (e.edges p).2.map (fun d => (~~~d.1, -1 - d.2)))
           ses := fun i => (e.ses i).cpl }

/-- The dual of a function of a cell (R135): on complemented inputs and state it yields the complement of what the function
yields, so that an AND becomes an OR of complements, a count runs on the complement, and stamps compare complemented. -/
def dual (f : Ctx → CellSt → CR) (x : Ctx) (c : CellSt) : CR :=
  let r := f ⟨x.cfg, x.env.cpl⟩ c.cpl
  ⟨r.c.cpl, r.log⟩

/-- The function of a cell type as a lane's circuit computes it: Lane B's is the dual of Lane A's (R135). -/
def circuit (l : Lane) (f : Ctx → CellSt → CR) : Ctx → CellSt → CR := match l with | .a => f | .b => dual f

/-- The bits of a SESIN block as a lane drives them. -/
def heldBits (l : Lane) (x : Ctx) (c : CellSt) : List BNet :=
  match l with
  | .a => sesinBits x c
  | .b => (sesinBits ⟨x.cfg, x.env.cpl⟩ c.cpl).map BNet.cpl

/-- Write what a cell drives (R118, R129). -/
def driveNets (l : Lane) (x : Ctx) (r : CR) (w : Work) : Work :=
  let c := x.cfg
  let nets :=
    if c.out0 = 0 then w.nets
    else if c.typ = 0x40 then
      ((heldBits l x r.c).zipIdx).foldl (fun t e => t.set (c.out0 + e.2) e.1) w.nets
    else w.nets.set c.out0 r.c.o0
  let nets := if c.out1 = 0 || anaOut c.typ then nets else nets.set c.out1 r.c.o1
  let anets := if c.out1 ≠ 0 && anaOut c.typ then w.anets.set c.out1 r.c.a1 else w.anets
  { w with nets := nets, anets := anets, cells := w.cells.set c.slot r.c, log := w.log ++ r.log }

/-- Evaluate one slot by the lane's circuit for its type (R124, R130, R134, R135). -/
def evalSlot (s : State) (l : Lane) (x : LaneSt) (sn : Snap) (w : Work) (j : Nat) : Work :=
  let cfg := (s.img l).cell j
  if cfg.typ = 0 then w
  else
    let ctx : Ctx := ⟨cfg, laneEnv s l x sn w⟩
    driveNets l ctx (circuit l evalCell ctx (heldCell l w.cells cfg.typ j)) w

/-- A net memory upset: the stored bits of a boolean net change, or of analog net n as net 4096 + n (R154, R221), whose value,
valid bit and stamp are bits 48 to 33, 32 and 31 to 0. -/
def upsetNets (l : Lane) (x : LaneSt) (u : NetUpset) : LaneSt :=
  if u.net.val < 4096 then
    let n := x.nets.get (holdB l BNet.undriven) u.net.val
    { x with nets := x.nets.set u.net.val ⟨n.v ^^ u.bits.getLsbD 33, n.q ^^ u.bits.getLsbD 32, n.t ^^^ u.bits.setWidth 32⟩ }
  else
    let k := u.net.val - 4096
    let n := x.anets.get (holdA l ANet.undriven) k
    { x with anets := x.anets.set k ⟨n.x ^^^ u.bits.extractLsb' 33 16, n.q ^^ u.bits.getLsbD 32, n.t ^^^ u.bits.setWidth 32⟩ }

/-- One cycle of a lane on a snapshot as it holds it. -/
def evalLane (s : State) (l : Lane) (sn : Snap) (upset : List NetUpset) : LaneSt × List (List Nat) :=
  let x := s.lane l
  let x := { x with prevNets := x.nets, prevANets := x.anets }
  let w0 : Work := {
    nets := sn.bnets.entries.foldl (fun t e => t.set e.1 e.2) x.nets
    anets := sn.anets.entries.foldl (fun t e => t.set e.1 e.2) x.anets
    cells := x.cells, log := [] }
  let w := (List.range (s.img l).cellCount).foldl (evalSlot s l x sn) w0
  (upset.foldl (upsetNets l) { x with nets := w.nets, anets := w.anets, cells := w.cells, snap := some sn
                                      startAt := s.now, evaled := true }, w.log)

/-- Reports of the cells go to the journal from Lane A (R168). -/
def journalCells (s : State) (l : Lane) (log : List (List Nat)) : State :=
  match l with
  | .a => log.foldl (fun s e => report s 3 e) s
  | .b => s

/-- A set trip latch drives FAULT_N low (R484). -/
def tripLow (s : State) (l : Lane) : State :=
  if anyTrip l (s.lane l).cells then { s with pins := { s.pins with faultN := false } } else s

/-! ### Tasting slices -/

/-- Steps of each region (R448, the slice list). -/
def regionSteps (id : Nat) : Nat :=
  [0, 8192, 4096, 256, 2048, 1088, 4096, 8192, 512, 1024, 256, 64, 768, 192, 512, 32].getD id 0

/-- Steps of one pass. -/
def passSteps : Nat := 31328

/-- The region order of the registers (R455). -/
def bstOrder (o0 o1 : Word) : List Nat :=
  (List.range 15).map (fun i => if i < 8 then bits o0.toNat (4 * i + 3) (4 * i) else bits o1.toNat (4 * i - 29) (4 * i - 32))

/-- Region and step within it of a step of a pass. -/
def regionAt : List Nat → Nat → Nat × Nat
  | [], n => (0, n)
  | r :: l, n => if n < regionSteps r then (r, n) else regionAt l (n - regionSteps r)

/-- Steps per slice for a slice length in 0.1 µs (R448). -/
def sliceK (sl : Nat) : Nat := (sl - 1) / 4

/-- The bound of R453 in microseconds. -/
def fullCover (k c src : Nat) : Nat :=
  let n := (passSteps + k - 1) / k
  if src = 0 then n * c else (2 * n + c / 2) * (c + 1)

/-- A failure of a slice (R452, R464). Of several, BST_FAIL keeps the one with the lowest cause of its microtick, as
SYS_FAULT does; a disagreement of the lanes names Lane B, which is the one that completes it (DESIGN CHOICE, log 52). -/
def bstFail (s : State) (l : Lane) (cause region step : Nat) : State :=
  let w := 2 ^ 31 + (match l with | .a => 0 | .b => 2 ^ 30) + cause * 2 ^ 16 + region % 16 * 1024 + step % 1024
  let s := if s.flag F.BST_FAIL_vld ∧ ¬ (cause < s.fget F.BST_FAIL_cause ∧ s.rget R.BST_FTS = s.stamp) then s
           else (s.rput R.BST_FAIL (BitVec.ofNat 32 w)).rput R.BST_FTS s.stamp
  deviceFault s cause

/-- Lane clocks in a microtick (R84). -/
def laneRate : Lane → Nat
  | .a => 250
  | .b => 240

/-- The microtick that holds a lane clock, counted from the start of a slice: the first lane clock after the evaluation (R448). -/
def sliceAt (l : Lane) (x : Slice) (c : Nat) : Nat := x.at_ + (x.clocks + c) / laneRate l

/-- The lane clocks of the time box (R450), and of the steps before step j, 0.4 µs each (R448). -/
def boxClocks (s : State) (l : Lane) : Nat := s.fget F.BST_STAT_slice * laneRate l / 10
def stepClocks (l : Lane) (j : Nat) : Nat := j * laneRate l * 2 / 5

/-- The box closes with a step still running (R450): what SLICE_OVERRUN then reports. -/
def sliceOver (s : State) (x : Slice) : Bool := s.fget F.BST_STAT_slice * 256 / 10 < x.obs.dur

/-- The microtick in which a slice ends; one that its box cuts leaves SLICE_OVERRUN that microtick. -/
def sliceEnd (s : State) (l : Lane) (x : Slice) : Nat :=
  if sliceOver s x then sliceAt l x (boxClocks s l) + 1 else sliceAt l x (x.obs.dur * laneRate l / 256)

/-- The steps of a slice: k, or what is left of the pass. -/
def sliceSteps (s : State) (l : Lane) : Nat := min (s.fget F.BST_STAT_k) (passSteps - (s.lane l).sstep)

/-- The slice registers of a lane. -/
def slReg : Lane → Nat
  | .a => R.BST_SLA
  | .b => R.BST_SLB

/-- Show a slice (R464): the region of its last step with the share of the region's steps completed, and the steps run. Lane A's
steps are those of the pass. -/
def showSlice (s : State) (l : Lane) (x : Slice) (region done ran : Nat) (completed : Nat) : State :=
  let cov := done * 1000 / max 1 (regionSteps region)
  let s := s.rput (slReg l) (BitVec.ofNat 32
    (region * 2 ^ 28 + cov % 1024 * 2 ^ 14 + ran % 8 * 2 ^ 11 + min x.obs.dur (s.fget F.BST_STAT_slice * 256 / 10)))
  match l with
  | .a => s.fput F.BST_PASS_step (min ((s.lane l).sstep + completed) 0xFFFF)
  | .b => s

/-- A slice begins; Lane A's first one of a pass opens the pass, with the order then in force (R451, R454, R455). -/
def beginSlice (s : State) (l : Lane) (x : Slice) : State :=
  let s : State := match l with
    | .b => s
    | .a =>
      if s.mode ≠ .run then s
      else
        let s := s.rput R.BST_SLTS (BitVec.ofNat 32 (sliceAt .a x 0))
        if s.la.sstep ≠ 0 then s
        else
          let s := { s with taste := { s.taste with passAt := sliceAt .a x 0, running := true
                                                    order := bstOrder (s.rget R.BST_ORD0) (s.rget R.BST_ORD1) } }
          s.fput F.BST_STAT_run 1
  s.setLane l { s.lane l with slice := some { x with begun := true, order := s.taste.order } }

/-- The slice is over. -/
def dropSlice (s : State) (l : Lane) : State := s.setLane l { s.lane l with slice := none }

/-- What a slice saved is read back otherwise (R449). -/
def restoreCheck (s : State) (l : Lane) (x : Slice) : State :=
  if x.obs.restoreOk then s
  else
    let (r, st) := regionAt x.order (s.lane l).sstep
    bstFail s l 0x65 r st

/-- A step fails (R452): it has run, and the steps before it are the completed ones (DEDUCED, log 21). -/
def failSlice (s : State) (l : Lane) (x : Slice) (j : Nat) : State :=
  let (r, st) := regionAt x.order ((s.lane l).sstep + j)
  let t := if s.mode = .run then showSlice s l x r st (j + 1) j else s
  let t := bstFail t l 0x64 r st
  let t := if sliceEnd s l x ≤ s.now then restoreCheck t l x else t
  dropSlice t l

/-- Both lanes have run the slice of a cycle: they are compared (R451). -/
def compareSlices (s : State) (cyc : Nat) : State :=
  match s.la.results.find? (fun e => e.1 == cyc), s.lb.results.find? (fun e => e.1 == cyc) with
  | some a, some b => if a = b then s else bstFail s .b 0x68 b.2.1 b.2.2.1
  | _, _ => s

/-- Lane A's last step of a pass has completed (R453, R454): the pass lasts to the end of the cycle of its last slice (DEDUCED, log
21). -/
def passDone (s : State) (x : Slice) (region step : Nat) : State :=
  let s := { s with taste := { s.taste with running := false } }
  if s.taste.passAt + s.taste.tdl + 1000 ≤ sliceEnd s .a x then bstFail s .a 0x67 region step
  else
    let s := ((s.finc F.BST_PASS_cnt).fput F.BST_PTIME_us (sliceAt .a x 0 + s.cyc - s.taste.passAt)).fput F.BST_EV_pdone 1
    (s.fput F.BST_PASS_step 0).fput F.BST_STAT_pass0 1

/-- A slice ends; it touches no configuration and no result (R156). Once a device fault of the same microtick has led to SAFE, its
result is not recorded, and a failure still is (R462). -/
def finishSlice (s : State) (l : Lane) (x : Slice) : State :=
  if s.mode ≠ .run then dropSlice (restoreCheck s l x) l
  else
    let base := (s.lane l).sstep
    let n := sliceSteps s l
    let (region, step) := regionAt x.order base
    let (region', step') := regionAt x.order (base + n - 1)
    let s := restoreCheck (showSlice s l x region' (step' + 1) n n) l x
    let next := if base + n = passSteps then 0 else base + n
    let s := dropSlice (s.setLane l { s.lane l with
      sstep := next, results := ((x.cyc, region, step, x.obs.result) :: (s.lane l).results).take 2 }) l
    let s := compareSlices s x.cyc
    match l with
    | .a => if next = 0 then passDone s x region' step' else s
    | .b => s

/-- A slice goes on to the present microtick: it begins, a step fails, it ends (R448 to R452). With the lanes it stops at the end of
the microtick of an entry to SAFE, and nothing is restored (R226, R462). -/
def advanceSlice (s : State) (l : Lane) : State :=
  match (s.lane l).slice with
  | none => s
  | some x =>
    if ¬ s.pressLive then dropSlice s l
    else if s.now < sliceAt l x 0 then s
    else
      let s := if x.begun then s else beginSlice s l x
      match (s.lane l).slice with
      | none => s
      | some x =>
        let fails := x.obs.failStep.filter (fun j =>
          decide (j.val < sliceSteps s l) && decide (sliceAt l x (stepClocks l j.val) ≤ s.now))
        match fails with
        | some j => failSlice s l x j.val
        | none => if sliceEnd s l x ≤ s.now then finishSlice s l x else s

/-- The slice of a cycle follows its evaluation (R448). -/
def startSlice (s : State) (l : Lane) (cyc clocks : Nat) (o : SliceObs) : State :=
  if s.fget F.BST_STAT_k = 0 then s
  else advanceSlice (s.setLane l { s.lane l with slice := some ⟨s.now, clocks, o, cyc, [], false⟩ }) l

/-! ### Sync -/

/-- 802.1AS time of the start of a microtick in nanoseconds, from the time latched for this one (R328). -/
def State.asTime (s : State) (k : Nat) : Int := s.net.asNow + ((k : Int) - s.now) * 1000

/-- Fold a phase error into -C/2 to C/2 - 1 (R107). -/
def foldPhase (c e : Int) : Int := (e + c / 2) % c - c / 2

/-- The sync source is valid (R109). -/
def State.srcValid (s : State) : Bool :=
  match s.fget F.PRS_SYNC_src with
  | 1 => !s.hub.srcBad && s.hub.lastEdge.isSome
  | 2 => s.flag F.NET_TSTAT_sync
  | _ => false

/-- Loss of sync with its cause (R109). -/
def loseSync (s : State) (cause : Nat) : State :=
  if s.hub.lost then s
  else
    let s := { s with hub := { s.hub with lost := true, step := 0 } }
    let s := ((s.fput F.PRS_SSTAT_lost 1).fput F.PRS_SSTAT_lostev 1).fput F.PRS_SSTAT_lcause cause
    s.fput F.PRS_SSTAT_lock 0

/-- The phase error between the next boundary and the target (R107). -/
def phaseErr (s : State) : Int :=
  let c : Int := s.cyc
  let next : Int := s.hub.next
  let offs : Int := s.fget F.PRS_SYNC_offs
  match s.fget F.PRS_SYNC_src with
  | 1 => foldPhase c ((s.hub.lastEdge.getD 0 : Nat) + offs - next)
  | 2 => foldPhase c (offs - s.asTime s.hub.next / 1000)
  | _ => 0

/-- Rate trim moves by at most 0.05 ppm per cycle inside its range; where it goes is open (R111). -/
def trimRate (s : State) : State :=
  if s.fget F.PRS_SYNC_rtrim = 0 then s
  else
    let (w, s) := s.draw
    let d : Int := (w.toNat % 11 : Nat) - 5
    let t := signed 16 (s.fget F.PRS_STRIM_trim) + d
    s.fput F.PRS_STRIM_trim (unsign 16 (max (-20000) (min 20000 t)))

/-- Once per cycle, as it passes a boundary, the hub measures the phase error of its next boundary and settles the step
that the cycle from there on takes (R107 to R109, R111; DESIGN CHOICE, log 52). -/
def syncStep (s : State) : State :=
  if s.fget F.PRS_SYNC_src = 0 then s
  else if ¬ s.srcValid then
    let s := s.fput F.PRS_SSTAT_lock 0
    if s.fget F.PRS_SYNC_src = 1 ∧ s.hub.lastEdge.isNone then s else loseSync s 1
  else
    let e := phaseErr s
    let s := s.fput F.PRS_SSTAT_err (unsign 8 e)
    if s.hub.lost then s
    else
      let d : Int := if 0 < e then 1 else if e < 0 then -1 else 0
      let half : Int := s.cyc / 2
      let phi := s.hub.phi + d
      if phi < -half ∨ half < phi then loseSync s 2
      else
        let s := { s with hub := { s.hub with step := d } }
        trimRate (s.fbool F.PRS_SSTAT_lock (e.natAbs ≤ 1))

/-! ### Cycle starts -/

/-- An evaluation that has not ended within 288 lane clocks (R136). -/
def overrun (s : State) (l : Lane) : State :=
  deviceFault (s.setLane l { s.lane l with evaled := false }) 0x24

/-- The evaluation time of a lane (R158); one that overruns its 288 lane clocks is not noted, as it has not ended (DESIGN CHOICE, log
52). -/
def noteClocks (s : State) (l : Lane) (clocks : Nat) : State :=
  match l with
  | .a => s.fpeak F.PRS_ETIME_amax clocks
  | .b => s.fpeak F.PRS_ETIME_bmax clocks

/-- The boundary after a given one, as far as it is known. -/
def boundAfter (s : State) (rest : List (Nat × Nat × Int)) : Nat :=
  match rest with
  | [] => s.hub.next
  | (_, b, _) :: _ => b

/-- A lane applies a step command to its own boundary count (R112): a command of more than 1 µs, or a step that would take
φ outside its range, is ignored. The last component says whether it was. -/
def laneStep (x : LaneSt) (c : Nat) (d : Int) : LaneSt × Bool :=
  let phi := x.phi + d
  if 1 < d.natAbs ∨ c / 2 < phi.natAbs then ({ x with bnd := x.bnd + c }, true)
  else ({ x with bnd := ((x.bnd + c : Nat) + d).toNat, phi := phi }, false)

/-- A lane's own boundary at the start of a cycle: the first of RUN is that of R471, and every later one follows from
the step command as the lane receives it. An ignored command is a loss of sync (R112; its cause DESIGN CHOICE, log 52). -/
def laneCount (s : State) (l : Lane) (first : Bool) (b : Nat) (d : Int) : State :=
  if first then
    s.setLane l { s.lane l with bnd := b, phi := 0, bR := match l with | .a => b | .b => b - s.cyc / 2 }
  else
    let (x, ignored) := laneStep (s.lane l) s.cyc d
    let s := s.setLane l x
    if ignored then loseSync s 2 else s

/-- LANE_A_CYCLE_START (R21, R22, R105 to R113, R134, R448). -/
def execLaneACycleStart (c : CycleObs) (o : SliceObs) (upset : List NetUpset) (s : State) : Out :=
  match s.pressLive, s.hub.bounds with
  | true, (k, b, d) :: rest =>
    if s.now < b + 12 then .next s
    else
      let short := boundAfter s rest < b + s.cyc
      let s := { s with hub := { s.hub with bounds := rest } }
      let prev := match s.la.snap with | some x => x.boundary | none => b
      let sn := snapshot s .a k b prev (k == s.hub.first)
      let s := { s with lb := { s.lb with nextSnap := some { (snapshot s .b k b prev sn.first).cpl with step := d } } }
      let s := laneCount s .a sn.first b (c.step.getD d)
      if 288 < c.clocks then .next (overrun s .a)
      else
        let (x, log) := evalLane s .a sn upset
        let s := noteClocks (journalCells { s with la := { x with shortCyc := short } } .a log) .a c.clocks
        let s := tripLow s .a
        .next (if short then s else startSlice s .a k c.clocks o)
  | _, _ => .next s

/-- LANE_B_CYCLE_START: C/2 microticks after Lane A, on the same snapshot, complemented (R22, R135). -/
def execLaneBCycleStart (c : CycleObs) (o : SliceObs) (upset : List NetUpset) (s : State) : Out :=
  match s.pressLive, s.lb.nextSnap with
  | true, some sn =>
    if s.now < sn.boundary + 12 + s.cyc / 2 then .next s
    else
      let s := { s with lb := { s.lb with nextSnap := none, shortCyc := s.la.shortCyc } }
      let s := laneCount s .b sn.first (sn.boundary + s.cyc / 2) (c.step.getD sn.step)
      if 288 < c.clocks then .next (overrun s .b)
      else
        let (x, _) := evalLane s .b sn upset
        let s := tripLow (noteClocks { s with lb := x } .b c.clocks) .b
        .next (if s.lb.shortCyc then s else startSlice s .b sn.cycle c.clocks o)
  | _, _ => .next s

/-- WINDOW_CLOSE (R89, R102): the windows of one cell that have closed at or before the lane's boundary. -/
def execWindowClose (l : Lane) (slot : Fin 2048) (s : State) : Out :=
  let x := s.lane l
  match s.mode, x.snap with
  | .run, some sn =>
    let cfg := (s.img l).cell slot.val
    let c0 := cellOf l x.cells cfg.typ slot.val
    if cfg.typ = 0 ∨ ¬ c0.seen ∨ ¬ x.evaled then .next s
    else
      let w : Work := ⟨x.nets, x.anets, x.cells, []⟩
      let ctx : Ctx := ⟨cfg, laneEnv s l x sn w⟩
      let close (ctx : Ctx) (c : CellSt) : CR :=
        let cur (i : Nat) : BNet := c.ins.getD i ⟨false, true, 0⟩
        cellClose ctx true cur cur ⟨c, []⟩ ctx.env.b
      let w := driveNets l ctx (circuit l close ctx (heldCell l x.cells cfg.typ slot.val)) w
      let s := s.setLane l { x with nets := w.nets, anets := w.anets, cells := w.cells }
      .next (journalCells s l w.log)
  | _, _ => .next s

/-- EVALUATION_OVERRUN (R136). -/
def execEvaluationOverrun (l : Lane) (clocks : Nat) (s : State) : Out :=
  if 288 < clocks ∧ (s.pressLive ∨ s.mode = .startup) then .next (overrun s l) else .next s

/-- SLICE_OVERRUN (R450): the box of the slice under way has closed with a step still running. The step is aborted and does not
count, and what was saved is restored. -/
def execSliceOverrun (l : Lane) (step : Fin 4) (s : State) : Out :=
  match (s.lane l).slice with
  | none => .next s
  | some x =>
    if s.pressLive ∧ x.begun ∧ sliceOver s x ∧ sliceAt l x (boxClocks s l) ≤ s.now then
      let j := min step.val (sliceSteps s l - 1)
      let (r, st) := regionAt x.order ((s.lane l).sstep + j)
      let t := if s.mode = .run then showSlice s l x r st j j else s
      .next (dropSlice (restoreCheck (bstFail t l 0x66 r st) l x) l)
    else .next s

/-- COVERAGE_DEADLINE (R454): the window of the pass in progress. -/
def execCoverageDeadline (s : State) : Out :=
  if s.pressLive ∧ s.taste.running ∧ s.taste.passAt + s.taste.tdl + 1000 ≤ s.now then
    let (r, st) := regionAt s.taste.order s.la.sstep
    .next (bstFail s .a 0x67 r st)
  else .next s

/-! ### Releases -/

/-- A boolean output word (R534). -/
def boolWord (n : BNet) : BitVec 64 :=
  BitVec.ofNat 64 (n.t.toNat * 2 ^ 32 + (if n.q then 2 ^ 16 else 0) + (if n.v then 1 else 0))

def anaWord (n : ANet) : BitVec 64 :=
  BitVec.ofNat 64 (n.t.toNat * 2 ^ 32 + (if n.q then 2 ^ 16 else 0) + n.x.toNat)

/-- Whether a type has a second output. -/
def hasOut1 (t : Nat) : Bool := !(t == 1 || t == 2 || t == 3 || t == 4 || t == 5 || t == 0x21 || t == 0x34 || t == 0x41 || t == 0x50)

/-- Where a word of the set comes from: kind, second output, slot or session, net (CMP_MLOC). -/
structure WordTag where
  kind : Nat
  outx : Bool
  slot : Nat
  net  : Nat
  deriving DecidableEq, Repr

/-- The output words of one cell with their tags, from the nets a lane holds. -/
def cellWords (s : State) (l : Lane) (x : LaneSt) (j : Nat) : List (WordTag × BitVec 64) :=
  let m := s.img l
  let cfg := m.cell j
  let c := cellOf l x.cells cfg.typ j
  if cfg.typ = 0 then []
  else
    let bn (net : Nat) (o : BNet) : BNet := if net = 0 then o else readB l x.nets net
    let first : List (WordTag × BitVec 64) :=
      if cfg.typ = 0x40 then
        (List.range (8 * m.sesLen (bits cfg.param 7 0))).map (fun i =>
          (⟨0, false, j, cfg.out0 + i⟩, boolWord (readB l x.nets (cfg.out0 + i))))
      else [(⟨0, false, j, cfg.out0⟩, boolWord (bn cfg.out0 c.o0))]
    let second : BitVec 64 :=
      if anaOut cfg.typ then anaWord (if cfg.out1 = 0 then c.a1 else readA l x.anets cfg.out1)
      else if hasOut1 cfg.typ then boolWord (bn cfg.out1 c.o1) else 0
    first ++ [(⟨0, true, j, cfg.out1⟩, second)]

/-- The produced words of one SESOUT cell (R208, R534): a bit on an invalid net is 0. The block is read from this cycle's nets, also where
the back bit of `in0` is set (DESIGN CHOICE, log 52, R131). -/
def sesoutBits (m : Img) (l : Lane) (nets : Tab BNet) (cfg : CellCfg) : List Bool :=
  (List.range (8 * m.sesLen (bits cfg.param 7 0))).map (fun i =>
    let n := readB l nets (cfg.ins.getD 0 0 + i)
    n.v && n.q)

def bitsNat (l : List Bool) : Nat := (l.zipIdx).foldl (fun a e => if e.1 then a + 2 ^ e.2 else a) 0

/-- The set that a lane releases, in Lane A's true terms (R210, R211, R534). -/
def laneSet (s : State) (l : Lane) (x : LaneSt) (sn : Snap) : List (WordTag × BitVec 64) :=
  let m := s.img l
  let slots := List.range m.cellCount
  let outp := (slots.filter (fun j => (m.cell j).typ == 0x30)).map (fun j =>
    ((⟨3, false, j, (m.cell j).out0⟩ : WordTag), BitVec.ofNat 64 (b2n (cellOf l x.cells 0x30 j).f2)))
  let ses := (slots.filter (fun j => (m.cell j).typ == 0x41)).flatMap (fun j =>
    let cfg := m.cell j
    let v := sesoutBits m l x.nets cfg
    (List.range ((v.length + 63) / 64)).map (fun i =>
      ((⟨4, false, bits cfg.param 7 0, cfg.ins.getD 0 0 + 64 * i⟩ : WordTag), BitVec.ofNat 64 (bitsNat v >>> (64 * i)))))
  slots.flatMap (cellWords s l x) ++ outp ++ ses
    ++ [(⟨5, false, 0, 0⟩, BitVec.ofNat 64 (laneBound s l x)), (⟨5, false, 0, 0⟩, BitVec.ofNat 64 sn.cycle)]

/-- The parity of 16 bits is odd. -/
def odd16 (n : Nat) : Bool := (List.range 16).foldl (fun a i => a ^^ n.testBit i) false

/-- The four parity bits of a word: odd parity over the lower and even parity over the upper half of each
32-bit half (R212). -/
def parity (w : BitVec 64) : BitVec 4 :=
  BitVec.ofNat 4 (b2n (!odd16 w.toNat) + 2 * b2n (odd16 (w.toNat >>> 16))
    + 4 * b2n (!odd16 (w.toNat >>> 32)) + 8 * b2n (odd16 (w.toNat >>> 48)))

/-- The words of a set as a disturbed lane delivers them: changed words, a word beyond its end, with which it runs long, and
an early end (R211). Each carries the parity and the epoch that the lane gives it. -/
def deliver (l : List DWord) (epoch : Bool) (f : List (Nat × BitVec 64)) (cut : Option Nat) : List DWord :=
  let word (w : BitVec 64) : DWord := ⟨w, parity w, epoch⟩
  let l := f.foldl (fun l e =>
    if e.1 < l.length then l.modify e.1 (fun d => word (d.w ^^^ e.2)) else l ++ [word e.2]) l
  match cut with
  | none => l
  | some n => l.take n

/-- Disturb words in the delay registers, where their parity stands (R212). -/
def flipWords (l : List DWord) (f : List (Nat × BitVec 64)) : List DWord :=
  f.foldl (fun l e => l.modify e.1 (fun d => { d with w := d.w ^^^ e.2 })) l

/-- Disturb parity bits 0 to 3 and, with bit 4, the epoch bit. -/
def flipParity (l : List DWord) (f : List (Nat × BitVec 64)) : List DWord :=
  f.foldl (fun l e => l.modify e.1 (fun d => { d with par := d.par ^^^ e.2.setWidth 4, epoch := d.epoch ^^ e.2.getLsbD 4 })) l

/-- A comparison result that stops the health pairs, with its device fault (R215, R222). -/
def compFault (s : State) (cause : Nat) : State :=
  deviceFault { s with comp := { s.comp with bad := true, told := true } } cause

/-! ### Shadow words (R219) -/

/-- The injection step of a cycle, if it carries one; each lane derives it from the cycle index. -/
def injStep (k : Nat) : Option Nat := if k % 64 = 0 then some (k / 64 % 66) else none

/-- The shadow word that a lane adds to its set in an injection cycle: Lane B leaves bit j uncomplemented in step j below 64,
and in step 64 the parity bit of half [15:0] is wrong. -/
def shadowOf (l : Lane) (k : Nat) (epoch : Bool) : Option DWord :=
  match injStep k with
  | none => none
  | some j =>
    let w := Config.shadowWord k
    match l with
    | .a => some ⟨w, if j = 64 then parity w ^^^ 1 else parity w, epoch⟩
    | .b =>
      let x := if j < 64 then ~~~w ^^^ BitVec.ofNat 64 (2 ^ j) else ~~~w
      some ⟨x, parity x, epoch⟩

/-- The set of a lane as released: Lane B complemented, with a forced mismatch in its OUTP request (R233). -/
def releaseOf (s : State) (l : Lane) (x : LaneSt) (sn : Snap) (epoch : Bool) (f : SetFault) : Rel :=
  let force (e : WordTag × BitVec 64) : BitVec 64 :=
    if l = .b ∧ e.1.kind = 3 ∧ s.comp.forced = some e.1.slot then e.2 ^^^ 1 else e.2
  let ws := (laneSet s l x sn).map (fun e => match l with | .a => e.2 | .b => ~~~ force e)
  let sh := shadowOf l sn.cycle epoch
  { cyc := sn.cycle, bound := laneBound s l x, nets := x.nets, anets := x.anets, shadow := sh
    words := deliver (ws.map (fun w => ⟨w, parity w, epoch⟩)) epoch f.flips f.cut
    shErr := match sh with | none => false | some d => d.par != parity d.w }

/-- LANE_RELEASE (R22, R211, R212): C microticks after the cycle start. -/
def execLaneRelease (l : Lane) (f : SetFault) (parityFlips : List (Nat × BitVec 64)) (s : State) : Out :=
  let x := s.lane l
  match s.pressLive, x.snap with
  | true, some sn =>
    if ¬ x.evaled ∨ s.now < x.startAt + (if x.shortCyc then s.cyc - 1 else s.cyc) then .next s
    else
      match l with
      | .a =>
        let epoch := !s.comp.epoch
        let r := releaseOf s .a x sn epoch f
        let r := { r with words := flipParity r.words parityFlips }
        let bad := r.words.any (fun d => d.par != parity d.w)
        let s := { s with la := { x with evaled := false, release := some r }, comp := { s.comp with epoch := epoch } }
        let s := if s.comp.delay.isNone then
            { s with comp := { s.comp with delay := some r }, la := { s.la with release := none } } else s
        .next (if bad then compFault s 0x12 else s)
      | .b =>
        let r := releaseOf s .b x sn false f
        let comp := { s.comp with forcedIn := if s.comp.forced.isSome then some sn.cycle else s.comp.forcedIn, forced := none }
        let comp := match comp.delay, s.la.release with
          | some d, some d' => if d.cyc = r.cyc then { comp with shown := some (d, r) }
                               else if d'.cyc = r.cyc then { comp with shown := some (d', r) } else comp
          | some d, none => if d.cyc = r.cyc then { comp with shown := some (d, r) } else comp
          | _, _ => comp
        .next { s with lb := { x with evaled := false, release := some r }, comp := comp }
  | _, _ => .next s

end Sys2Proof.Machine
end

