-- ==== Sys2Proof/Machine/Compare.lean ====
section
/-! DEFINITION. The comparator: output update points, shadow-slot injection, readback and the forced mismatch
(R24, R153 to R155, R193, R210 to R220, R222, R233). -/

namespace Sys2Proof.Machine

/-! ### What takes effect at the update point -/

/-- The OUTP requests of a set by channel: the requests of every channel of the unit (R193, R243). -/
def outpReqs (s : State) (tags : List WordTag) (r : Rel) (compl : Bool) : List (Nat × Bool) :=
  ((tags.zip r.words).filter (fun e => e.1.kind == 3)).flatMap (fun e =>
    let q := e.2.w.getLsbD 0 ^^ compl
    let ch := bits ((imgA s).cell e.1.slot).param 5 0
    (s.unitOf ch).map (fun k => (k, q)))

def reqOf (l : List (Nat × Bool)) (n : Nat) : Bool := match l.find? (fun e => e.1 == n) with | some e => e.2 | none => false

/-- The requests in force (R24, R141, R243); a unit whose request falls loses its dark test (R247). -/
def putRequests (s : State) (tags : List WordTag) (a b : Rel) : State :=
  let qa := outpReqs s tags a false
  let qb := outpReqs s tags b true
  allChans.foldl (fun s n =>
    let m := s.chMode n
    let c := s.chan n
    let ra := m == 4 && reqOf qa n
    let rb := m == 4 && reqOf qb n
    let net := (imgA s).qnet n
    let bn := readB .a a.nets net
    let q := m == 5 && bn.v && bn.q
    let s := if (c.reqA && !ra) || (c.reqB && !rb) then discardTests s (s.unitOf n) s.now else s
    s.setChan n { s.chan n with reqA := ra, reqB := rb, stdq := q }) s

/-- The produced bits of every SESOUT cell at the update point, each lane's own (R29, R208, R283). -/
def putProduced (s : State) (a b : Rel) (u : Nat) : State :=
  let m := imgA s
  ((List.range m.cellCount).filter (fun j => (m.cell j).typ == 0x41)).foldl (fun s j =>
    let cfg := m.cell j
    let sid := bits cfg.param 7 0
    let x := s.sess sid
    let p : SesProd := ⟨a.bound, sesoutBits m .a a.nets cfg, (sesoutBits (imgB s) .b b.nets ((imgB s).cell j)).map (!·)⟩
    s.setSess sid { x with prod := keepRecent (s.now - 64) ((u, p) :: x.prod) }) s

/-! ### The comparison -/

/-- Words of the delay registers that fail a parity or epoch check (R212, R213). -/
def badWords (epoch : Bool) (l : List DWord) : Bool := l.any (fun d => d.par != parity d.w || d.epoch != epoch)

/-- The columns of a word pair that find a difference (R210, R214): a faulty column or tree node masks its own. -/
def columns (x y mask : BitVec 64) : BitVec 64 := (x ^^^ ~~~y) &&& ~~~mask

/-- The first word pair in which two sets of a vintage's `n` words differ: not complementary in a column that works, or a set that
ends early or runs long, which is a mismatch in either lane (R210, R211). -/
def firstDiff (n : Nat) (a b : List DWord) (mask : BitVec 64) : Option Nat :=
  (List.range (max n (max a.length b.length))).find? (fun i =>
    match a[i]?, b[i]? with
    | some x, some y => decide (n ≤ i) || columns x.w y.w mask != 0
    | _, _ => true)

/-- The lowest failing bit of a word pair. -/
def lowBit (x : BitVec 64) : Nat := ((List.range 64).find? (fun i => x.getLsbD i)).getD 0

/-- Record the first mismatch (R232, R233, R534). Of a set that ends early or runs long, a missing word is shown as 0, with the slot and
net of its place (DESIGN CHOICE, log 52, R534). -/
def recordDiff (s : State) (tags : List WordTag) (a b : List DWord) (mask : BitVec 64) (i k u : Nat) : State :=
  if s.flag F.CMP_MLOC_vld then s
  else
    let wa := match a[i]? with | some d => d.w | none => 0
    let wb := match b[i]? with | some d => d.w | none => 0
    let bit := lowBit (columns wa wb mask)
    let long := tags.length ≤ i ∨ a.length ≤ i ∨ b.length ≤ i
    let tag := tags.getD i ⟨6, false, 0, 0⟩
    let kind := if long then 6
      else if tag.kind = 3 ∧ s.comp.forcedIn = some k then 7
      else if tag.kind = 0 then (if bit = 16 then 1 else if 32 ≤ bit then 2 else 0)
      else tag.kind
    let net := if tag.kind = 4 then tag.net + bit else tag.net
    let half (w : BitVec 64) : Word := if 32 ≤ bit then (w >>> 32).setWidth 32 else w.setWidth 32
    let s := s.rput R.CMP_MLOC (BitVec.ofNat 32
      (2 ^ 31 + kind * 2 ^ 28 + b2n tag.outx * 2 ^ 27 + tag.slot % 2048 * 2 ^ 16 + net % 4096))
    ((s.rput R.CMP_MA (half wa)).rput R.CMP_MB (half wb)).rput R.CMP_MTS (BitVec.ofNat 32 u)

/-- Net readback of the released results (R154): 64 of 4352 positions. -/
def netsAgree (a b : Rel) (r : Nat) : Bool :=
  (List.range 64).all (fun i =>
    let p := 64 * (r % 68) + i
    if p < 4096 then readB .a a.nets p == readB .b b.nets p
    else readA .a a.anets (p - 4096) == readA .b b.anets (p - 4096))

/-- No channel fault, function fault or session fault is present (R484). -/
def noFault (s : State) : Bool :=
  s.chans.entries.all (fun e => !e.2.faulted)
    && !anyTrip .a s.la.cells && !anyTrip .b s.lb.cells
    && s.ses.entries.all (fun e => !e.2.fault)

/-- What the shadow slot finds in the shadow words (R219): the entry check, then the exit check, in which step 65 flips the
parity in the register before read-out, then the comparison in columns that work. -/
def shadowFlag (k : Nat) (a b : Rel) (mask : BitVec 64) : ShadowFlag :=
  match a.shadow, b.shadow with
  | some x, some y =>
    let par := if injStep k = some 65 then x.par ^^^ 1 else x.par
    let d := columns x.w y.w mask
    if a.shErr then .entryParity
    else if par != parity x.w then .exitParity
    else if h : d ≠ 0 ∧ lowBit d < 64 then .column ⟨lowBit d, h.2⟩
    else .none
  | _, _ => .none

/-- A comparison completes without a difference at update point u: the pairs are due to show the healthy code, without a break where
they show it (R215). -/
def Comp.complete (c : Comp) (u cyc : Nat) : Comp :=
  { c with since := if u ≤ c.through + 1 ∧ c.made then c.since else u + 2, made := true, through := u + cyc + 2 }

/-- A healthy comparison (R193, R215, R219, R484). -/
def healthy (s : State) (tags : List WordTag) (a b : Rel) (k u : Nat) (mask : BitVec 64) : State :=
  let s := s.finc F.CMP_CNT_cnt
  let s := putProduced (putRequests s tags a b) a b u
  { s with
    comp := { s.comp.complete u s.cyc with
      shadow := injStep k, flag := some (shadowFlag k a b mask), shadowAt := u + 2 }
    pins := { s.pins with faultN := noFault s } }

/-- A fault of a column or a tree node drops a word's result out of the code without a failing bit: the pairs leave the code and no
mismatch is reported, which the lanes find as cause 0x11 (R214, R215, R221, R228). -/
def dropOut (s : State) (u : Nat) : State := { s with comp := { s.comp.complete u s.cyc with bad := true } }

/-- OUTPUT_UPDATE_POINT (R24): compare the sets of the cycle that is due; a healthy comparison in the microtick of an entry
to SAFE has no effect any more (R226). -/
def execOutputUpdatePoint (f : CompareFault) (s : State) : Out :=
  match s.pressLive, s.comp.dues with
  | true, (k, u) :: dues =>
    if s.now < u then .next s
    else
      let epoch := if s.la.release.isSome then !s.comp.epoch else s.comp.epoch
      let a := s.comp.delay.filter (fun r => r.cyc == k)
      let b := s.lb.release.filter (fun r => r.cyc == k)
      let s := { s with
        comp := { s.comp with dues := dues, delay := s.la.release, made := s.comp.made || s.mode == .run }
        la := { s.la with release := none }
        lb := { s.lb with release := none } }
      match a, b with
      | some a, some b =>
        let a := { a with words := flipWords a.words f.flips }
        let parErr := badWords epoch a.words
        let tags := match s.la.snap with | some sn => (laneSet s .a s.la sn).map (·.1) | none => []
        let diff := firstDiff tags.length a.words b.words f.mask
        let drops := match f.drop with | some i => decide (i < tags.length) | none => false
        let s := match diff with | some i => recordDiff s tags a.words b.words f.mask i k u | none => s
        let s := match parErr, diff with
          | true, some _ => journalCause (compFault s 0x12) 0x10
          | true, none => compFault s 0x12
          | false, some _ => compFault s 0x10
          | false, none => if s.mode ≠ .run then s else if drops then dropOut s u else healthy s tags a b k u f.mask
        .next (if netsAgree a b (k - s.hub.first) then s else deviceFault s 0x23)
      | none, _ => .next (journalCause (compFault s 0x15) 0x12)
      | some a, none =>
        let s := if badWords epoch (flipWords a.words f.flips) then compFault s 0x12 else s
        .next (compFault s 0x15)
  | _, _ => .next s

/-! ### Shadow-slot injection -/

/-- What the shadow flag must show for a step (R219). -/
def shadowWant (step : Option Nat) : ShadowFlag :=
  match step with
  | none => .none
  | some j => if h : j < 64 then .column ⟨j, h⟩ else if j = 64 then .entryParity else .exitParity

/-- SHADOW_SLOT_CHECK (R219, R220): at the end of the shadow slot, each lane checks its flag, which shows what the comparator
found in the shadow words unless a fault of the wires shows it otherwise. In SAFE a failed check is journaled (R222). -/
def execShadowSlotCheck (fa fb : Option ShadowFlag) (s : State) : Out :=
  match s.comp.flag with
  | none => .next s
  | some flag =>
  if (s.mode ≠ .run ∧ s.mode ≠ .safe) ∨ s.now < s.comp.shadowAt + 1 then .next s
  else
    let want := shadowWant s.comp.shadow
    let fa := fa.getD flag
    let fb := fb.getD flag
    let s' := { s with comp := { s.comp with shadow := none, flag := none } }
    if fa = want ∧ fb = want then
      match s.comp.shadow with
      | none => .next s'
      | some j => if s.mode = .safe then .next s' else .next (((s'.fput F.CMP_STAT_injok 1).finc F.CMP_INJ_pass).fput F.CMP_INJ_step ((j + 1) % 66))
    else
      let s' := if s.mode = .run ∧ s.comp.shadow.isSome then s'.fput F.CMP_STAT_injok 0 else s'
      .next (deviceFault { s' with enA := { s'.enA with laneFlt := s'.enA.laneFlt || fa != want }
                                   enB := { s'.enB with laneFlt := s'.enB.laneFlt || fb != want } } 0x14)

/-! ### Configuration readback -/

/-- The CRC-32C of each 1 KiB block of a configuration memory (R152); the reference is that of the load, so that a later write
of the Cask slot changes nothing here (R157). -/
def blockCrcs (m : Img) (blocks : Nat) : List Word := (List.range blocks).map (fun i => crc32c (m.bytes (1024 * i) 1024))

def flipMem (d : Byte) (m : Mem) (f : List (Nat × Byte)) : Mem :=
  f.foldl (fun m e => memPut d m e.1 (memGet d m e.1 ^^^ e.2)) m

/-- Both configurations agree with each other, word by word, and with their references (R153). -/
def configOk (s : State) : Bool :=
  s.lb.cfg == s.la.cfg.map (fun e => (e.1, ~~~e.2))
    && blockCrcs (cfgA s) s.la.crcRef.length == s.la.crcRef
    && blockCrcs (cfgB s) s.lb.crcRef.length == s.lb.crcRef.map (fun w => ~~~w)

/-- The upsets that fall on a byte of the configuration memory. -/
def cfgFlips (x : LaneSt) (f : List (Nat × Byte)) : List (Nat × Byte) :=
  f.filter (fun e => cfgSetting e.1 || (decide (cfgHome 0 ≤ e.1) && decide (e.1 < 1024 * x.crcRef.length)))

/-- CONFIG_READBACK_PASS (R153, R155): a full pass of at most 10 ms over the whole memory, in the order of its addresses; upsets that
have arisen since the last pass come with it. -/
def execConfigReadbackPass (us : Nat) (flipsA flipsB : List (Nat × Byte)) (s : State) : Out :=
  if ¬ s.pressLive ∨ 10000 < us then .next s
  else
    let s := { s with la := { s.la with cfg := flipMem 0 s.la.cfg (cfgFlips s.la flipsA) }
                      lb := { s.lb with cfg := flipMem 0xFF s.lb.cfg (cfgFlips s.lb flipsB) } }
    if configOk s then .next ((s.finc F.PRS_RBK_passes).fput F.PRS_RBK_ptime us)
    else .next (deviceFault s 0x20)

/-! ### Writes that the comparator and the Press take -/

/-- The write to PRS_HREQ is captured in its microtick (R123). -/
def hreqWrite (s : State) (w : Word) : State :=
  let v : BitVec 16 := w.setWidth 16
  let old := keepRecent (s.now - 1000) (s.hreq.filter (fun e => e.1 != s.now))
  { (s.fput F.PRS_HREQ_req v.toNat) with hreq := (s.now, v) :: old }

/-- The forced-mismatch test (R233): `none` when the write is refused. -/
def forceMismatch (s : State) (w : Word) : Option State :=
  if ¬ w.getLsbD 31 then some s
  else if s.mode ≠ .run ∨ ¬ s.sw1 then some s
  else
    let slot := bits w.toNat 10 0
    if ((imgA s).cell slot).typ = 0x30 then some { s with comp := { s.comp with forced := some slot } } else none

end Sys2Proof.Machine
end

