-- ==== Sys2Proof/Machine/FieldSide.lean ====
section
/-! DEFINITION. The field side of a channel: sampling, filters, sources, link, configuration, switches and
supply bands (R43 to R79, R93 to R98, R235 to R262, R456 to R460). -/

namespace Sys2Proof.Machine

/-! ### Switching points and bands -/

/-- RAW of an input by its type, in converter steps of 5 mV and 2 µA, as the live bank decides it by its own points; between the
points it keeps its previous state (R47, R426, R456). -/
def rawOf (n itype : Nat) (bankB : Bool) (trim : Trim) (v i : Int) (prev : Bool) : Bool :=
  let p : Int × Int × Int × Int × Int × Int :=
    match itype with
    | 1 => (2400, 750, 2000, 500, 100, 100)
    | 2 => (1800, 2250, 1500, 1750, 100, 150)
    | _ => (1800, 925, 1500, 825, 100, 50)
  let (rv, ri, fv, fi, tv, ti) := p
  let b := 4 * itype
  if inputPoint n b bankB trim.rv rv tv ≤ v ∧ inputPoint n (b + 1) bankB trim.ri ri ti ≤ i then true
  else if v < inputPoint n (b + 2) bankB trim.fv fv tv ∨ i < inputPoint n (b + 3) bankB trim.fi fi ti then false
  else prev

/-- The band of a monitored input by its current in steps of 2 µA (R49). Both banks hold these limits, which have no tolerance
(R456). -/
def bandOf (i : Int) : BitVec 2 :=
  if 2500 ≤ i then 1 else if 750 ≤ i ∧ i < 1750 then 0 else if i < 400 then 2 else 3

/-! ### Filters -/

/-- The integrating counter (R93). -/
def integrate (f : Fe) (raw : Bool) : Fe :=
  let c := if raw then min (f.count + 1) f.nLim else f.count - 1
  { f with count := c, inn := if c = 0 then false else if c = f.nLim then true else f.inn }

/-- The debounce filter (R97). -/
def debounce (f : Fe) (raw : Bool) : Fe :=
  let r := if raw = f.lastRaw then min (f.run + 1) f.deb else 1
  { f with run := r, lastRaw := raw, inn := if f.deb ≤ r then raw else f.inn }

/-- The filter starts again (R94, R97). -/
def restartFilter (f : Fe) : Fe := { f with count := 0, run := 0, lastRaw := false, inn := false }

/-! ### Switches -/

/-- Open every switch of the channel. -/
def openAll (f : Fe) : Fe := { f with hs := false, ls := false }

/-- No latch, test or missing configuration holds the switches open (R239, R258, R260, R459, R460). -/
def Fe.mayDrive (f : Fe) : Bool :=
  f.live && f.powered && f.climLatch.isNone && f.supLatch.isNone && f.stageOk

/-- A phase change of the enable is at most 4 µs old (R27). -/
def freshPhase (chg : Option Nat) (now : Nat) : Bool :=
  match chg with
  | none => false
  | some t => now - t ≤ 4

/-- The switch states that requests, enables, dark test and kind ask for (R26, R234 to R236, R246). -/
def wanted (f : Fe) (n now : Nat) : Bool × Bool :=
  let a := f.reqA && freshPhase f.chgA now
  let b := f.reqB && freshPhase f.chgB now
  if f.mode = 4 then
    if f.otype = 1 then (a && f.dts != 1, b && f.dts != 2)
    else ((if f.lead = n then a else b) && f.dts != 1, false)
  else if f.mode = 5 then (f.stdq, false)
  else (false, false)

/-- Drive the switches; those under an output-stage test follow its own commands (R458). In Sag a switch may open but its closing is deferred (R259). -/
def drive (f : Fe) (n now : Nat) : Fe :=
  let (wh, wl) := wanted f n now
  let f := { f with hsWant := wh, lsWant := wl, prog := false }
  if f.mayDrive then
    if f.band = .sag then { f with hs := f.hs && wh, ls := f.ls && wl }
    else { f with hs := wh, ls := wl }
  else if f.stRun.isSome then f
  else openAll f

/-- The safe state of a channel without configuration: outputs off, sources off, IN at 0 (R73). -/
def safeFe (f : Fe) : Fe := { restartFilter (openAll f) with src := { f.src with on := false } }

/-! ### Sampling -/

/-- The source of a contact or the test-pulse source limits its current or not; a retry that leaves the limit clears
the latch (R45). -/
def sourceLimit (f : Fe) (lim : Bool) (now : Nat) : Source :=
  if f.src.on && f.dipStart.isNone then
    if lim then { f.src with limSince := match f.src.limSince with | none => some now | some t => some t }
    else { f.src with limSince := none, latched := false }
  else { f.src with limSince := none }

/-- A switch limits its current without a break since when (R239); each switch has a run of its own. -/
def limitRun (lim : Bool) (since : Option Nat) (now : Nat) : Option Nat :=
  if lim then (match since with | none => some now | some t => some t) else none

/-- Register contents that the front end echoes (R74). -/
def Fe.echoVal (f : Fe) (r : Nat) : Word :=
  if r = 0x0C then f.fault.setWidth 32 else if r = 0x0D then f.selfReg else f.reg r

/-- RAW, BAND and the filter in one microtick (R47 to R51, R60, R93, R97). -/
def sampleInput (f : Fe) (n : Nat) (v i : Int) (now : Nat) : Fe :=
  let m := f.mode
  let band := if m = 2 then bandOf i else 0
  let raw := if m = 2 then band == 1 else if isInputMode m then rawOf n f.itype f.liveB f.trim v i f.raw else false
  let held := now < f.holdEnd
  let f := { f with raw := raw, mband := band }
  let f := if held then f
    else { f with
      wbrk := if m = 2 ∧ band = 2 then f.wbrk + 1 else 0
      ind := if m = 2 ∧ band = 3 then f.ind + 1 else 0 }
  if ¬ f.live then { restartFilter f with raw := raw }
  else if m = 1 ∨ m = 2 then (if held then f else integrate f raw)
  else if m = 3 ∨ m = 7 then debounce f raw
  else { f with inn := false }

/-- The supply counters in one microtick (R260, R262). -/
def sampleSupply (f : Fe) : Fe :=
  let off := if f.mode = 4 then !f.reqA && !f.reqB else true
  match f.band with
  | .sag => { f with brt := f.brt + 1, normRun := 0, zeroNorm := 0 }
  | .normal => { f with normRun := f.normRun + 1, zeroNorm := if off then f.zeroNorm + 1 else 0 }
  | _ => { f with normRun := 0, zeroNorm := 0 }

/-- The voltage and current that a front end reads, after factory trim and saturated at the ends of the range (R65, R66, R426). -/
def Fe.readV (f : Fe) (n : Nat) (o : FieldObs) : Int := satSigned 14 (trimmed n f.trim.vOff f.trim.vGain o.va)

def Fe.readI (f : Fe) (n : Nat) (o : FieldObs) : Int :=
  satSigned 14 (if bitAt (f.reg 0).toNat 11 then trimmed n f.trim.hOff f.trim.hGain o.ia else trimmed n f.trim.lOff f.trim.lGain o.ia)

/-- The uplink frame of one microtick of the logic side (R65 to R70, R74). -/
def upFrame (f : Fe) (n now : Nat) (o : FieldObs) : BitVec 64 :=
  let seq := now % 16
  let ovl := (f.hs && o.limHs) || (f.ls && o.limLs) || (f.src.on && o.limSrc) || f.climLatch.isSome
  sealFrame false n (seq * 2 ^ 60 + b2n f.inn * 2 ^ 59 + b2n f.raw * 2 ^ 58 + f.mband.toNat * 2 ^ 56
    + b2n (2200 < o.vb) * 2 ^ 55 + b2n (f.band == .sag || f.band == .under) * 2 ^ 54 + b2n ovl * 2 ^ 53
    + b2n f.fltBit * 2 ^ 52 + auxNibble f.upWord seq * 2 ^ 48 + code14 (f.readV n o) * 2 ^ 34 + code14 (f.readI n o) * 2 ^ 20
    + f.mode * 2 ^ 17 + b2n f.dipStart.isSome * 2 ^ 16)

/-- The steps of the output-stage test of a PN output, `k` microticks into it (R458): 200 µs with the high side alone closed, then
200 µs with the low side alone; terminal A is at or above 18 V at the end of the first and below 5 V within 100 µs after it. The
switch of a PP or P output is held off. -/
def stageStep (f : Fe) (k : Nat) (v : Int) : Fe :=
  if f.mode = 4 ∧ f.otype = 1 ∧ f.climLatch.isNone ∧ f.supLatch.isNone then
    { f with hs := decide (k + 1 < 200), ls := decide (200 ≤ k + 1) && decide (k + 1 < 400)
             stHigh := if k = 199 then decide (3600 ≤ v) else f.stHigh
             stLow := f.stLow || (decide (200 ≤ k) && decide (k < 300) && decide (v < 1000)) }
  else openAll f

/-- A test that runs takes its steps on the front end's own samples. -/
def stageSample (f : Fe) (t : Nat) (v : Int) : Fe :=
  match f.stRun with
  | none => f
  | some t0 => stageStep f (t - t0) v

/-! ### Exercise of the comparators (R456, R457) -/

/-- The bits of FE_SELF that an exercise fails by what is observed of its checks. -/
def exerciseBits (o : ExerciseObs) : Nat :=
  b2n o.av + 2 * b2n o.ai + 4 * b2n o.bv + 8 * b2n o.bi + 16 * b2n o.swap + 32 * b2n o.ref + 64 * b2n o.mbd

/-- The two banks decide the live terminal differently by their own points; the bands of a monitored input have none of their own. -/
def banksDiffer (f : Fe) (n : Nat) (v i : Int) : Bool :=
  isInputMode f.mode && f.mode != 2 && rawOf n f.itype false f.trim v i f.raw != rawOf n f.itype true f.trim v i f.raw

/-- The swap, in the 100th microtick of an exercise: the banks are compared on the live terminal, and the checks of the first 100 µs,
which are those of the idle bank, show in FE_SELF. `differ` is the comparison of their points; a fault of a comparator is in the
exercise's own bits. -/
def swapBanks (f : Fe) (x : ExRun) (differ : Bool) : Fe :=
  let bad := x.bad ||| (if differ then 16 else 0)
  { f with liveB := !f.liveB, exRun := some { x with bad := bad, swapped := true }
           selfReg := f.selfReg ||| BitVec.ofNat 32 (bad &&& (if f.liveB then 0x13 else 0x1C)) }

/-- The end of an exercise, 200 µs after its start: it is counted, and FE_SELF shows how it ended. -/
def endExercise (f : Fe) (x : ExRun) : Fe :=
  let cnt := (bits f.selfReg.toNat 31 24 + 1) % 256
  { f with exRun := none, selfReg := BitVec.ofNat 32 (cnt * 2 ^ 24 + (if x.bad = 0 then 128 else 0) + x.bad) }

/-- An exercise under way in one microtick of the front end, once the live bank has decided. -/
def exerciseSample (f : Fe) (t : Nat) (differ : Bool) : Fe :=
  match f.exRun with
  | none => f
  | some x =>
    if ¬ x.swapped then (if x.since + 99 ≤ t then swapBanks f x differ else f)
    else if x.since + 200 ≤ t then endExercise f x
    else f

/-- One microtick of a front end, `t` by its own time and `now` by the logic side's: samples, decisions, filter, and the uplink
frame (R65). -/
def sampleFe (f : Fe) (n t now : Nat) (o : FieldObs) : Fe :=
  if ¬ f.powered then { f with up := none }
  else
    let f := sampleSupply { f with
      src := sourceLimit f o.limSrc t
      limHs := limitRun (f.hs && o.limHs) f.limHs t
      limLs := limitRun (f.ls && o.limLs) f.limLs t }
    let differ := banksDiffer f n (f.readV n o) (f.readI n o)
    let f := stageSample (sampleInput f n (f.readV n o) (f.readI n o) t) t (f.readV n o)
    let f := exerciseSample f t differ
    let f := if now % 16 = 0 then
        { f with upWord := upAux f.upReg (f.echoVal f.upReg) o.temp (code14 o.vb)
                 upReg := if f.upReg = 0x0D then 0 else f.upReg + 1 }
      else f
    { f with up := if f.locked then some (upFrame f n now o) else none }

/-- FIELD_SAMPLE (R65). The cause of a source's fault has gone with its latch (R45). -/
def execFieldSample (ch : Fin 48) (o : FieldObs) (s : State) : Out :=
  let n := ch.val
  let f := sampleFe (s.fe n) n s.fieldNow s.now o
  let t := s.setFe n f
  .next (if (s.fe n).src.latched && !f.src.latched then causeGone t n (fun k => k == .source) else t)

/-! ### Link and frames from the logic side -/

/-- A code error enters the history of the last 16 frames; three of them are a loss of link (R67). -/
def addErr (h : List Bool) (e : Bool) : List Bool := (e :: h).take 16

def linkLost (h : List Bool) : Bool := 3 ≤ (h.filter id).length

/-- A pulsed source switches off: the dip, and the hold of the filter when the source is the own terminal B and
the hold keeps its spacing (R53, R60). -/
def dipBegin (f : Fe) (now : Nat) : Fe :=
  let d := f.dip
  let spaced := f.holdEnd = 0 ∨ f.holdEnd + (f.pms * 1000 - d - 10) ≤ now
  let f' := { f with dipStart := some now }
  if f.mode ≠ 6 ∧ f.srcsel = 0 ∧ spaced then { f' with holdEnd := now + d + 10 } else f'

/-- Whether a downlink frame is accepted: check, reserved bits, DTS and sequence (R69, R72, R246). -/
def downOk (f : Fe) (n : Nat) (w : BitVec 64) : Bool :=
  let v := w.toNat
  frameOk true n w && bits v 47 16 == 0 && bits v 54 53 != 3 &&
    (match f.lastSeq with
     | none => true
     | some q => bits v 63 60 == (q + 1) % 16)

/-- The auxiliary nibble of an accepted downlink frame (R73). -/
def takeAux (f : Fe) (seq nib : Nat) : Fe :=
  let f := if seq = 0 then { f with auxNibs := [nib], auxBad := false }
           else { f with auxNibs := f.auxNibs ++ [nib] }
  if seq = 15 then
    let w := nibblesWord f.auxNibs
    let word := if f.auxBad ∨ f.auxNibs.length ≠ 16 then none
                else some (BitVec.ofNat 8 (w >>> 56), BitVec.ofNat 32 (w >>> 24))
    { f with aux1 := f.aux0, aux0 := word, auxNibs := [] }
  else f

/-- The content of an accepted downlink frame takes effect (R26, R27, R235, R236, R239, R246). -/
def acceptDown (f : Fe) (n now : Nat) (w : BitVec 64) : Fe :=
  let v := w.toNat
  let pa := bitAt v 58
  let pb := bitAt v 56
  let ra := bitAt v 59
  let rb := !bitAt v 57
  let q := bitAt v 52
  let zero := if f.mode = 4 then !ra && !rb else !q
  let f := { f with
    lastSeq := some (bits v 63 60), lastAcc := now
    chgA := if pa = f.phA then f.chgA else some now
    chgB := if pb = f.phB ∨ pb = pa then f.chgB else some now
    phA := pa, phB := pb, reqA := ra, reqB := rb, stdq := q
    dts := if f.mode = 4 then BitVec.ofNat 2 (bits v 54 53) else 0
    tpd := bitAt v 55
    zeroFrames := if zero then f.zeroFrames + 1 else 0 }
  let f := takeAux f (bits v 63 60) (bits v 51 48)
  let f := if f.tpd then (if f.pulsed ∧ f.dipStart.isNone ∧ f.src.on then dipBegin f now else f)
           else { f with dipStart := none }
  drive f n now

/-- DOWNLINK_FRAME_RECEIVED (R67, R72): a frame that is not accepted counts as no frame; one that does not come counts as a code
error (DESIGN CHOICE, log 52). -/
def execDownlinkFrameReceived (ch : Fin 48) (frame : Option (BitVec 64)) (codeErr : Bool) (s : State) : Out :=
  let n := ch.val
  let f := s.fe n
  if ¬ (f.locked ∧ f.powered) then .next s
  else
    let h := addErr f.errHist (codeErr || frame.isNone)
    let f := { f with errHist := h }
    if linkLost h then .next (s.setFe n { f with locked := false, auxBad := true })
    else
      match frame with
      | none => .next (s.setFe n { f with auxBad := true })
      | some w =>
        if ¬ codeErr ∧ downOk f n w then .next (s.setFe n (acceptDown f n s.fieldNow w))
        else .next (s.setFe n { f with auxBad := true })

/-- LINK_ACQUISITION (R67, R94, R257): the front end starts without a configuration, and the hub writes and
commits it anew. -/
def execLinkAcquisition (ch : Fin 48) (s : State) : Out :=
  let n := ch.val
  let f := s.fe n
  let c := s.chan n
  if ¬ f.powered ∨ s.mode = .reset ∨ s.mode = .safe ∨ (f.locked ∧ c.locked) then .next s
  else
    let f := { restartFilter (openAll f) with
      locked := true, errHist := [], lastSeq := none, lastAcc := s.fieldNow
      committed := false, held := Tab.empty, staged := Tab.empty, trim := Trim.neutral
      auxNibs := [], auxBad := false, aux0 := none, aux1 := none, cfgFlt := false
      raw := false, mband := 0, wbrk := 0, ind := 0, holdEnd := min f.holdEnd s.fieldNow, dipStart := none, src := Source.reset
      chgA := none, chgB := none, reqA := false, reqB := false, stdq := false, dts := 0, tpd := false, prog := false
      stPend := false, stRun := none }
    let pos := if s.mode = .startup then 60 else 2
    let c := { c with
      locked := true, errHist := [], good := 0, reopen := true, downPos := pos
      grace := if s.mode = .startup then none else some (s.now + acquireGrace)
      echoAt := ⟨(List.range 12).map (fun r => (r, s.now))⟩, echoOk := [], upNibs := [], upBad := true }
    .next (causeGone (((s.setFe n f).setChan n c).fput (F.CHN_STAT_lnk n) 1) n (fun k => k == .source))

/-! ### Configuration words -/

/-- Two consecutive identical downlink words (R73). -/
def pairedWord (f : Fe) : Option (Nat × Word) :=
  match f.aux0, f.aux1 with
  | some (r, v), some (r', v') => if r = r' ∧ v = v' then some (r.toNat, v) else none
  | _, _ => none

/-- AUX_WORD_APPLY (R73): applied before a commit; afterwards a differing rewrite sets FLT. -/
def execAuxWordApply (ch : Fin 48) (s : State) : Out :=
  let n := ch.val
  let f := s.fe n
  match pairedWord f with
  | some (r, v) =>
    if 12 ≤ r then .next s
    else if ¬ f.committed then .next (s.setFe n { f with staged := f.staged.set r v })
    else if f.reg r = v then .next s
    else .next (s.setFe n { safeFe f with cfgFlt := true })
  | none => .next s

/-- Put a configuration in force (R73, R94, R456, R460): the filter starts again, sources feed, and an output
mode waits for its output-stage test. A hold ends, and the spacing of the next one runs from it (R60). A source that has tripped stays latched (DESIGN CHOICE, log 52). -/
def commitFe (f : Fe) (cfg : Tab Word) (trim : Trim) (now : Nat) : Fe :=
  let f := { restartFilter (openAll f) with
    held := cfg, staged := Tab.empty, trim := trim, committed := true, cfgFlt := false
    raw := false, wbrk := 0, ind := 0, holdEnd := min f.holdEnd now, dipStart := none, exAt := now + 100000, exRun := none }
  let f := { f with src := ⟨f.hasSource && !f.src.latched, none, f.src.latched, f.src.tripAt⟩ }
  if isOutputMode f.mode then { f with stPend := true, stRun := none } else { f with stPend := false, stRun := none }

/-- The BST_ODEF bit of a channel: its output-stage test is pending (R459, R464). -/
def odefFld (n : Nat) : Fld :=
  if n < 32 then ⟨R.BST_ODEFLO, n, n⟩ else ⟨R.BST_ODEFHI, n - 32, n - 32⟩

/-- A BST field that hardware sets; it keeps its value in SAFE and HELD (R464). -/
def setBst (s : State) (f : Fld) (v : Nat) : State := if s.mode = .safe ∨ s.mode = .held then s else s.fput f v

/-- FE_COMMIT (R73). The output-stage test of a channel in an output mode is pending from here (R460, R464). -/
def execFeCommit (ch : Fin 48) (s : State) : Out :=
  let n := ch.val
  let f := s.fe n
  if pairedWord f = some (0x0F, 0xA5#32) ∧ f.locked ∧ ¬ f.committed then
    let cfg : Tab Word := ⟨(List.range 12).map (fun r => (r, f.staged.get (f.reg r) r))⟩
    let g := commitFe f cfg (trimIn s n cfg) s.fieldNow
    let s := (s.setFe n g).setChan n { s.chan n with selfAt := s.now }
    .next (if g.stPend then setBst s (odefFld n) 1 else s)
  else .next s

/-- FE_REOPEN (R73): the safe state without FLT until the next commit. -/
def execFeReopen (ch : Fin 48) (s : State) : Out :=
  let n := ch.val
  let f := s.fe n
  if pairedWord f = some (0x0F, 0x5A#32) ∧ f.locked ∧ f.committed then
    .next (s.setFe n { safeFe f with committed := false, cfgFlt := false })
  else .next s

/-! ### Sources and dips -/

/-- SOURCE_LIMIT_TRIP (R45): after 5 ms in the limit the source opens and latches; a channel fault. A retry that has
stayed in the limit opens again, and the latch stays. -/
def execSourceLimitTrip (ch : Fin 48) (s : State) : Out :=
  let n := ch.val
  let f := s.fe n
  match f.src.limSince with
  | some t =>
    if f.src.on ∧ 5000 ≤ s.fieldNow - t then
      if f.src.latched then .next (s.setFe n { f with src := { f.src with on := false, limSince := none } })
      else
        let s := s.setFe n { f with src := { f.src with on := false, limSince := none, latched := true, tripAt := s.fieldNow } }
        .next (chanFault s n .source s.now)
    else .next s
  | none => .next s

/-- SOURCE_RETRY (R45): once every 1 000 000 µs from the trip the latched source is switched on again; `lim` says whether it is
in its limit at once. The samples that follow clear the latch where the source leaves its limit, and SOURCE_LIMIT_TRIP opens it where it stays. A front end
without a source in its mode, or in its safe state, switches none on (R43, R73). -/
def execSourceRetry (ch : Fin 48) (lim : Bool) (s : State) : Out :=
  let n := ch.val
  let f := s.fe n
  if f.src.latched ∧ ¬ f.src.on ∧ f.live ∧ f.powered ∧ f.hasSource ∧ f.src.tripAt < s.fieldNow
      ∧ (s.fieldNow - f.src.tripAt) % 1000000 = 0 then
    .next (s.setFe n { f with src := { f.src with on := true, limSince := if lim then some s.fieldNow else none } })
  else .next s

/-- The slot schedule: period length, slot length and dip width (R53). -/
def tpPeriod (s : State) : Nat := s.fget F.CHN_TPCFG_pms * 1000
def tpDip (s : State) : Nat := s.fget F.CHN_TPCFG_dip
def tpSlot (s : State) : Nat := tpDip s + 20

/-- Slot and place within it of a microtick, if it lies in one of the 48 slots (R53). -/
def slotAt (s : State) (k : Nat) : Option (Nat × Nat) :=
  let o := k % tpPeriod s
  if o / tpSlot s < 48 then some (o / tpSlot s, o % tpSlot s) else none

/-- The logic side's view of a pulsed source (R53). -/
def State.pulsed (s : State) (n : Nat) : Bool :=
  let m := s.chMode n
  ((m == 1 || m == 2) && s.fget (F.CHN_CFG_srcsel n) == 0) || m == 6

/-- The hub commands a dip of the channel in this microtick (R53, R55). -/
def tpdNow (s : State) (n k : Nat) : Bool :=
  match slotAt s k with
  | some (j, p) => j == n && p < tpDip s && s.pulsed n
  | none => false

/-- DIP_START (R53): the pulsed source of the channel switches off in its slot. -/
def execDipStart (ch : Fin 48) (s : State) : Out :=
  let n := ch.val
  let f := s.fe n
  if tpdNow s n s.now ∧ f.locked ∧ f.live ∧ f.pulsed ∧ f.src.on ∧ f.dipStart.isNone then
    .next (s.setFe n (dipBegin f s.fieldNow))
  else .next s

/-! ### Silence of the logic side -/

/-- LOGIC_SILENT_TIMEOUT (R27, R28, R255): no valid phase change for longer than 4 µs opens the switch that the
lane's enable gates. -/
def execLogicSilentTimeout (ch : Fin 48) (l : Lane) (s : State) : Out :=
  let n := ch.val
  let f := s.fe n
  let chg := match l with | .a => f.chgA | .b => f.chgB
  if f.mode = 4 ∧ f.stRun.isNone ∧ ¬ freshPhase chg s.fieldNow then
    match l with
    | .a => if f.otype = 1 ∨ f.lead = n then .next (s.setFe n { f with hs := false }) else .next s
    | .b => if f.otype = 1 then .next (s.setFe n { f with ls := false })
            else if f.lead ≠ n then .next (s.setFe n { f with hs := false }) else .next s
  else .next s

/-- PROGRAMMED_STATE_TIMEOUT (R256): the programmed state of a standard output, off, hold or on. -/
def execProgrammedStateTimeout (ch : Fin 48) (s : State) : Out :=
  let n := ch.val
  let f := s.fe n
  if f.mode = 5 ∧ f.live ∧ ¬ f.prog ∧ f.lsto ≤ s.fieldNow - f.lastAcc then
    let want := match f.lsst with | 0 => false | 1 => f.stdq | _ => true
    let f := { f with prog := true, hsWant := want }
    let on := want && f.mayDrive && (f.hs || f.band != .sag)
    .next (s.setFe n { f with hs := on, ls := false })
  else .next s

/-- FE_EXERCISE (R456, R457): an exercise begins, 100 ms ± 1 % after the commit and after the start of each; the samples of its 200 µs
take it on. -/
def execFeExercise (ch : Fin 48) (o : ExerciseObs) (s : State) : Out :=
  let n := ch.val
  let f := s.fe n
  if f.powered ∧ f.committed ∧ f.exAt ≤ s.fieldNow + 1000 ∧ s.fieldNow ≤ f.exAt + 1000 then
    .next (s.setFe n { f with exRun := some ⟨s.fieldNow, exerciseBits o, false⟩, exAt := s.fieldNow + 100000 })
  else .next s

/-! ### Output stage, current limit and supply -/

/-- FE_FAULT takes a code: the lower of two of one microtick (R266, R267). -/
def Fe.report (f : Fe) (code now : Nat) : Fe :=
  if f.faultAt = now ∧ f.fault ≠ 0 ∧ f.fault.toNat < code then f
  else { f with fault := BitVec.ofNat 8 code, faultAt := now }

/-- A programmed state that is on is applied as soon as nothing defers it or holds the switch open (R256, R259). -/
def reprogram (f : Fe) : Fe :=
  if f.prog && f.hsWant && f.mayDrive && f.band != .sag then { f with hs := true } else f

/-- The codes that are still latched in the front end. -/
def Fe.latchedCode (f : Fe) : Byte :=
  let l := [f.climLatch, f.supLatch, if f.stFail then some 0x1D#8 else none].filterMap id
  l.foldl (fun a b => if a = 0 ∨ b.toNat < a.toNat then b else a) 0

/-- What the front end's own samples show of a PN output's test (R458); of the other kinds they show nothing. -/
def Fe.stageSeen (f : Fe) : Bool := !(f.mode == 4 && f.otype == 1) || (f.stHigh && f.stLow)

/-- How long the steps of the test take (R458). -/
def Fe.stageTime (f : Fe) : Nat := if f.mode = 4 ∧ f.otype = 1 then 400 else 0

/-- OUTPUT_STAGE_TEST (R458, R460): starts after a commit as soon as the group is in Normal, and again every
100 ms after a failure while every request is 0. -/
def execOutputStageTest (ch : Fin 48) (s : State) : Out :=
  let n := ch.val
  let f := s.fe n
  let zero := !f.reqA && !f.reqB && !f.stdq
  let again := f.stFail && f.stAgain ≤ s.fieldNow && zero
  if isOutputMode f.mode ∧ f.live ∧ f.locked ∧ f.band = .normal ∧ f.stRun.isNone ∧ (f.stPend ∨ again) then
    .next (s.setFe n { stageStep { f with stHigh := false, stLow := false } 0 0 with stPend := false, stRun := some s.fieldNow })
  else .next s

/-- OUTPUT_STAGE_TEST_DONE (R458, R460): within 2 ms, once its steps are done. It passes where the samples of terminal A and the
checks without a sample, which `pass` reports, agree with the conditions of the kind; a pass clears the deferral, a failure in
RUN is a channel fault of the unit. -/
def execOutputStageTestDone (ch : Fin 48) (pass : Bool) (s : State) : Out :=
  let n := ch.val
  let f := s.fe n
  match f.stRun with
  | none => .next s
  | some t =>
    if s.fieldNow < t + f.stageTime ∨ t + 2000 < s.fieldNow then .next s
    else if pass && f.stageSeen then
      let f := { openAll f with stRun := none, stFail := false }
      let s := s.setFe n (reprogram { f with fault := f.latchedCode })
      let s := (s.unitOf n).foldl (fun s k => s.setChan k { s.chan k with goneRun := 0 }) s
      if s.flag (odefFld n) then .next (setBst (setBst s (odefFld n) 0) F.BST_EV_odone 1) else .next s
    else
      let f := { openAll f with stRun := none, stFail := true, stAgain := s.fieldNow + 100000 }
      let s := s.setFe n (f.report 0x1D s.fieldNow)
      if s.mode = .run then .next (unitFault s n 0x1D s.now) else .next s

/-- CURRENT_LIMIT_TRIP (R239): every switch of the channel opens and latches. -/
def execCurrentLimitTrip (ch : Fin 48) (s : State) : Out :=
  let n := ch.val
  let f := s.fe n
  let ran (t : Option Nat) : Bool := match t with | some t => decide (18 ≤ s.fieldNow - t) | none => false
  if f.climLatch.isNone ∧ (ran f.limHs ∨ ran f.limLs) then
    let code := if ran f.limHs then 0x10 else 0x11
    let f := { openAll f with limHs := none, limLs := none, climLatch := some (BitVec.ofNat 8 code), zeroFrames := 0 }
    .next (s.setFe n (f.report code s.fieldNow))
  else .next s

/-- CURRENT_LIMIT_LATCH_CLEAR (R239): after 1000 consecutive accepted frames with every request 0. -/
def execCurrentLimitLatchClear (ch : Fin 48) (s : State) : Out :=
  let n := ch.val
  let f := s.fe n
  if f.climLatch.isSome ∧ 1000 ≤ f.zeroFrames then
    let f := { f with climLatch := none }
    .next (s.setFe n (reprogram { f with fault := f.latchedCode }))
  else .next s

/-- The supply bands with their hysteresis (R258; DEDUCED, log 8): `n` selects this front end's own switching points. -/
def nextBand (n : Nat) (b : Band) (mv : Int) : Band :=
  let rise := point n 20 19300 200
  let fall := point n 21 18900 200
  let under := point n 22 15300 200
  let top := point n 23 31500 300
  if mv < 0 then .reversed
  else if mv < 10000 then .absent
  else if top < mv then .over
  else match b with
    | .normal => if mv < under then .under else if mv < fall then .sag else .normal
    | .sag => if rise ≤ mv then .normal else if mv < under then .under else .sag
    | .under => if rise ≤ mv then .normal else .under
    | .over => if mv < under then .under else if mv < fall then .sag else .normal
    | _ => if rise ≤ mv then .normal else .sag

/-- A supply trip opens and latches every output switch (R258, R260). -/
def supplyTrip (f : Fe) (code now : Nat) : Fe :=
  { openAll f with supLatch := match f.supLatch with | some c => some c | none => some (BitVec.ofNat 8 code) }.report code now

/-- A bridging trip (R260): it is one of the Sag in force, whatever is latched already. -/
def bridgeTrip (f : Fe) (now : Nat) : Fe := { supplyTrip f 0x19 now with sagTrip := true }

/-- The group's part of a bridging trip (R271). -/
def noteBridgeTrip (s : State) (g : Nat) : State :=
  markGroup (s.setGroup g { s.group g with sagTrip := true }) (F.FSG_FLT_sagx g) g

/-- Whether another front end of the group is in Sag. -/
def groupSag (s : State) (g : Nat) : Bool := (groupChans g).any (fun k => (s.fe k).band == .sag)


/-- The book-keeping of a group's sags (R271): a Sag is bridged where the group leaves it for Normal without a bridging trip in it. -/
def sagBooks (s : State) (g : Nat) (was is : Bool) (toNormal : Bool) : State :=
  if ¬ was ∧ is then (s.setGroup g { s.group g with sagRun := s.now + 1, sagTrip := false }).fincSat (F.FSG_SAGC_cnt g)
  else if was ∧ ¬ is then
    let s := s.fpeak (F.FSG_SAGC_lmax g) (s.now + 1 - (s.group g).sagRun)
    if toNormal ∧ ¬ (s.group g).sagTrip then markGroup s (F.FSG_FLT_sag g) g else s
  else s

/-- SUPPLY_BAND_CHANGE (R258, R259, R260): the front end places its supply in a band and acts on it. -/
def execSupplyBandChange (ch : Fin 48) (mv : Int) (s : State) : Out :=
  let n := ch.val
  let g := groupOf n
  let f := s.fe n
  let b := nextBand n f.band mv
  if b = f.band then .next s
  else
    let was := groupSag s g
    let f1 := { f with band := b }
    let brg := s.fget (F.FSG_CFG_brg g)
    let f2 := match b with
      | .under => supplyTrip f1 0x18 s.fieldNow
      | .over => supplyTrip f1 0x1A s.fieldNow
      | .sag =>
        let f1 := if f1.stRun.isSome then { openAll f1 with stRun := none, stPend := true } else f1
        if brg = 0 then bridgeTrip f1 s.fieldNow else { f1 with sagTrip := false }
      | .normal => reprogram f1
      | _ => { openAll f1 with locked := false, up := none, committed := false, held := Tab.empty,
                               src := Source.reset, climLatch := none, supLatch := none, fault := 0, stFail := false, sagTrip := false,
                               stPend := false, stRun := none, cfgFlt := false, brt := 0, selfReg := 0, exRun := none, trim := Trim.neutral }
    let s := s.setFe n f2
    let s := match b with
      | .under => markGroup s (F.FSG_FLT_under g) g
      | .over => markGroup s (F.FSG_FLT_over g) g
      | .sag =>
        discardTests s (groupChans g) s.now
      | .normal => s
      | _ => causeGone s n (fun k => k == .source)
    let s := sagBooks s g was (groupSag s g) (b == .normal)
    .next (if b = .sag ∧ brg = 0 then noteBridgeTrip s g else s)

/-- BRIDGING_TIMEOUT (R260): the bridging timer has run out in Sag; once in each Sag of the front end. -/
def execBridgingTimeout (ch : Fin 48) (s : State) : Out :=
  let n := ch.val
  let g := groupOf n
  let f := s.fe n
  if f.band = .sag ∧ ¬ f.sagTrip ∧ s.fget (F.FSG_CFG_brg g) * 1000 ≤ f.brt then
    .next (noteBridgeTrip (s.setFe n (bridgeTrip f s.fieldNow)) g)
  else .next s

/-- BRIDGING_TIMER_RESET (R260): after 1000 consecutive microticks in Normal. -/
def execBridgingTimerReset (ch : Fin 48) (s : State) : Out :=
  let n := ch.val
  let f := s.fe n
  if f.band = .normal ∧ 1000 ≤ f.normRun then .next (s.setFe n { f with brt := 0 }) else .next s

/-- SUPPLY_LATCH_CLEAR (R262): after 10 000 microticks in Normal with every safety request 0. -/
def execSupplyLatchClear (ch : Fin 48) (s : State) : Out :=
  let n := ch.val
  let f := s.fe n
  if f.supLatch.isSome ∧ f.band = .normal ∧ 10000 ≤ f.zeroNorm then
    let f := { f with supLatch := none }
    .next (s.setFe n (reprogram { f with fault := f.latchedCode }))
  else .next s

end Sys2Proof.Machine
end

