-- ==== Sys2Proof/Machine/Hub.lean ====
section
/-! DEFINITION. The channel link hub and the enables: microticks, downlink frames, cycle boundaries, sync input,
and the monitors of ticks and enables (R17 to R19, R69 to R73, R83 to R85, R106 to R114, R215 to R218). -/

namespace Sys2Proof.Machine

/-! ### Lane tick counts -/

/-- Note a lane's count (PRS_LTCK). -/
def noteTicks (s : State) (ca cb : Nat) : State :=
  let s := (s.fpeak F.PRS_LTCK_amax ca).fpeak F.PRS_LTCK_bmax cb
  (s.fput F.PRS_LTCK_amin (min (s.fget F.PRS_LTCK_amin) ca)).fput F.PRS_LTCK_bmin (min (s.fget F.PRS_LTCK_bmin) cb)

/-- The lane clocks run and their counts are watched (R84). -/
def lanesWatched (s : State) : Bool := s.boot.lanesOn && s.mode != .twin && s.mode != .reset

def laneFaultA (s : State) : State := deviceFault { s with enA := { s.enA with laneFlt := true } } 0x50
def laneFaultB (s : State) : State := deviceFault { s with enB := { s.enB with laneFlt := true } } 0x51

/-- The bands of R84. -/
def tickOkA (c : Nat) : Bool := 248 ≤ c && c ≤ 252
def tickOkB (c : Nat) : Bool := 236 ≤ c && c ≤ 244

def checkTicks (s : State) (ca cb : Nat) : State :=
  if ¬ lanesWatched s then s
  else
    let s := noteTicks s ca cb
    let s := if tickOkA ca then s else laneFaultA s
    if tickOkB cb then s else laneFaultB s

/-- LANE_TICK_TIMEOUT (R84): a lane's count passes the upper limit without a microtick edge. -/
def execLaneTickTimeout (l : Lane) (s : State) : Out :=
  if ¬ lanesWatched s then .next s
  else match l with
    | .a => .next (laneFaultA s)
    | .b => .next (laneFaultB s)

/-! ### Cycle boundaries -/

/-- The hub passes a cycle boundary (R21, R106 to R108, R114): a step settled in the last cycle takes effect, and the lanes get
it with their next boundary; the cycle two before it is compared when Lane A starts this one (R24). -/
def passBoundary (s : State) (k : Nat) : State :=
  let h := s.hub
  if s.mode ≠ .run then { s with pins := { s.pins with syncOut := false } }
  else if k ≠ h.next then { s with pins := { s.pins with syncOut := false } }
  else
    let due := if h.first + 2 ≤ h.nextCyc then [(h.nextCyc - 2, k + 12)] else []
    let s := { s with
      hub := { h with bounds := h.bounds ++ [(h.nextCyc, k, h.taken)], nextCyc := h.nextCyc + 1
                      next := ((k : Int) + s.cyc + h.step).toNat, step := 0, taken := h.step, phi := h.phi + h.step }
      comp := { s.comp with dues := s.comp.dues ++ due }
      pins := { s.pins with syncOut := true } }
    syncStep (s.fput F.PRS_SSTAT_phi (unsign 8 s.hub.phi))

/-! ### Enables -/

/-- What a healthy pair (h1, h0) shows in microtick k (R215). -/
def healthCode (k : Nat) : BitVec 2 := if k % 2 = 0 then 0b10#2 else 0b01#2

/-- A comparison has completed, so that the pairs are due to show the healthy code in microtick k unless something has been reported
(R215). -/
def healthDue (s : State) (k : Nat) : Bool := s.comp.made && decide (s.comp.since ≤ k) && decide (k ≤ s.comp.through)

/-- The value that the comparator drives on both pairs in microtick k: outside the healthy time it is no code word; which of
the two it is has no effect. -/
def healthPair (s : State) (k : Nat) : BitVec 2 :=
  if !s.comp.bad && healthDue s k then healthCode k else 0#2

/-- A lane's generator sees the healthy code on its own pair (R215, R216). -/
def healthShows (s : State) (k : Nat) (w : LaneWires) : Bool := w.pair.getD (healthPair s k) == healthCode k

/-- The device-fault lines of a lane in a microtick (R217). -/
def setLines (e : Enable) (w : LaneWires) : Enable := { e with lines := ⟨w.lines.map (fun x => (x.1.val, x.2))⟩ }

/-- A device-fault line is asserted to a lane: by a detection, or as a line that shows anything but the code for no fault,
0b01 (R217; which of the two code words is the fault code is DESIGN CHOICE, log 52). -/
def Enable.asserted (e : Enable) : Bool := e.line || e.lines.entries.any (fun x => x.2 != 0b01#2)

/-- One enable generator in microtick k (R216): its next phase and its conditions. -/
def driveEnable (e : Enable) (health : Bool) (want : Bool) (k : Nat) : Enable :=
  let ok := health && !e.laneFlt && !e.asserted
  if ok then { e with phase := want, changed := if e.phase = want then e.changed else k, conds := true, failedAt := none }
  else { e with conds := false, failedAt := match e.failedAt with | some t => some t | none => some k }

/-- The first microtick in which an enable fails to change phase is stamped (CMP_ESTOP): `dueA` and `dueB` say whether each was to
change it. After an entry to SAFE the enables stop in the next microtick, and the stamp is written then (DESIGN CHOICE, log 52,
R232). -/
def noteStop (s : State) (dueA dueB : Bool) : State :=
  if ((dueA && !s.enA.conds) || (dueB && !s.enB.conds)) && s.rget R.CMP_ESTOP = 0 then s.rput R.CMP_ESTOP s.stamp else s

/-- The self-check of a lane's generator: its pair leaves the code, or does not take it when it is due, while its own detections are
clear and no mismatch has been reported (R221, cause 0x11). -/
def leftCode (s : State) (was : Bool) (k : Nat) (e : Enable) (health : Bool) : Bool :=
  (was || healthDue s k) && !health && !s.comp.told && !e.laneFlt && !e.asserted

/-- Both enables in a microtick, in opposite phase while everything is healthy (R25), with the self-check of R221 (0x11)
and the phases that R218 compares in every frame (0x13). A dark test is discarded when an enable stops (R247). -/
def runEnables (s : State) (k : Nat) (wa wb : LaneWires) : State :=
  let wasA := s.enA.conds
  let wasB := s.enB.conds
  let live := s.mode = .run
  let ha := decide live && healthShows s k wa
  let hb := decide live && healthShows s k wb
  let a := driveEnable (setLines s.enA wa) ha (k % 2 == 1) k
  let b := driveEnable (setLines s.enB wb) hb (k % 2 == 0) k
  let due := decide live && healthDue s k
  let s := noteStop { s with enA := a, enB := b } (wasA || due) (wasB || due)
  if ¬ live then s
  else
    let s := if (wasA && !a.conds) || (wasB && !b.conds) then discardTests s allChans k else s
    let s := ((s.fbool F.CMP_STAT_enaa (a.conds && a.changed == k)).fbool F.CMP_STAT_enab (b.conds && b.changed == k)).fbool
      F.CMP_STAT_hlth (ha && hb)
    let left := leftCode s wasA k a ha || leftCode s wasB k b hb
    let s := if left then deviceFault { s with comp := { s.comp with bad := true } } 0x11 else s
    if a.phase == b.phase then deviceFault s 0x13 else s

/-- ENABLE_MONITOR_TIMEOUT (R218): the monitor reports that the lane's enable, as placed in the downlink frames,
has kept its phase for 2 µs under a healthy code, or has gone on changing after its stop. After entry to SAFE the
detection is journaled (R222). -/
def execEnableMonitorTimeout (l : Lane) (s : State) : Out :=
  if s.mode = .run ∨ s.mode = .safe then
    match l with
    | .a => .next (deviceFault { s with enA := { s.enA with laneFlt := true } } 0x13)
    | .b => .next (deviceFault { s with enB := { s.enB with laneFlt := true } } 0x13)
  else .next s

/-! ### Downlink frames -/

/-- The word of the hub's configuration sequence at a place: reopen, registers 0x00 to 0x0B twice each, commit,
then the registers again and again; 60 waits (R73). -/
def seqWord (s : State) (n pos : Nat) : BitVec 64 :=
  if pos < 2 then downAux 0x0F 0x5A#32
  else if pos < 26 then downAux ((pos - 2) / 2) (cfgWord s n ((pos - 2) / 2))
  else if pos < 28 then downAux 0x0F 0xA5#32
  else if pos < 52 then downAux ((pos - 28) / 2) (cfgWord s n ((pos - 28) / 2))
  else downAux 0x0E 0

def seqNext (pos : Nat) : Nat := if pos < 51 then pos + 1 else if pos = 51 then 28 else pos

/-- DTS of a channel in microtick k (R246): sent for the full width, also when the test is discarded. -/
def dtsNow (s : State) (n k : Nat) : Nat :=
  let runs (d : Option DarkTest) : Bool := match d with
    | none => false
    | some d => decide (d.start ≤ k) && decide (k < d.start + s.fget (F.FSG_CFG_dtw (groupOf n)))
  if runs (s.chan n).dtHs then 1 else if runs (s.chan n).dtLs then 2 else 0

/-- The code of a supply trip (R258, R260, R261). -/
def isSupplyCause : ChCause → Bool
  | .out c => 0x18 ≤ c && c ≤ 0x1A
  | _ => false

/-- STDQ of a channel: Lane A's request in RUN, the calibration request in IDLE (R80, R236, R261, R265). -/
def stdqNow (s : State) (n : Nat) : Bool :=
  let c := s.chan n
  (if s.mode = .run then c.stdq else s.mode == .idle && c.calQ)
    && !(s.group (groupOf n)).stdHold && !c.causes.any isSupplyCause

/-- The downlink frame of a channel in microtick k (R19, R69, R70). -/
def buildDown (s : State) (n k : Nat) : BitVec 64 :=
  let c := s.chan n
  let run := s.mode == .run
  downFrame n (k % 16) (run && c.reqA) s.enA.phase (run && c.reqB) s.enB.phase (tpdNow s n k) (dtsNow s n k)
    (stdqNow s n) (auxNibble c.downWord (k % 16))

/-- The open-load flag is gone, and its run starts again (R269). -/
def clearOl (s : State) (n : Nat) : State :=
  let s := s.setChan n { s.chan n with olRun := 0 }
  if s.flag (F.CHN_ODET_ol n) then s.fput (F.CHN_ODET_ol n) 0 else s

/-- The channel is an output that is on, and its `ol` is 1 (R269). -/
def olWatched (s : State) (n : Nat) : Bool :=
  let c := s.chan n
  let m := s.chMode n
  let on := if m = 4 then s.mode == .run && c.reqA && c.reqB else stdqNow s n
  c.locked && isOutputMode m && on && s.flag (F.CHN_OCFG_ol n)

/-- The hub's side of one channel in a microtick. -/
def hubChannel (s : State) (k n : Nat) : State :=
  let s := if olWatched s n then s else clearOl s n
  let c := s.chan n
  let c := if c.locked ∧ k % 16 = 0 then { c with downWord := seqWord s n c.downPos, downPos := seqNext c.downPos } else c
  let off := !c.reqA && !c.reqB
  let safety := s.chMode n == 4
  let any := if safety then c.reqA || c.reqB else stdqNow s n
  let on := if safety then c.reqA && c.reqB else stdqNow s n
  let c := { c with offSince := if s.mode = .run ∧ off then (match c.offSince with | some t => some t | none => some k) else none
                    prevOn := match c.reqHist with | (i, _, on) :: _ => on && i + 1 == k | [] => false
                    prevSlow := (s.fe n).band != .normal
                    reqHist := ((k, any, on) :: c.reqHist).take 16
                    onSince := if s.mode = .run ∧ ¬ off then (match c.onSince with | some t => some t | none => some k) else none }
  let s := s.setChan n c
  let s := if s.chMode n = 4 then (s.fbool (F.CHN_ODET_reqa n) c.reqA).fbool (F.CHN_ODET_reqb n) c.reqB else s
  if c.locked then
    let w := buildDown s n k
    s.setChan n { s.chan n with down := some w, lastReq := w.getLsbD 59 || !(w.getLsbD 57) }
  else s.setChan n { s.chan n with down := none }

/-- The downlink of every channel; none in SAFE (R226). -/
def hubFrames (s : State) (k : Nat) : State :=
  if s.mode = .safe then allChans.foldl clearOl { s with chans := s.chans.map (fun c => { c with down := none, reqHist := [] }) }
  else allChans.foldl (fun s n => hubChannel s k n) s

/-! ### The microtick -/

/-- A fault changes bits of one half's state (R298). -/
def SesHalf.upset (h : SesHalf) (f : HalfField) (x : BitVec 64) : SesHalf :=
  let tick (n : Nat) : Nat := n ^^^ x.toNat
  match f with
  | .state => { h with st := sesState (sesCode h.st ^^^ (x.toNat % 8)) }
  | .vLast => { h with vLast := h.vLast ^^^ x.setWidth 32 }
  | .base => { h with base := h.base ^^ x.getLsbD 0 }
  | .peerTs => { h with peerTs := h.peerTs ^^^ x.setWidth 32, hasTs := h.hasTs ^^ x.getLsbD 32 }
  | .window => { h with win := h.win.map tick }
  | .rejection => { h with rejAt := h.rejAt.map tick }

/-- The fault of a lane's half that a microtick brings. -/
def upsetHalf (s : State) (l : Lane) : Option HalfUpset → State
  | none => s
  | some u =>
    let x := s.sess u.sid
    s.setSess u.sid (match l with
      | .a => { x with ha := x.ha.upset u.field u.bits }
      | .b => { x with hb := (x.hb.restore.upset u.field u.bits).cpl })

/-- The fault of a lane's form of the fuse shadows, once they hold the boot's values (R435). -/
def upsetShadow (s : State) (l : Lane) : Option ShadowUpset → State
  | none => s
  | some u => if s.flag F.OTP_STAT_rd then { s with otp := s.otp.upset l u } else s

/-- The faults that a microtick brings to the state held twice. -/
def upsetTwice (s : State) (ca cb : LaneTick) : State :=
  upsetShadow (upsetShadow (upsetHalf (upsetHalf s .a ca.half) .b cb.half) .a ca.shadow) .b cb.shadow

/-- At the start of a microtick the switch latches the 802.1AS time, for the hub and for the frame that a stream begins (R328,
R336). -/
def latchTime (s : State) : State :=
  let t : Int := (s.now : Int) * 1000 + s.net.asOff
  let s := { s with net := { s.net with asNow := t } }
  { s with streams := ⟨s.streams.entries.map (fun e =>
      let x := e.2
      if x.live && x.span != 0 && s.now % x.span == 0 then (e.1, { x with at_ := x.at_.set (s.now / x.span) t }) else e)⟩ }

/-- The session halves compared in a microtick (R298), while the engine runs: in RUN and in SAFE (R224, R314). A difference that
stays is one detection (DESIGN CHOICE, log 53). -/
def compareHalves (s : State) (k : Nat) : State :=
  if s.mode ≠ .run ∧ s.mode ≠ .safe then s
  else
    let x := s.sess (k % 160)
    let differ : Bool := x.hb != x.ha.cpl
    if differ = x.split then s
    else
      let s := s.setSess (k % 160) { x with split := differ }
      if differ then deviceFault s 0x25 else s

/-- A round of dark tests begins on the count alone (R245, FSG_DTSTAT.rounds). -/
def countRound (s : State) : State :=
  if s.mode = .run ∧ s.now % (s.fget (F.FSG_CFG_dti 0) * 1000) = 0 then s.finc F.FSG_DTSTAT_rounds else s

/-- A joined capacitor above VL24 supplies the module until its voltage reaches VL24 or the falling threshold of power-good (R510,
R524); how far it sinks in a microtick is open. -/
def drainHoldup (s : State) : State :=
  let c := s.pins.holdup
  let low := min c (max s.pins.vl24 (point 48 2 12000 300))
  if s.pins.powerGood ∧ s.pins.holdupOn ∧ low < c then
    let d := s.draw
    { d.2 with pins := { s.pins with holdup := low + (d.1.toNat % (c - low + 1).toNat : Nat) } }
  else s

/-- MICROTICK (R17, R83, R84, R216, R245, R298, R346, R435, R510). In reset the field sides' own time and a
joined capacitor's discharge alone go on (R467). -/
def execMicrotick (ca cb : LaneTick) (s : State) : Out :=
  let s := drainHoldup s
  if s.mode = .reset then .next { s with fieldOff := s.fieldOff + 1 }
  else
    let s := { s with
      tick := s.tick + 1
      pins := { s.pins with pfwClear := if 18000 ≤ s.pins.vl24 then s.pins.pfwClear + 1 else 0 }
      sealr := { s.sealr with onRun := if s.sealr.sw1Pair then s.sealr.onRun + 1 else 0 } }
    let s := runEnables (coreInterrupts (countCores (latchTime s))) s.now ca.wires cb.wires
    let s := passBoundary (checkTicks s ca.clocks cb.clocks) s.now
    let s := upsetTwice (countRound (advanceSlice (advanceSlice s .a) .b)) ca cb
    .next (hubFrames (compareHalves s s.now) s.now)

/-! ### SYNC_IN -/

/-- SYNC_IN_EDGE (R107, R109): an edge of at least 200 ns; two that are less than one period apart make the source invalid (DESIGN
CHOICE, log 52). Edges are judged in RUN alone, by the period of the accepted vintage (R104). -/
def execSyncInEdge (widthNs : Nat) (s : State) : Out :=
  if widthNs < 200 ∨ s.mode = .reset then .next s
  else
    let period := (s.fget F.PRS_SYNC_pdiv + 1) * s.cyc
    let early : Bool := s.mode == .run && (match s.hub.lastEdge with | some t => decide (s.now < t + period) | none => false)
    let h := { s.hub with lastEdge := some s.now, srcBad := early }
    let s := { s with hub := h }
    if early && s.fget F.PRS_SYNC_src == 1 then .next (loseSync s 1) else .next s

/-- SYNC_SOURCE_TIMEOUT (R109): no edge for 2 × (pdiv + 1) × C microticks; before the first edge the time runs from the entry to RUN
(DESIGN CHOICE, log 52). -/
def execSyncSourceTimeout (s : State) : Out :=
  let period := (s.fget F.PRS_SYNC_pdiv + 1) * s.cyc
  let last := match s.hub.lastEdge with | some t => t | none => s.runFrom
  if s.mode = .run ∧ s.fget F.PRS_SYNC_src = 1 ∧ last + 2 * period ≤ s.now then
    .next (loseSync { s with hub := { s.hub with srcBad := true } } 1)
  else .next s

/-- Rearm (R110): φ is set to 0 with the boundaries left where they are; nothing while the source is invalid. A lane that has not
yet received steps the hub has taken is short of them, so that its φ becomes the hub's once it has. -/
def syncRearmWrite (s : State) : State :=
  if ¬ s.srcValid then s
  else
    let a := s.hub.bounds.foldl (fun d e => d + e.2.2) s.hub.taken
    let b := a + (match s.lb.nextSnap with | some sn => sn.step | none => 0)
    let s := { s with hub := { s.hub with lost := false, phi := 0, step := 0 }
                      la := { s.la with phi := -a }, lb := { s.lb with phi := -b } }
    (s.fput F.PRS_SSTAT_lost 0).fput F.PRS_SSTAT_phi 0

end Sys2Proof.Machine
end

