-- ==== Sys2Proof/Machine/ChannelLogic.lean ====
section
/-! DEFINITION. What both lanes do with the uplink: frame checks, echoes, counters, source checks, dark tests,
off-state monitor, currents, calibrated readings, and the validity of channels (R50 to R82, R243 to R270,
R416, R417, R457, R459, R460). -/

namespace Sys2Proof.Machine

/-! ### Calibration (R415 to R417) -/

/-- A calibration block: offset, gain, lowest and highest point, temperature. -/
structure CalBlk where
  off  : Int
  gain : Int
  pmin : Int
  pmax : Int
  temp : Int
  deriving DecidableEq, Repr

/-- Quantities of a block: 0 voltage, 1 low current, 2 high current. -/
def calBlk (s : State) (n q : Nat) : Option CalBlk :=
  if ¬ s.flag F.CSK_CAL_vld then none
  else
    let gen := s.fget F.CSK_CAL_gen
    match s.cask.recs.reverse.find? (fun r => r.typ == 5 && r.key == n && r.gen % 65536 == gen) with
    | none => none
    | some r =>
      let f (i k : Nat) : Nat := le r.data (16 * q + i) k
      some ⟨signed 16 (f 0 2), f 2 2, signed 16 (f 4 2), signed 16 (f 6 2), signed 8 (f 8 1)⟩

def nominalGain (q : Nat) : Int := if q = 1 then 32768 else 40960

/-- The calibrated value of a raw code and whether it is extrapolated (R416, R417). -/
def calibrate (s : State) (n q : Nat) (x temp : Int) : Int × Bool :=
  match calBlk s n q with
  | none => ((x * nominalGain q + 8192) / 16384, true)
  | some c =>
    let g := ((c.pmax - c.pmin) * s.fget F.CSK_CALCFG_gb + 99) / 100
    let far := x < c.pmin - g || c.pmax + g < x
    let hot := s.fget F.CSK_CALCFG_gt < (temp - c.temp).natAbs
    (((x - c.off) * c.gain + 8192) / 16384, far || hot)

/-- The range of a channel's current (R43, R78). -/
def calRange (s : State) (n : Nat) : Nat := if s.flag (F.CHN_CFG_irng n) then 2 else 1

def saturated (x : Int) : Bool := x == 8191 || x == -8192

/-- A reading register: extrapolated, saturated, raw and calibrated. -/
def readingWord (x : BitVec 14) (cal : Int) (xtp : Bool) : Word :=
  BitVec.ofNat 32 (b2n xtp * 2 ^ 31 + b2n (saturated x.toInt) * 2 ^ 30 + x.toNat * 2 ^ 16 + unsign 16 (satSigned 16 cal))

/-! ### The measurement stream takes its samples (R333 to R336) -/

/-- The streams that select a channel: entry number and offset of the entry. -/
def streamsOf (s : State) (n : Nat) : List (Nat × Nat) :=
  let m := imgA s
  (m.strOffs.zipIdx.filter (fun e => bitAt (Img.le m (e.1 + 4) 8) n)).map (fun e => (e.2, e.1))

def addMask (t : Tab (BitVec 48)) (f n : Nat) (b : Bool) : Tab (BitVec 48) :=
  if b then t.set f (t.get 0 f ||| BitVec.ofNat 48 (2 ^ n)) else t

/-- A valid sample of a channel enters a stream. -/
def streamSample (s : State) (n idx : Nat) (v i : Int) (xv xi sv si : Bool) (e : Nat × Nat) : State :=
  let x := s.stream e.1
  if ¬ x.live then s
  else
    let m := imgA s
    let d := 2 ^ (m (e.2 + 2)).toNat
    let qty := (m (e.2 + 3)).toNat
    let nset := s.fget (F.MST_NSET_nset e.1)
    let f := idx / (max 1 nset * d)
    let put (t : Tab (Int × Nat)) (q : Nat) (y : Int) : Tab (Int × Nat) :=
      let k := idx / d * 128 + 2 * n + q
      let a := t.get (0, 0) k
      t.set k (a.1 + y, a.2 + 1)
    let hasV := qty % 2 == 1
    let hasI := 2 ≤ qty
    let acc := if hasV then put x.acc 0 v else x.acc
    let acc := if hasI then put acc 1 i else acc
    s.setStream e.1 { x with acc := acc
                             xm := addMask x.xm f n ((hasV && xv) || (hasI && xi))
                             sm := addMask x.sm f n ((hasV && sv) || (hasI && si)) }

/-! ### Failing frames -/

/-- How an uplink frame fails (R71). -/
inductive UpFail where
  | missing | crc | seq
  deriving DecidableEq, Repr

/-- The check of an uplink frame with an index (R70, R71). -/
def upCheck (n idx : Nat) (frame : Option (BitVec 64)) (codeErr : Bool) : Option UpFail :=
  match frame with
  | none => some .missing
  | some w => if codeErr || !frameOk false n w then some .crc
              else if bits w.toNat 63 60 ≠ idx % 16 then some .seq else none

/-- A frame before the one from which a fault of the front end makes the channel invalid (R21). -/
def early (c : Chan) (idx : Nat) : Bool := c.preValid && decide (idx < c.badFrom)

/-- Put the sample of an index into the history that the snapshots read. -/
def pushSample (s : State) (n idx : Nat) (v i : BitVec 14) : State :=
  let c := s.chan n
  let now := s.flag (F.CHN_STAT_valid n)
  let early := !now && early c idx
  let x : Sample := ⟨idx, c.lastIn, if early then c.preStamp else c.inStamp, now || early, v, i, c.pos, c.posB⟩
  s.setChan n { c with hist := (x :: c.hist).take 128 }

/-- Whether a failing frame is a fault: absence of supply is none in a group that is not used (FSG_CFG.use). -/
def linkMatters (s : State) (n : Nat) : Bool := s.flag (F.FSG_CFG_use (groupOf n)) || (s.fe n).powered

/-- A slot of the test pulses begins: what its checks start from (R55 to R58). -/
def slotBegin (c : Chan) (failed : Bool) : Chan :=
  { c with preRaw := c.lastRawL, winAll := true, winBad := false, slotBad := failed, dipOk := true }

/-- A failed frame in a slot: a check whose window holds it is not decided (R58), and the dip is not shown in place
throughout its slot (R55). -/
def slotFail (s : State) (n idx : Nat) : State :=
  let c := s.chan n
  match slotAt s idx with
  | none => s
  | some (_, p) =>
    let d := tpDip s
    let c := if p = 0 then slotBegin c true else { c with slotBad := true }
    s.setChan n { c with winBad := c.winBad || (decide (d - 10 ≤ p) && decide (p < d)) }

/-- A frame that fails (R71, R58, R247). The pair decoder of a counter track starts anew (DESIGN CHOICE, log 52). -/
def upFail (s : State) (n idx : Nat) (k : UpFail) : State :=
  let s := match k with
    | .missing => s
    | .crc => s.fincSat (F.CHN_ERRC_crcc n)
    | .seq => s.fincSat (F.CHN_ERRC_seqc n)
  let f := match k with
    | .missing => F.CHN_FAULT_lnkl n
    | .crc => F.CHN_FAULT_crce n
    | .seq => F.CHN_FAULT_seqe n
  let s := slotFail (discardTests s (s.unitOf n) idx) n idx
  let c := s.chan n
  let s := s.setChan n { c with good := 0, upBad := true, goneRun := 0, feedA := 0, feedB := 0, olRun := 0
                                lastAB := none, lastRawL := false }
  let s := if linkMatters s n then addCause (markFault s f n) n .frame idx else s
  invalidate s n idx

/-- Three errors in 16 frames are a loss of link (R67): from here on no frame examines the slot under check (R58), and no output is
seen on (R269). -/
def upLost (s : State) (n idx : Nat) : State :=
  let s := s.setChan n { s.chan n with locked := false, good := 0, down := none, winBad := true, slotBad := true }
  let s := (s.fput (F.CHN_ODET_ol n) 0).fput (F.CHN_STAT_lnk n) 0
  if linkMatters s n then chanFault s n .link idx else invalidate s n idx

/-! ### Echoes and front-end reports -/

/-- Echoes are not yet judged: since a reopen not every echo matches yet, or a link has just been acquired (R73). -/
def quiet (s : State) (c : Chan) : Bool :=
  c.reopen && (match c.grace with | none => true | some t => decide (s.now ≤ t))

/-- The echo of a configuration register (R73, R74). -/
def takeRegEcho (s : State) (n reg : Nat) (v : Word) (idx : Nat) : State :=
  let c := s.chan n
  let ok := v == cfgWord s n reg
  let oks := if ok then (if c.echoOk.contains reg then c.echoOk else reg :: c.echoOk) else c.echoOk.filter (· != reg)
  let all := decide (12 ≤ oks.length)
  let s := s.setChan n { c with echoAt := c.echoAt.set reg idx, echoOk := oks, reopen := c.reopen && !all }
  if quiet s c then s
  else if ok then (if all then causeGone s n (fun k => k == .echo) else s)
  else chanFault s n .echo idx

/-- The FE_FAULT echo: the code concerns the unit, or for a supply trip the group (R239, R260, R261, R460). -/
def takeFault (s : State) (n : Nat) (v : Word) (idx : Nat) : State :=
  let code := v.toNat % 256
  let have_ := (s.chan n).causes.contains (.out code)
  if code = 0x10 ∨ code = 0x11 ∨ code = 0x1D then (if have_ then s else unitFault s n code idx)
  else if 0x18 ≤ code ∧ code ≤ 0x1A then
    ((groupChans (groupOf n)).filter (fun k => isOutputMode (s.chMode k) && !(s.chan k).causes.contains (.out code))).foldl
      (fun s k => chanFault s k (.out code) idx) s
  else s

/-- The FE_SELF echo (R75, R457): the first one since a restart only says where the count stands, so that BST_FEX counts none
from before it (R464). -/
def takeSelf (s : State) (n : Nat) (v : Word) (idx : Nat) : State :=
  let c := s.chan n
  let cnt := bits v.toNat 31 24
  let bad := v.toNat % 128 != 0
  let s := if c.selfCnt = some cnt then s
    else
      let s := s.setChan n { c with selfCnt := some cnt, selfAt := if c.selfCnt.isSome then idx else c.selfAt }
      if bitAt v.toNat 7 ∧ c.selfCnt.isSome then
        let s := (s.fincSat F.BST_FEX_cnt).fput F.BST_FEX_last n
        causeGone s n (fun k => k == .self)
      else s
  if bad && !(s.chan n).causes.contains .self then chanFault s n .self idx else s

/-- A whole uplink auxiliary word (R74, R82). -/
def takeUpWord (s : State) (n w idx : Nat) : State :=
  let reg := bits w 63 56
  let v : Word := BitVec.ofNat 32 (w >>> 24)
  let vb : BitVec 14 := BitVec.ofNat 14 (w >>> 2)
  let s := s.fput (F.CHN_TEMP_t n) (bits w 23 16)
  let s := s.rput (R.CHN_VB n) (BitVec.ofNat 32 (vb.toNat * 2 ^ 16 + (Config.vbValue n vb).toNat))
  if reg < 12 then takeRegEcho s n reg v idx
  else if reg = 12 then takeFault s n v idx
  else if reg = 13 then takeSelf s n v idx
  else s

/-- The nibble of a good frame. -/
def takeNibble (s : State) (n idx seq nib : Nat) : State :=
  let c := s.chan n
  let c := if seq = 0 then { c with upNibs := [nib], upBad := false } else { c with upNibs := c.upNibs ++ [nib] }
  let s := s.setChan n c
  if seq = 15 ∧ ¬ c.upBad ∧ c.upNibs.length = 16 then takeUpWord s n (nibblesWord c.upNibs) idx
  else if seq = 15 then s.setChan n { c with upNibs := [] } else s

/-! ### Counter pairs (R62, R63) -/

/-- The steps of the sequence 00, 01, 11, 10 (track B, track A). -/
def quadStep (a b : BitVec 2) : Option Int :=
  let place (x : BitVec 2) : Nat := [0, 1, 3, 2].getD x.toNat 0
  let d := (place b + 4 - place a) % 4
  match d with
  | 0 => some 0
  | 1 => some 1
  | 3 => some (-1)
  | _ => none

/-- Decode a pair when both frames of an index have passed and both tracks are past their filter start (R63): from there on, and
after a failed frame of track A, the first pair is the one that the next is compared with. The cause of an illegal transition
has gone with the next legal counted step (both DESIGN CHOICE, log 52). Lane B counts the complement (R64). -/
def decodePair (s : State) (n idx : Nat) : State :=
  let a := 2 * (n / 2)
  let b := a + 1
  if ¬ (s.chMode a = 7 ∧ s.chMode b = 7) then s
  else
    let other := if n = a then b else a
    match (s.chan other).hist with
    | [] => s
    | x :: _ =>
      let ca := s.chan a
      let cb := s.chan b
      if x.idx ≠ idx ∨ ca.good = 0 ∨ cb.good = 0 then s
      else if idx < ca.inFrom + 4 ∨ idx < cb.inFrom + 4 then s.setChan a { ca with lastAB := none }
      else
        let ab : BitVec 2 := BitVec.ofNat 2 (2 * b2n cb.lastIn + b2n ca.lastIn)
        match ca.lastAB with
        | none => s.setChan a { ca with lastAB := some ab }
        | some old =>
          match quadStep old ab with
          | none => chansFault (s.setChan a { ca with lastAB := some ab }) [a, b] .counter idx
          | some 0 => s
          | some d =>
            let pos := ca.pos + d
            let st : Stamp := BitVec.ofNat 32 idx
            let posB := ca.posB - d
            let s := s.setChan a { ca with lastAB := some ab, pos := pos, edge := st, posB := posB, edgeB := ~~~st
                                           edges := ((idx, pos) :: ca.edges).filter (fun e => idx < e.1 + 160)
                                           edgesB := ((idx, posB) :: ca.edgesB).filter (fun e => idx < e.1 + 160) }
            let s := (s.fput (F.CHN_POS_pos a) (unsign 32 pos)).rput (R.CHN_EDGE a) st
            causeGone (causeGone s a (fun k => k == .counter)) b (fun k => k == .counter)

/-! ### Test pulses (R53 to R60) -/

/-- The slot that tests an input, if module pulses test it (R56). -/
def ownSlot (s : State) (n : Nat) : Option Nat :=
  if ¬ (s.chMode n = 1 ∨ s.chMode n = 2) then none
  else match s.fget (F.CHN_CFG_srcsel n) with
    | 0 => some n
    | 2 => some (s.fget (F.CHN_CFG_srcch n))
    | _ => none

/-- What a good frame adds to the checks of the slot it lies in (R55 to R58). -/
def slotFrame (s : State) (n idx : Nat) (raw : Bool) (band : Nat) (tpa : Bool) : State :=
  let c := s.chan n
  let d := tpDip s
  match slotAt s idx with
  | none => if tpa then chanFault s n .dipFeed idx else s
  | some (j, p) =>
    let mine := j == n && s.pulsed n
    let c := if p = 0 then slotBegin c false else c
    let dark := !raw && (s.chMode n != 2 || band == 2)
    let c := if d - 10 ≤ p ∧ p < d then { c with winAll := c.winAll && dark } else c
    let c := { c with dipOk := c.dipOk && (tpa == (mine && decide (p < d))) }
    let s := s.setChan n c
    let s := if tpa && !(mine && decide (p < d)) then chanFault s n .dipFeed idx else s
    if mine && decide (p + 1 = tpSlot s) && c.dipOk && !c.slotBad then causeGone s n (fun k => k == .dipFeed) else s

/-! ### Outputs -/

/-- The requests of a channel in the microtick of a frame: any, and on (R254, R269). -/
def reqsAt (s : State) (n idx : Nat) : Bool × Bool :=
  match (s.chan n).reqHist.find? (fun e => e.1 == idx) with
  | some e => e.2
  | none => (false, false)

/-- One good frame of an output channel: off-state monitor, open load, the run of R254, and the windows of a
dark test (R248, R252, R254, R269). -/
def outputFrame (s : State) (n idx : Nat) (v i : Int) (brb ovl flt slow : Bool) : State :=
  let c := s.chan n
  let m := s.chMode n
  if ¬ isOutputMode m then s
  else
    let pn := m == 4 && s.fget (F.CHN_OCFG_otype n) == 1
    let watch := m == 4 && (match c.offSince with | some t => decide (t + 1000 ≤ idx) | none => false)
    let req := reqsAt s n idx
    let low := decide (i.natAbs ≤ 20)
    let feed := decide (2200 ≤ v) || (pn && brb)
    let w := s.fget (F.FSG_CFG_dtw (groupOf n))
    let judge (obs res : Bool) (d : DarkTest) : DarkTest :=
      if d.start + w - 20 ≤ idx ∧ idx < d.start + w then { d with obs := d.obs && obs }
      else if d.start + w + 30 ≤ idx ∧ idx < d.start + w + 50 then { d with res := d.res && res }
      else d
    let c := { c with
      feedA := if watch && decide (2200 ≤ v) then c.feedA + 1 else 0
      feedB := if watch && pn && brb then c.feedB + 1 else 0
      olRun := if req.2 && low then c.olRun + 1 else 0
      goneRun := if req.1 || flt || ovl || feed then 0 else c.goneRun + 1
      dtHs := c.dtHs.map (judge (decide (v < 1000) && low) (decide (2200 ≤ v)))
      dtLs := c.dtLs.map (judge brb (!brb)) }
    let s := s.setChan n c
    let s := if c.olRun = 0 then s.fput (F.CHN_ODET_ol n) 0 else s
    if slow then discardTests s (s.unitOf n) idx else s

/-! ### Validity -/

/-- The conditions for a channel to be valid (R71, R74, R459). -/
def mayBeValid (s : State) (n : Nat) : Bool :=
  let c := s.chan n
  c.causes.isEmpty && c.locked && decide (16 ≤ c.good) && !c.reopen
    && (!isOutputMode (s.chMode n) || (s.fe n).stageOk) && !s.flag (odefFld n)

/-- A channel becomes valid again; after a channel fault its filter starts again (R94). -/
def makeValid (s : State) (n idx : Nat) : State :=
  let c := s.chan n
  let c' := { c with inStamp := BitVec.ofNat 32 idx, lastIn := c.lastIn && !c.faulted, faulted := false
                     inFrom := if c.faulted then s.now else c.inFrom }
  let s := if c.faulted then s.setFe n (restartFilter (s.fe n)) else s
  (s.setChan n c').fput (F.CHN_STAT_valid n) 1

def settle (s : State) (n idx : Nat) : State :=
  let v := s.flag (F.CHN_STAT_valid n)
  if mayBeValid s n then (if v then s else makeValid s n idx)
  else if v then invalidate s n idx else s

/-- A channel whose frame of an index has been taken already becomes valid with that index (R254). -/
def settleShown (s : State) (n idx : Nat) : State :=
  if s.flag (F.CHN_STAT_valid n) ∨ ¬ mayBeValid s n then s
  else
    let s := makeValid s n idx
    let c := s.chan n
    s.setChan n { c with hist := match c.hist with
      | [] => []
      | x :: l => { x with inn := c.lastIn, stamp := c.inStamp, valid := true } :: l }

/-- The cause of an output fault has gone when every channel of the unit has met R254 for 1000 microticks that end with one index,
and after an overload the group's mean is at or below 10.0 A (R254, R265). The unit's last frame of that index decides, for every
channel of it. -/
def outGone (s : State) (n idx : Nat) : State :=
  let u := s.unitOf n
  let mean := (s.group (groupOf n)).mean
  let here (k : Nat) : Bool := k == n || (match (s.chan k).hist with | x :: _ => x.idx == idx | [] => false)
  if u.all (fun k => here k && decide (1000 ≤ (s.chan k).goneRun)) then
    let s := u.foldl (fun s k => causeGone s k (fun c => match c with
      | .out code => if code = 0x1B ∨ code = 0x1C then decide (mean ≤ 20000) else true
      | _ => false)) s
    (u.filter (· != n)).foldl (fun s k => settleShown s k idx) s
  else s

/-! ### Good frames -/

/-- Status and readings of a good frame (R81, R82, R416). -/
def showFrame (s : State) (n idx : Nat) (w : BitVec 64) : State :=
  let x := w.toNat
  let old := (s.rget (R.CHN_STAT n)).toNat
  let keep := bits old 31 31 * 2 ^ 31 + bits old 17 17 * 2 ^ 17
  let st := keep + 2 ^ 30 + bits x 19 17 * 2 ^ 27 + bits x 59 59 * 2 ^ 26 + bits x 58 58 * 2 ^ 25 + bits x 57 56 * 2 ^ 23
    + bits x 55 55 * 2 ^ 22 + bits x 54 54 * 2 ^ 21 + bits x 53 53 * 2 ^ 20 + bits x 52 52 * 2 ^ 19 + bits x 16 16 * 2 ^ 18
    + bits x 63 60
  let s := s.rput (R.CHN_STAT n) (BitVec.ofNat 32 st)
  let s := if bits x 57 56 = 3 then s else s.fput (F.CHN_STAT_ind n) 0
  let v : BitVec 14 := BitVec.ofNat 14 (x >>> 34)
  let i : BitVec 14 := BitVec.ofNat 14 (x >>> 20)
  let temp := signed 8 (s.fget (F.CHN_TEMP_t n))
  let (cv, xv) := calibrate s n 0 v.toInt temp
  let (ci, xi) := calibrate s n (calRange s n) i.toInt temp
  let s := (s.rput (R.CHN_V n) (readingWord v cv xv)).rput (R.CHN_I n) (readingWord i ci xi)
  let s := s.fput (F.CHN_VIT_idx n) idx
  (streamsOf s n).foldl (fun s e => streamSample s n idx (satSigned 16 cv) (satSigned 16 ci) xv xi
    (saturated v.toInt) (saturated i.toInt) e) s

/-- Sums of currents (R244, R263). -/
def sumCurrent (s : State) (n : Nat) (i : Int) : State :=
  let c := s.chan n
  let m := s.chMode n
  let g := if isOutputMode m || m == 6 then max i 0 else 0
  s.setChan n { c with sumI := c.sumI + i, sumG := c.sumG + g }

/-- IN of a good frame with its stamp (R88, R94). -/
def takeIn (s : State) (n idx : Nat) (inn : Bool) : State :=
  let c := s.chan n
  let v := inn && decide (c.inFrom < idx ∨ c.inFrom = 0)
  if v = c.lastIn then s
  else if !s.flag (F.CHN_STAT_valid n) && early c idx then s.setChan n { c with lastIn := v, preStamp := BitVec.ofNat 32 idx }
  else s.setChan n { c with lastIn := v, inStamp := BitVec.ofNat 32 idx }

/-- A frame that passes its checks. -/
def upGood (s : State) (n idx : Nat) (w : BitVec 64) : State :=
  let x := w.toNat
  let v : BitVec 14 := BitVec.ofNat 14 (x >>> 34)
  let i : BitVec 14 := BitVec.ofNat 14 (x >>> 20)
  let raw := bitAt x 58
  let flt := bitAt x 52
  let s := s.setChan n { s.chan n with good := (s.chan n).good + 1 }
  let s := showFrame s n idx w
  let s := if 16 ≤ (s.chan n).good then causeGone s n (fun k => k == .frame || k == .link) else s
  let s := takeNibble s n idx (bits x 63 60) (bits x 51 48)
  let s := if flt then (if (s.chan n).causes.contains .flt then s else chanFault s n .flt idx)
           else causeGone s n (fun k => k == .flt)
  let s := if s.chMode n = 2 ∧ bits x 57 56 ≠ 2 then causeGone s n (fun k => k == .wire) else s
  let s := slotFrame s n idx raw (bits x 57 56) (bitAt x 16)
  let s := outputFrame s n idx v.toInt i.toInt (bitAt x 55) (bitAt x 53) flt (bitAt x 54)
  let s := outGone (sumCurrent s n i.toInt) n idx
  let s := s.setChan n { s.chan n with lastRawL := raw }
  let s := settle (takeIn s n idx (bitAt x 59)) n idx
  decodePair (pushSample s n idx v i) n idx

/-- UPLINK_FRAME_RECEIVED (R20, R67, R68, R71): a frame arrives nine microticks after its sample. One that does not come counts
as a code error (DESIGN CHOICE, log 52). In RUN a used channel whose link is not locked has a channel fault, as no frame of it can
pass (R71, R75, R484). -/
def execUplinkFrameReceived (ch : Fin 48) (frame : Option (BitVec 64)) (codeErr : Bool) (s : State) : Out :=
  let n := ch.val
  if s.mode = .reset ∨ s.now < 9 then .next s
  else if ¬ (s.chan n).locked then
    .next (if s.mode = .run ∧ s.flag (F.FSG_CFG_use (groupOf n)) ∧ ¬ (s.chan n).causes.contains .link
      then chanFault s n .link (s.now - 9) else s)
  else
    let idx := s.now - 9
    let h := addErr (s.chan n).errHist (codeErr || frame.isNone)
    let s := s.setChan n { s.chan n with errHist := h }
    match upCheck n idx frame codeErr, frame with
    | none, some w => .next (upGood s n idx w)
    | f, _ =>
      let s := upFail s n idx (f.getD .missing)
      let s := if linkLost h then upLost s n idx else s
      .next (pushSample s n idx 0 0)

/-! ### Timeouts and flags of one channel -/

/-- CONFIG_ECHO_TIMEOUT (R74): an echo missing for more than 512 µs. -/
def execConfigEchoTimeout (ch : Fin 48) (reg : Fin 12) (s : State) : Out :=
  let n := ch.val
  let c := s.chan n
  if c.locked ∧ ¬ quiet s c ∧ c.echoAt.get 0 reg.val + 512 + 9 < s.now then
    .next (chanFault (s.setChan n { c with echoOk := c.echoOk.filter (· != reg.val) }) n .echo (s.now - 9))
  else .next s

/-- INDETERMINATE_FLAG (R50): 10 000 consecutive microticks in the Indeterminate band. -/
def execIndeterminateFlag (ch : Fin 48) (s : State) : Out :=
  let n := ch.val
  if (s.fe n).mode = 2 ∧ 10000 ≤ (s.fe n).ind then .next (s.fput (F.CHN_STAT_ind n) 1) else .next s

/-- WIRE_BREAK_FAULT (R51): 1000 consecutive microticks in the Wire-break band. -/
def execWireBreakFault (ch : Fin 48) (s : State) : Out :=
  let n := ch.val
  if (s.fe n).mode = 2 ∧ 1000 ≤ (s.fe n).wbrk then .next (chanFault s n .wire s.now) else .next s

/-- FE_SELF_TIMEOUT (R457): the exercise count has not advanced in 102 000 microticks, whose last frame comes 9 later (R68). -/
def execFeSelfTimeout (ch : Fin 48) (s : State) : Out :=
  let n := ch.val
  let c := s.chan n
  if c.locked ∧ (s.fe n).committed ∧ c.selfAt + 102000 + 9 ≤ s.now then .next (chanFault s n .self (s.now - 9)) else .next s

/-- OFF_STATE_FEED_DETECT (R252): feeds found in the same microtick have runs of one length, and terminal A's code. -/
def execOffStateFeedDetect (ch : Fin 48) (s : State) : Out :=
  let n := ch.val
  let c := s.chan n
  if 1000 ≤ c.feedA ∧ ¬ c.causes.contains (.out 0x15) then .next (unitFault s n 0x15 (s.now - 9))
  else if 1000 ≤ c.feedB ∧ c.feedA ≠ c.feedB ∧ ¬ c.causes.contains (.out 0x16) then .next (unitFault s n 0x16 (s.now - 9))
  else .next s

/-- OPEN_LOAD_FLAG (R269). -/
def execOpenLoadFlag (ch : Fin 48) (s : State) : Out :=
  let n := ch.val
  if s.flag (F.CHN_OCFG_ol n) ∧ 100000 ≤ (s.chan n).olRun then .next (s.fput (F.CHN_ODET_ol n) 1) else .next s

/-! ### The close of a dip's observation window (R55 to R58) -/

/-- A cross-short found on an input in a slot (R57, R81). -/
def crossShort (s : State) (n j idx : Nat) : State :=
  let c := s.chan n
  let s := s.setChan n { c with xshLink := if c.xshLink.contains j then c.xshLink else j :: c.xshLink }
  let s := (s.fput (F.CHN_XSRC_vld n) 1).fput (F.CHN_XSRC_slot n) j
  chanFault (chanFault s n .xshort idx) j .xshort idx

/-- A cross-short has gone when the input meets the precondition in the slot and is not dark. -/
def crossGone (s : State) (n j : Nat) : State :=
  let c := s.chan n
  if ¬ c.xshLink.contains j then s
  else
    let s := s.setChan n { c with xshLink := c.xshLink.filter (· != j) }
    let clear (s : State) (k : Nat) : State :=
      if (s.chan k).xshLink.isEmpty && allChans.all (fun m => !(s.chan m).xshLink.contains k)
      then causeGone s k (fun x => x == .xshort) else s
    clear (clear s n) j

/-- The check of one input in slot j (R56, R57). -/
def judgeInput (s : State) (j idx : Nat) (n : Nat) : State :=
  let c := s.chan n
  match ownSlot s n with
  | none => s
  | some own =>
    if ¬ c.preRaw ∨ c.winBad then s
    else if own = j then
      (if c.winAll then causeGone s n (fun k => k == .extFeed) else chanFault s n .extFeed idx)
    else if c.winAll then crossShort s n j idx
    else crossGone s n j

/-- DIP_WINDOW_CLOSE (R55 to R58): both lanes decide the checks of a slot. -/
def execDipWindowClose (slot : Fin 48) (s : State) : Out :=
  let j := slot.val
  if s.now < 9 then .next s
  else match slotAt s (s.now - 9) with
    | none => .next s
    | some (k, p) =>
      let d := tpDip s
      if k ≠ j ∨ p + 1 < d ∨ ¬ s.pulsed j then .next s
      else
        let idx := s.now - 9 - p + d - 1
        let c := s.chan j
        let s := if ¬ c.dipOk ∧ ¬ c.winBad then chanFault s j .dipFeed idx else s
        .next (allChans.foldl (fun s n => judgeInput s j idx n) s)

/-! ### Dark tests (R245 to R251) -/

/-- The slots of a round: channel tested and side, in slot order (R245). -/
def dtSlots (s : State) : List (Nat × Bool) :=
  let leads := allChans.filter (fun n => s.chMode n == 4 && s.fget (F.CHN_OCFG_lead n) == n)
  leads.flatMap (fun n =>
    if s.fget (F.CHN_OCFG_otype n) = 1 then [(n, true), (n, false)]
    else (s.unitOf n).map (fun k => (k, true)))

def dtWidth (s : State) : Nat := s.fget (F.FSG_CFG_dtw 0)
def dtRound (s : State) : Nat := s.fget (F.FSG_CFG_dti 0) * 1000

/-- The channels under test in a slot: every member of a PN unit, or one channel of a PP pair (R246). -/
def dtMembers (s : State) (n : Nat) : List Nat :=
  if s.fget (F.CHN_OCFG_otype n) = 1 then s.unitOf n else [n]

/-- The test of a side. -/
def Chan.test (c : Chan) (high : Bool) : Option DarkTest := if high then c.dtHs else c.dtLs

def Chan.setTest (c : Chan) (high : Bool) (d : Option DarkTest) : Chan :=
  if high then { c with dtHs := d } else { c with dtLs := d }

/-- DARK_TEST_SLOT_START (R245 to R247): both lanes requested the unit on and none of its channels showed SLOW in the
microtick before. -/
def execDarkTestSlotStart (k : Fin 96) (s : State) : Out :=
  let st := k.val * (dtWidth s + 50)
  match (dtSlots s)[k.val]? with
  | none => .next s
  | some (n, high) =>
    if s.mode ≠ .run ∨ s.now < st ∨ (s.now - st) % dtRound s ≠ 0 then .next s
    else
      if ¬ (s.unitOf n).all (fun m => (s.chan m).prevOn && !(s.chan m).prevSlow) then .next s
      else .next ((dtMembers s n).foldl (fun s m =>
        let s := s.setChan m ((s.chan m).setTest high (some ⟨s.now, true, false, true, true⟩))
        let s := s.fput (F.CHN_ODET_dtrun m) 1
        s.setChan m { s.chan m with down := if (s.chan m).locked then some (buildDown s m s.now) else none }) s)

/-- The test of a slot that is under way on its first channel. -/
def dtOf (s : State) (k : Nat) : Option (Nat × Bool × DarkTest) :=
  match (dtSlots s)[k]? with
  | none => none
  | some (n, high) => ((s.chan n).test high).map (fun d => (n, high, d))

/-- DARK_TEST_OBSERVATION_CLOSE (R248, R249). -/
def execDarkTestObservationClose (k : Fin 96) (s : State) : Out :=
  match dtOf s k.val with
  | none => .next s
  | some (n, high, d) =>
    let w := dtWidth s
    if ¬ d.live ∨ d.obsDone ∨ s.now < d.start + w + 8 then .next s
    else
      let ms := dtMembers s n
      let pass := ms.all (fun m => match (s.chan m).test high with | some d => d.obs | none => false)
      let s := ms.foldl (fun s m => s.setChan m ((s.chan m).setTest high (((s.chan m).test high).map
        (fun d => { d with obsDone := true, live := d.live && pass })))) s
      if pass then .next s
      else
        let s := ms.foldl (fun s m => s.fput (F.CHN_ODET_dtrun m) 0) s
        .next (unitFault s n (if high then 0x12 else 0x13) (d.start + w - 1))

/-- DARK_TEST_RESTORE_CLOSE (R248): the test passes, or the output was not restored. -/
def execDarkTestRestoreClose (k : Fin 96) (s : State) : Out :=
  match dtOf s k.val with
  | none => .next s
  | some (n, high, d) =>
    let w := dtWidth s
    if s.now < d.start + w + 58 then .next s
    else
      let ms := dtMembers s n
      let pass := ms.all (fun m => match (s.chan m).test high with | some d => d.res | none => false)
      let s := ms.foldl (fun s m =>
        let c := s.chan m
        let good := d.live && d.obsDone && pass
        let s := s.setChan m { c.setTest high none with
          passHs := if good && high then s.now else c.passHs
          passLs := if good && !high then s.now else c.passLs }
        let s := if (c.test (!high)).isSome then s else s.fput (F.CHN_ODET_dtrun m) 0
        if good then s.finc (if high then F.CHN_DTR_hsc m else F.CHN_DTR_lsc m) else s) s
      if d.live && d.obsDone && !pass then .next (unitFault s n 0x14 (d.start + w + 49)) else .next s

/-! ### Blocks of currents (R244, R263 to R265) -/

/-- The mean of a block in mA, rounded down (CHN_IAVG). -/
def blockMa (s : State) (n : Nat) (sum : Int) : Int :=
  if calRange s n = 2 then sum / 2000 else sum / 500000

/-- The members of the parallel set that a channel leads (R242). -/
def parallelOf (s : State) (n : Nat) : List Nat :=
  if s.chMode n = 4 ∧ s.fget (F.CHN_OCFG_lead n) = n ∧ s.fget (F.CHN_OCFG_par n) ≠ 0 then s.unitOf n else []

/-- The sharing check of one set (R244). -/
def shareSet (s : State) (n : Nat) : State :=
  let u := parallelOf s n
  if u.isEmpty then s
  else
    let total := u.foldl (fun a k => a + (s.chan k).sumI) 0
    let cnt : Int := u.length
    let on := u.all (fun k => (s.chan k).onSince.isSome) && decide (500 * 1000 * cnt ≤ total)
    let out (k : Nat) : Bool := on && decide (total < 10 * ((s.chan k).sumI * cnt - total).natAbs)
    let s := u.foldl (fun s k => s.setChan k { s.chan k with shareOut := if out k then (s.chan k).shareOut + 1 else 0 }) s
    if u.any (fun k => decide (100 ≤ (s.chan k).shareOut)) then unitFault s n 0x17 (s.now - 9) else s

/-- SHARING_BLOCK_END (R244): the frame that ends a block of 1000 microticks has been received. -/
def execSharingBlockEnd (s : State) : Out :=
  if s.mode = .reset ∨ s.now < 1008 ∨ (s.now - 8) % 1000 ≠ 0 then .next s
  else
    let s := allChans.foldl shareSet s
    .next (allChans.foldl (fun s n =>
      let c := s.chan n
      let ma := blockMa s n c.sumI
      (s.setChan n { c with sumI := 0, mean := ma }).fput (F.CHN_IAVG_iavg n) (unsign 16 (satSigned 16 ma))) s)

/-- A group trips (R263, R264). -/
def groupTrip (s : State) (g code : Nat) : State :=
  let s := s.setGroup g { s.group g with tripAt := some s.now, stdHold := true }
  let s := markGroup s (if code = 0x1B then F.FSG_FLT_ovl g else F.FSG_FLT_mshed g) g
  chansFault s ((groupChans g).filter (fun k => isOutputMode (s.chMode k))) (.out code) (s.now - 9)

/-- GROUP_CURRENT_BLOCK_END (R263, R264): means in codes of 0.5 mA. -/
def execGroupCurrentBlockEnd (s : State) : Out :=
  if s.mode = .reset ∨ s.now < 10008 ∨ (s.now - 8) % 10000 ≠ 0 then .next s
  else
    let sum (g : Nat) : Int := (groupChans g).foldl (fun a k => a + (s.chan k).sumG) 0
    let sums := (List.range 6).map sum
    let total := sums.foldl (· + ·) 0
    let s := (List.range 6).foldl (fun s g =>
      let x := sums.getD g 0
      let ma := (x / 20000).toNat
      let s := s.setGroup g { s.group g with mean := (x + 9999) / 10000 }
      (s.fput (F.FSG_IMEAN_mean g) ma).fpeak (F.FSG_IMEAN_peak g) ma) s
    let s := (s.fput F.FSG_MOD_sum (total / 20000).toNat).fpeak F.FSG_MOD_peak (total / 20000).toNat
    let s := (List.range 6).foldl (fun s g => if 21000 * 10000 < sums.getD g 0 then groupTrip s g 0x1B else s) s
    let top := (List.range 6).foldl (fun a g => if sums.getD a 0 < sums.getD g 0 then g else a) 0
    let s := if 84000 * 10000 < total then
        ((groupTrip s top 0x1C).fincSat F.FSG_MFLT_cnt).fput F.FSG_MFLT_ev 1 else s
    .next (allChans.foldl (fun s n => s.setChan n { s.chan n with sumG := 0 }) s)

/-- OVERLOAD_STDQ_RELEASE (R265). -/
def execOverloadStdqRelease (g : Fin 6) (s : State) : Out :=
  match (s.group g.val).tripAt with
  | some t => if t + 1000000 ≤ s.now then .next (s.setGroup g.val { s.group g.val with tripAt := none, stdHold := false })
              else .next s
  | none => .next s

end Sys2Proof.Machine
end

