-- ==== Sys2Proof/Machine/Net.lean ====
section
/-! DEFINITION. The switch (R309 to R332): frames, VLANs, forwarding, buffer, flow control, gates, addresses,
sequence recovery. The layouts of ARP, neighbour discovery, IP, UDP, PAUSE and PFC frames are those of the
standards that the spec names (PRESUMED, log 30). -/

namespace Sys2Proof.Machine

/-! ### Frames -/

def etArp : BitVec 16 := 0x0806
def etIp4 : BitVec 16 := 0x0800
def etIp6 : BitVec 16 := 0x86DD
def etPause : BitVec 16 := 0x8808
def etPtp : BitVec 16 := 0x88F7

/-- The address of MAC control frames and of gPTP messages. -/
def macPause : BitVec 48 := 0x0180C2000001
def macPtp : BitVec 48 := 0x0180C200000E
def macBcast : BitVec 48 := 0xFFFFFFFFFFFF

/-- Bytes from destination address to FCS (R311). -/
def frameLen (f : Frame) : Nat :=
  18 + (if f.tci.isSome then 4 else 0) + (if f.rtag.isSome then 6 else 0) + f.payload.length

/-- Padded to the minimum frame of 64 bytes (R278). -/
def padded (f : Frame) : Frame := { f with payload := f.payload ++ List.replicate (64 - frameLen f) 0 }

def frameVid (f : Frame) : Nat :=
  match f.tci with
  | some t => bits t.toNat 11 0
  | none => 0

def framePcp (f : Frame) : Nat :=
  match f.tci with
  | some t => bits t.toNat 15 13
  | none => 0

def multicast (m : BitVec 48) : Bool := m.getLsbD 40

/-- Wire time in ns of a frame with preamble and gap at a link speed. -/
def wireNs (sp : Speed) (len : Nat) : Nat :=
  match sp with
  | .m100 => (len + 20) * 80
  | .m1000 => (len + 20) * 8
  | .g2500 => ((len + 20) * 16 + 4) / 5

def speedCode : Speed → Nat
  | .m100 => 1
  | .m1000 => 2
  | .g2500 => 3

/-! ### The module's addresses (R316) -/

def ownMac (s : State) : BitVec 48 := 0x02#8 ++ s.otp.shadow.devId.setWidth 40

def macBytes (m : BitVec 48) : List Byte := beBytes 6 m.toNat

def ownIp4 (s : State) : List Byte := beBytes 4 (s.rget R.NET_IP4).toNat

/-- The link-local address with the modified EUI-64 identifier. -/
def ownIp6 (s : State) : List Byte :=
  let m := macBytes (ownMac s)
  [0xFE, 0x80, 0, 0, 0, 0, 0, 0] ++ [(m.getD 0 0) ^^^ 2, m.getD 1 0, m.getD 2 0, 0xFF, 0xFE, m.getD 3 0, m.getD 4 0, m.getD 5 0]

/-! ### Internet check sums -/

def foldSum (n : Nat) : Nat := let a := n % 65536 + n / 65536; a % 65536 + a / 65536

/-- The one's-complement sum of 16-bit words. -/
def inetSum : List Byte → Nat → Nat
  | a :: b :: r, n => inetSum r (foldSum (n + 256 * a.toNat + b.toNat))
  | [a], n => foldSum (n + 256 * a.toNat)
  | [], n => n

def inetCheck (l : List Byte) : List Byte := beBytes 2 (65535 - inetSum l 0)

/-- The pseudo header of UDP and ICMPv6. -/
def pseudo (src dst : List Byte) (proto len : Nat) : List Byte :=
  if src.length = 4 then src ++ dst ++ [0, BitVec.ofNat 8 proto] ++ beBytes 2 len
  else src ++ dst ++ beBytes 4 len ++ [0, 0, 0, BitVec.ofNat 8 proto]

/-- A UDP datagram with its check sum. -/
def udpBytes (src dst : List Byte) (port : Nat) (data : List Byte) : List Byte :=
  let n := 8 + data.length
  let head := beBytes 2 port ++ beBytes 2 port ++ beBytes 2 n
  let c := inetCheck (pseudo src dst 17 n ++ head ++ [0, 0] ++ data)
  head ++ (if beNat c = 0 then [0xFF, 0xFF] else c) ++ data

/-- IPv4 without options, TTL 64, DF (R278); the identification is open. -/
def ip4Bytes (src dst : List Byte) (ident : Nat) (body : List Byte) : List Byte :=
  let a := [0x45, 0] ++ beBytes 2 (20 + body.length) ++ beBytes 2 ident ++ [0x40, 0, 64, 17]
  a ++ inetCheck (a ++ [0, 0] ++ src ++ dst) ++ src ++ dst ++ body

/-- IPv6 without extension headers (R278); the flow label is open. -/
def ip6Bytes (src dst : List Byte) (flow next hops : Nat) (body : List Byte) : List Byte :=
  beBytes 4 (0x60000000 + flow % 2 ^ 20) ++ beBytes 2 body.length ++ [BitVec.ofNat 8 next, BitVec.ofNat 8 hops]
    ++ src ++ dst ++ body

/-! ### Ports and VLANs -/

def allPorts : List Nat := List.range 5

/-- The valid entry of a VID: its NET_VDAT word. -/
def vlanOf (s : State) (vid : Nat) : Option Word :=
  (s.net.vlans.entries.find? (fun e => e.2.getLsbD 31 && bits e.2.toNat 11 0 == vid)).map (fun e => e.2)

def vlanMember (w : Word) (p : Nat) : Bool := w.getLsbD (25 + p)
def vlanUntag (w : Word) (p : Nat) : Bool := w.getLsbD (20 + p)
def vlanRing (w : Word) : Bool := w.getLsbD 30

/-- Maximum frame of a port (R311). -/
def maxFrame (s : State) (p : Nat) : Nat := if s.flag (F.NET_PCFG_mfs p) then 9216 else 1522

/-- The queue of a PCP at a port (R319). -/
def queueOf (s : State) (p pcp : Nat) : Nat := bits (s.fget (F.NET_PMAP_map p)) (3 * pcp + 2) (3 * pcp)

/-- The lossless class of a priority. -/
def lossless (s : State) (pcp : Nat) : Option (Fin 2) :=
  if pcp = s.fget F.NET_CTL_ll0 then some 0 else if pcp = s.fget F.NET_CTL_ll1 then some 1 else none

/-- Set an event bit of NET_EV.link. -/
def linkEvent (s : State) (p : Nat) : State := s.fput F.NET_EV_link (s.fget F.NET_EV_link ||| 2 ^ p)

/-! ### The buffer (R322) -/

def poolSize : Nat := 147456
def poolLossy : Nat := 139264
def queueMax : Nat := 49152
def classMax : Nat := 16384
def classXon : Nat := 8192
def headMax : Nat := 24576

/-- Ingress numbers of the internal sources: the session engine, the framer, the hardware of the switch. -/
def fromPs : Nat := 5
def fromPm : Nat := 6
def fromSwitch : Nat := 7

/-- Set the shared-pool occupancy and show it. -/
def setPool (s : State) (n : Nat) : State :=
  let s := { s with net := { s.net with pool := n } }
  (s.fput F.NET_BUF_used ((n + 255) / 256)).fpeak F.NET_BUF_peak ((n + 255) / 256)

/-- A tail drop (R322, NET_QDROP). -/
def tailDrop (s : State) (p : Nat) : State := (s.fincSat (F.NET_QDROP_tail p)).fput F.NET_EV_qdrop 1

/-- Put a frame at the end of a queue. -/
def pushQ (s : State) (p q : Nat) (x : QFrame) : State :=
  let pt := s.port p
  s.setPort p { pt with queues := pt.queues.set q (pt.queues.get [] q ++ [x]) }

/-- A PAUSE or PFC frame that stops or releases a class (R323). -/
def pauseFrame (s : State) (fc quanta : Nat) (cls : Fin 2) : Frame :=
  let pr := if cls = 0 then s.fget F.NET_CTL_ll0 else s.fget F.NET_CTL_ll1
  let body : List Byte := if fc = 1 then [0, 1] ++ beBytes 2 quanta
    else [1, 1] ++ beBytes 2 (2 ^ pr) ++ (List.range 8).flatMap (fun i => beBytes 2 (if i = pr then quanta else 0))
  padded (Frame.mk macPause (ownMac s) none none etPause body true)

/-- Send XOFF or XON for a class of an ingress port, if its flow control is on, its link is up and it is no ring break (R318,
R323). -/
def sendPause (s : State) (p quanta : Nat) (cls : Fin 2) : State :=
  let fc := s.fget (F.NET_PCFG_fc p)
  if fc = 0 ∨ (s.port p).link.isNone ∨ s.flag (F.NET_PCFG_rbrk p) then s
  else
    let s := s.setPort p { s.port p with lastTx := some (pauseFrame s fc quanta cls) }
    (s.finc (F.NET_TXF_cnt p)).fincSat (F.NET_FCNT_tx p)

/-- Enter XOFF for a class of an ingress port. -/
def enterXoff (s : State) (p : Nat) (cls : Fin 2) : State :=
  if ((s.port p).xoff.find cls.val).isSome then s
  else
    let s := s.setPort p { s.port p with xoff := (s.port p).xoff.set cls.val s.now }
    sendPause s p 0xFFFF cls

/-- A frame enters an egress queue, or is dropped (R312, R322): a lossless class sends XOFF as it reaches its limit or fills the pool,
and from then until XON goes into the headroom of its ingress port, where a full headroom is counted. -/
def enqueue (s : State) (p q : Nat) (f : Frame) (ingress pcp : Nat) (cut : Bool) : State :=
  let pt := s.port p
  let n := frameLen f
  if pt.link = none then s
  else
    match lossless s pcp with
    | none =>
      let held := (pt.queues.get [] q).foldl (fun a x => a + x.bytes) 0
      if poolSize < s.net.pool + n ∨ (q < 6 ∧ (poolLossy ≤ s.net.pool ∨ queueMax ≤ held)) then tailDrop s p
      else pushQ (setPool s (s.net.pool + n)) p q ⟨f, n, ingress, none, false, cut⟩
    | some c =>
      if 5 ≤ ingress then
        if poolSize < s.net.pool + n then tailDrop s p
        else pushQ (setPool s (s.net.pool + n)) p q ⟨f, n, ingress, none, false, cut⟩
      else
        let g := s.port ingress
        if (g.xoff.find c.val).isNone ∧ g.pool.get 0 c.val < classMax ∧ s.net.pool + n ≤ poolSize then
          let held := g.pool.get 0 c.val + n
          let s := s.setPort ingress { g with pool := g.pool.set c.val held }
          let s := pushQ (setPool s (s.net.pool + n)) p q ⟨f, n, ingress, some c, false, cut⟩
          if classMax ≤ held ∨ poolSize ≤ s.net.pool then enterXoff s ingress c else s
        else if g.head.get 0 c.val + n ≤ headMax then
          let s := s.setPort ingress { g with head := g.head.set c.val (g.head.get 0 c.val + n) }
          pushQ (enterXoff s ingress c) p q ⟨f, n, ingress, some c, true, cut⟩
        else enterXoff ((s.fincSat (F.NET_QDROP_hdr ingress)).fput F.NET_EV_qdrop 1) ingress c

/-- A frame leaves the buffer. -/
def release (s : State) (x : QFrame) : State :=
  match x.cls with
  | none => setPool s (s.net.pool - x.bytes)
  | some c =>
    let g := s.port x.ingress
    if x.inHead then s.setPort x.ingress { g with head := g.head.set c.val (g.head.get 0 c.val - x.bytes) }
    else
      let s := s.setPort x.ingress { g with pool := g.pool.set c.val (g.pool.get 0 c.val - x.bytes) }
      setPool s (s.net.pool - x.bytes)

/-! ### Gates (R325) -/

def gateCycle (l : List GateEnt) : Nat := (l.foldl (fun n e => n + e.intv) 0) * 64

/-- How long a queue's gate stays open from a place in the cycle, at most one cycle: `none` where it never closes. -/
def openFor (l : List GateEnt) (q pos : Nat) : Option Nat :=
  if l.all (fun e => e.mask.getLsbD q) then none
  else
    let walk := (l ++ l).foldl (fun (a : Nat × Nat × Bool) e =>
      let t1 := a.1 + e.intv * 64
      if a.2.2 ∨ t1 ≤ pos then (t1, a.2.1, a.2.2)
      else if e.mask.getLsbD q then (t1, a.2.1 + (t1 - max a.1 pos), false)
      else (t1, a.2.1, true)) (0, 0, false)
    some (min walk.2.1 (gateCycle l))

/-- The longest window of a queue's gate. -/
def longestOpen (l : List GateEnt) (q : Nat) : Option Nat :=
  if l.all (fun e => e.mask.getLsbD q) then none
  else
    some ((l ++ l).foldl (fun (a : Nat × Nat) e =>
      let run := if e.mask.getLsbD q then a.1 + e.intv * 64 else 0
      (run, max a.2 run)) (0, 0)).2

/-- The gates in force at a port: none with `en` at 0. -/
def gatesOf (s : State) (p : Nat) : List GateEnt := if s.flag (F.NET_GCFG_en p) then (s.port p).gates else []

/-- Place in the cycle of a 802.1AS time; cycles start at whole multiples. -/
def gatePos (l : List GateEnt) (t : Int) : Nat := (t % (gateCycle l : Int)).toNat

/-- How long a queue's gate stays open from an 802.1AS time under the list in force alone. -/
def openNow (s : State) (p q : Nat) (t : Int) : Option Nat :=
  match gatesOf s p with
  | [] => none
  | l => openFor l q (gatePos l t)

/-- The next cycle start after an 802.1AS time at which a committed list takes over: one of the running list that is a whole multiple of
the new cycle time. It is sought in as many cycles as a frame can take. -/
def switchAt (s : State) (p : Nat) (l : List GateEnt) (t : Int) : Option Int :=
  let c : Int := gateCycle l
  let r : Int := gateCycle (s.port p).gates
  if r = 0 then some ((t / c + 1) * c)
  else ((List.range 1024).map (fun (i : Nat) => (t / r + 1 + (i : Int)) * r)).find? (fun b => b % c == 0)

/-- How long a queue's gate stays open from an 802.1AS time, past the start of a committed list too. -/
def openLeft (s : State) (p q : Nat) (t : Int) : Option Nat :=
  let now := openNow s p q t
  match s.flag (F.NET_GCFG_en p), (s.port p).commit with
  | true, some l =>
    match switchAt s p l t with
    | none => now
    | some b =>
      let d := (b - t).toNat
      if (match now with | none => true | some w => decide (d ≤ w)) then (openFor l q 0).map (fun w => d + w) else now
  | _, _ => now

/-- A frame of a queue may start at an own time in ns: its last bit and the gap after it are sent before the gate closes (R325). -/
def gateFits (s : State) (p q ns bytes : Nat) (sp : Speed) : Bool :=
  match openLeft s p q ((ns : Int) + s.net.asOff) with
  | none => true
  | some w => decide (wireNs sp bytes ≤ w)

/-- A frame of a queue fits no window of the list. -/
def gateNever (s : State) (p q bytes : Nat) (sp : Speed) : Bool :=
  match gatesOf s p with
  | [] => false
  | l =>
    match longestOpen l q with
    | none => false
    | some w => decide (w < wireNs sp bytes)

/-! ### Forwarding (R314 to R320) -/

/-- A port sends a VLAN: it is up and enabled, and across a ring break only with the ring flag (R318). -/
def portSends (s : State) (p : Nat) (w : Word) : Bool :=
  s.flag (F.NET_PCFG_en p) && vlanMember w p && (!s.flag (F.NET_PCFG_rbrk p) || vlanRing w)

/-- Cut-through towards an egress port (R320). -/
def cutThrough (s : State) (inSp : Option Speed) (p q : Nat) : Bool :=
  match inSp, (s.port p).link with
  | some a, some b =>
    s.flag (F.NET_PCFG_ct p) && decide (speedCode b ≤ speedCode a) && (s.port p).queues.get [] q == []
      && gateFits s p q (s.now * 1000) (maxFrame s p) b
  | _, _ => false

/-- One copy to an egress port; a frame whose FCS failed goes on only where it was cut through. -/
def forwardTo (s : State) (ingress : Nat) (inSp : Option Speed) (f : Frame) (p : Nat) : State :=
  let q := queueOf s p (framePcp f)
  let cut := cutThrough s inSp p q
  if f.fcsOk ∨ cut then enqueue s p q f ingress (framePcp f) cut else s

/-- Learn a source address (R315). -/
def learn (s : State) (p vid : Nat) (src : BitVec 48) : State :=
  if multicast src then s
  else
    let rest := s.net.macs.filter (fun e => !(e.vid == vid && e.mac == src))
    if rest.length < 4096 then { s with net := { s.net with macs := rest ++ [⟨vid, src, p, s.now⟩] } } else s

/-- The broadcast address. -/
def macBroadcast : BitVec 48 := 0xFFFFFFFFFFFF#48

/-- The ports that a destination leads to: static entries, learned entries, flooding (R315). A static entry does not narrow a
broadcast frame. -/
def destPorts (s : State) (vid : Nat) (dst : BitVec 48) (w : Word) : List Nat :=
  let members := allPorts.filter (vlanMember w)
  if dst = macBroadcast then members else
  match s.net.statics.entries.find? (fun e => e.2.2.getLsbD 31 && ((e.2.1 ++ e.2.2.setWidth 16 : BitVec 48) == dst)) with
  | some e => members.filter (fun p => e.2.2.getLsbD (16 + p))
  | none =>
    if multicast dst then members
    else
      match s.net.macs.find? (fun e => e.vid == vid && e.mac == dst) with
      | some e => members.filter (fun p => p == e.port)
      | none => members

/-- Send a frame of the module's own on ports (R279): the VLAN's entry must be valid and name the port. -/
def sendOwn (s : State) (from_ : Nat) (f : Frame) (ports : List Nat) : State :=
  match vlanOf s (frameVid f) with
  | none => s
  | some w =>
    (ports.filter (fun p => portSends s p w)).foldl (fun s p => enqueue s p (queueOf s p (framePcp f)) f from_ (framePcp f) false) s

/-- The ports of a mask. -/
def maskPorts (m : Nat) : List Nat := allPorts.filter (bitAt m)

/-! ### Sessions in the image -/

/-- What the network side uses of a session entry (R145). -/
structure SesNet where
  sid   : Nat
  role  : Nat
  plen  : Nat
  xport : Nat
  cid   : Nat
  per   : Nat
  lim   : Nat
  tci   : Nat
  port  : Nat
  frer  : Bool
  pmask : Nat
  peer  : List Byte
  deriving DecidableEq, Repr

def sesNet (m : Img) (o : Nat) : SesNet :=
  let xport := (m (o + 3)).toNat
  { sid := (m o).toNat, role := (m (o + 1)).toNat, plen := (m (o + 2)).toNat, xport := xport
    cid := Img.le m (o + 4) 4, per := Img.le m (o + 8) 4
    lim := if (m (o + 1)).toNat = 2 then Img.le m (o + 12) 4 else Img.le m (o + 16) 4
    tci := Img.le m (o + 0x14) 2, port := Img.le m (o + 0x16) 2
    frer := m (o + 0x18) == 1, pmask := (m (o + 0x19)).toNat
    peer := m.bytes (o + 0x20) (if xport = 1 then 4 else if xport = 2 then 16 else 6) }

/-- The sessions of the accepted vintage. -/
def sessionsOf (s : State) : List SesNet :=
  if s.vint.isSome then (imgA s).sesOffs.map (sesNet (imgA s)) else []

def sesCfgOf (s : State) (sid : Nat) : Option SesNet := (sessionsOf s).find? (fun x => x.sid == sid)

/-- The entry of a session as Lane B's half of the engine reads it (R283). -/
def sesCfgB (s : State) (sid : Nat) : Option SesNet :=
  if s.vint.isSome then ((imgB s).sesOffs.map (sesNet (imgB s))).find? (fun x => x.sid == sid) else none

/-! ### Next hops (R316) -/

/-- The next hop of a UDP session: the peer on-link, else the gateway. -/
def nextHopIp (s : State) (x : SesNet) : List Byte :=
  if x.xport = 2 then x.peer
  else
    let n := s.fget F.NET_IP4M_plen
    let own := (s.rget R.NET_IP4).toNat
    if (beNat x.peer) / 2 ^ (32 - n) = own / 2 ^ (32 - n) then x.peer else beBytes 4 (s.rget R.NET_GW4).toNat

/-- The resolved MAC of a session's next hop, whichever session it was resolved for. -/
def hopMac (s : State) (x : SesNet) : Option (BitVec 48) :=
  let ip := nextHopIp s x
  (s.net.hops.entries.find? (fun e => e.2.ip == ip && e.2.mac.isSome)).bind (fun e => e.2.mac)

/-- What is held of a session's next hop; one for another address is as never asked. -/
def hopOf (s : State) (x : SesNet) : NextHop :=
  let h := s.net.hops.get ⟨none, 0, []⟩ x.sid
  if h.ip = nextHopIp s x then h else ⟨none, 0, nextHopIp s x⟩

/-- Show how many next hops are unresolved (NET_NUNR, NET_EV.unr). -/
def showUnresolved (s : State) : State :=
  let n := ((sessionsOf s).filter (fun x => x.xport != 3 && (hopMac s x).isNone)).length
  let was := s.fget F.NET_NUNR_unr
  let s := s.fput F.NET_NUNR_unr n
  if was = 0 ∧ n ≠ 0 then s.fput F.NET_EV_unr 1 else s

/-- An address has been resolved: every session whose next hop it is takes it. -/
def resolved (s : State) (ip : List Byte) (mac : BitVec 48) : State :=
  let hops := (sessionsOf s).foldl (fun t x =>
    if x.xport ≠ 3 ∧ nextHopIp s x = ip then t.set x.sid { hopOf s x with mac := some mac } else t) s.net.hops
  showUnresolved { s with net := { s.net with hops := hops } }

/-- An ARP packet. -/
def arpBytes (op : Nat) (sha spa tha tpa : List Byte) : List Byte :=
  [0, 1, 8, 0, 6, 4] ++ beBytes 2 op ++ sha ++ spa ++ tha ++ tpa

/-- A neighbour solicitation or advertisement with its link-layer option. -/
def ndBytes (src dst : List Byte) (typ flags : Nat) (target : List Byte) (opt : Nat) (mac : List Byte) : List Byte :=
  let tail := beBytes 4 flags ++ target ++ [BitVec.ofNat 8 opt, 1] ++ mac
  let c := inetCheck (pseudo src dst 58 (4 + tail.length) ++ [BitVec.ofNat 8 typ, 0, 0, 0] ++ tail)
  ip6Bytes src dst 0 58 255 ([BitVec.ofNat 8 typ, 0] ++ c ++ tail)

/-- Ask for the next hop of a session, on its VLAN and ports. -/
def askHop (s : State) (x : SesNet) : State :=
  let own := macBytes (ownMac s)
  let ip := nextHopIp s x
  let tci : BitVec 16 := BitVec.ofNat 16 x.tci
  let f : Frame :=
    if x.xport = 2 then
      let low := ip.drop 13
      let dst := [0xFF, 0x02, 0, 0, 0, 0, 0, 0, 0, 0, 0, 1, 0xFF] ++ low
      ⟨BitVec.ofNat 48 (beNat ([0x33, 0x33, 0xFF] ++ low)), ownMac s, some tci, none, etIp6,
        ndBytes (ownIp6 s) dst 135 0 ip 1 own, true⟩
    else ⟨macBcast, ownMac s, some tci, none, etArp, arpBytes 1 own (ownIp4 s) (List.replicate 6 0) ip, true⟩
  sendOwn s fromSwitch (padded f) (maskPorts x.pmask)

/-- NEXT_HOP_RETRY (R316): an unresolved next hop every 1 s, a resolved one every 60 s. -/
def execNextHopRetry (sid : Fin 160) (s : State) : Out :=
  match sesCfgOf s sid with
  | none => .next s
  | some x =>
    let h := hopOf s x
    let due := h.at_ + (if (hopMac s x).isSome then 60000000 else 1000000)
    if x.xport = 3 ∨ s.mode = .reset ∨ s.now < due then .next s
    else
      let s := { s with net := { s.net with hops := s.net.hops.set x.sid { h with at_ := s.now } } }
      .next (askHop s x)

/-- Answer ARP and neighbour solicitations for the module's own addresses, and take their answers (R316). -/
def addressProtocol (s : State) (port : Nat) (f : Frame) : State :=
  let l := f.payload
  let own := macBytes (ownMac s)
  let back (dst : BitVec 48) (et : BitVec 16) (body : List Byte) : State :=
    sendOwn s fromSwitch (padded (Frame.mk dst (ownMac s) f.tci none et body true)) [port]
  if f.etype = etArp ∧ slice l 0 6 = [0, 1, 8, 0, 6, 4] then
    let sha := slice l 8 6
    let spa := slice l 14 4
    if be l 6 2 = 1 ∧ slice l 24 4 = ownIp4 s then
      back (BitVec.ofNat 48 (beNat sha)) etArp (arpBytes 2 own (ownIp4 s) sha spa)
    else if be l 6 2 = 2 then resolved s spa (BitVec.ofNat 48 (beNat sha)) else s
  else if f.etype = etIp6 ∧ be l 6 1 = 58 ∧ be l 7 1 = 255 then
    let src := slice l 8 16
    let body := slice l 40 (be l 4 2)
    if inetSum (pseudo src (slice l 24 16) 58 body.length ++ body) 0 ≠ 65535 then s
    else if be body 0 1 = 135 ∧ slice body 8 16 = ownIp6 s then
      back f.src etIp6 (ndBytes (ownIp6 s) src 136 0x60000000 (ownIp6 s) 2 own)
    else if be body 0 1 = 136 ∧ be body 24 2 = 0x0201 then
      resolved s (slice body 8 16) (BitVec.ofNat 48 (beNat (slice body 26 6)))
    else s
  else s

/-! ### Telegrams for the session engine (R278, R280, R300, R304) -/

/-- What a frame addressed to the module carries of a session framing: framing, source address, destination and source port, and
the telegram with `good` false where a check sum fails (R278). -/
structure Carried where
  xport : Nat
  peer  : List Byte
  port  : Nat
  sport : Nat
  good  : Bool
  tele  : List Byte
  deriving DecidableEq, Repr

/-- The telegram in a layer-2 payload: the padding of a minimum frame is left off. -/
def unpadTele (l : List Byte) : List Byte :=
  if l.length ≤ 46 then l.take (max 22 (22 + bits (be l 0 2) 12 8)) else l

def carried (s : State) (f : Frame) : Carried :=
  let l := f.payload
  if f.etype = etIp4 ∧ be l 9 1 = 17 ∧ slice l 16 4 = ownIp4 s ∧ bits (be l 6 2) 13 0 = 0 then
    let h := bits (be l 0 1) 3 0 * 4
    let n := be l (h + 4) 2
    let udp := slice l h n
    let src := slice l 12 4
    let sum := be udp 6 2 = 0 ∨ inetSum (pseudo src (slice l 16 4) 17 n ++ udp) 0 = 65535
    ⟨1, src, be udp 2 2, be udp 0 2, decide (inetSum (slice l 0 h) 0 = 65535 ∧ sum), udp.drop 8⟩
  else if f.etype = etIp6 ∧ be l 6 1 = 17 ∧ slice l 24 16 = ownIp6 s then
    let n := be l 44 2
    let udp := slice l 40 n
    let src := slice l 8 16
    ⟨2, src, be udp 2 2, be udp 0 2, decide (inetSum (pseudo src (slice l 24 16) 17 n ++ udp) 0 = 65535), udp.drop 8⟩
  else ⟨3, macBytes f.src, f.etype.toNat, f.etype.toNat, true, unpadTele l⟩

/-- A session matches a telegram (R280). -/
def sesMatches (c : Carried) (x : SesNet) : Bool :=
  let ret := bitAt (be c.tele 0 2) 3
  x.xport == c.xport && x.port == c.port && x.port == c.sport && x.peer == c.peer && x.cid == be c.tele 2 4
    && x.role == (if ret then 1 else 2)

/-- Sequence recovery by the vector algorithm (R304, R329): whether the copy passes. -/
def frerPasses (s : State) (sid : Nat) (seq : Nat) : Bool × State :=
  let put (r : Frer) : State := { s with net := { s.net with frer := s.net.frer.set sid r } }
  match s.net.frer.find sid with
  | none => (true, put ⟨seq, [true], s.now⟩)
  | some r =>
    let d := signed 16 (seq + 65536 - r.seq)
    if 32 ≤ d ∨ d ≤ -32 then (false, s.fincSat F.NET_FRER_rogue)
    else if 0 < d then (true, put ⟨seq, (true :: (List.replicate (d.toNat - 1) false ++ r.hist)).take 32, s.now⟩)
    else
      let k := (-d).toNat
      if r.hist.getD k false then (false, s.fincSat F.NET_FRER_disc)
      else (true, put ⟨r.seq, ((r.hist ++ List.replicate 32 false).take 32).set k true, s.now⟩)

/-- A matched telegram enters the engine's queue of 64 (R300). -/
def toEngine (s : State) (sid : Nat) (tele : List Byte) : State :=
  if 64 ≤ s.net.engine.length then s.fincSat F.SES_QDROP_drop
  else
    let s := { s with net := { s.net with engine := s.net.engine ++ [(sid, tele)] } }
    s.fpeak F.SES_QDROP_qmax s.net.engine.length

/-- A frame of a session's framing, port and VLAN goes to PS; what is left goes to PC (R280, R315). -/
def toModule (s : State) (f : Frame) : State :=
  let c := carried s f
  let l := (sessionsOf s).filter (fun x => x.xport == c.xport && x.port == c.port && bits x.tci 11 0 == (frameVid f))
  if l = [] ∨ (s.mode ≠ .run ∧ s.mode ≠ .safe) then { s with net := { s.net with toPc := s.net.toPc ++ [f] } }
  else if ¬ c.good then s
  else
    match (if c.tele.length < 6 then none else l.find? (sesMatches c)) with
    | none => s.fincSat F.SES_UNK_cnt
    | some x =>
      if ¬ x.frer then toEngine s x.sid c.tele
      else
        match f.rtag with
        | none => s
        | some q =>
          let r := frerPasses s x.sid q.toNat
          if r.1 then toEngine r.2 x.sid c.tele else r.2

/-- FRER_RECOVERY_RESET (R329). -/
def execFrerRecoveryReset (sid : Fin 160) (s : State) : Out :=
  match s.net.frer.find sid, sesCfgOf s sid with
  | some r, some x =>
    if r.seenAt + 4 * x.per ≤ s.now then .next { s with net := { s.net with frer := s.net.frer.del sid } } else .next s
  | _, _ => .next s

/-! ### Pauses (R323) -/

/-- The pauses that hold a queue of a port: its own, and those of the priorities that map to it. -/
def pausesOf (s : State) (p q : Nat) : List Nat :=
  (s.port p).pauseTo.entries.map (·.1) |>.filter (fun k => k == 8 + q || (decide (k < 8) && queueOf s p k == q))

/-- A queue of a port is paused. -/
def pausedQ (s : State) (p q : Nat) : Bool := pausesOf s p q != []

/-- The priority of a frame is paused, also where its queue no longer takes that priority; gPTP messages have none. -/
def pausedFrame (s : State) (p : Nat) (f : Frame) : Bool :=
  f.etype != etPtp && ((s.port p).pauseTo.find (framePcp f)).isSome

/-- Show the paused queues of a port (NET_PSTAT.pq). -/
def showPauses (s : State) (p : Nat) : State :=
  s.fput (F.NET_PSTAT_pq p) ((List.range 8).foldl (fun n q => if pausedQ s p q then n + 2 ^ q else n) 0)

/-- Pause or release one priority or queue of a port, by its key. -/
def pauseKey (s : State) (p k quanta : Nat) (sp : Speed) : State :=
  let ns := quanta * 512 * (match sp with | .m100 => 50 | .m1000 => 5 | .g2500 => 2) / 5
  let pt := s.port p
  showPauses (s.setPort p { pt with pauseTo :=
    if quanta = 0 then pt.pauseTo.del k else pt.pauseTo.set k (s.now + (ns + 999) / 1000) }) p

/-- A received PAUSE or PFC frame (R323). -/
def pauseReceived (s : State) (p : Nat) (f : Frame) (sp : Speed) : State :=
  let l := f.payload
  let fc := s.fget (F.NET_PCFG_fc p)
  let op := be l 0 2
  if op ≠ 1 ∧ op ≠ 0x101 then s
  else
    let s := s.fincSat (F.NET_FCNT_rx p)
    if fc = 1 ∧ op = 1 then (List.range 8).foldl (fun s q => pauseKey s p (8 + q) (be l 2 2) sp) s
    else if fc = 2 ∧ op = 0x101 then
      ([s.fget F.NET_CTL_ll0, s.fget F.NET_CTL_ll1]).foldl (fun s pr =>
        if bitAt (be l 2 2) pr then pauseKey s p pr (be l (4 + 2 * pr) 2) sp else s) s
    else s

/-- PAUSE_TIMER_EXPIRY (R323): the pauses of the queue whose time has run out end. -/
def execPauseTimerExpiry (port : Fin 5) (queue : Fin 8) (s : State) : Out :=
  let ended := (pausesOf s port queue).filter (fun k => match (s.port port).pauseTo.find k with | some t => decide (t ≤ s.now) | none => false)
  if ended = [] then .next s
  else
    let pt := s.port port
    .next (showPauses (s.setPort port { pt with pauseTo := pt.pauseTo.keep (fun k => !ended.contains k) }) port)

/-- XOFF_REPEAT (R323). -/
def execXoffRepeat (port : Fin 5) (cls : Fin 2) (s : State) : Out :=
  match (s.port port).xoff.find cls with
  | none => .next s
  | some t =>
    if t + 1000 ≤ s.now then
      .next (sendPause (s.setPort port { s.port port with xoff := (s.port port).xoff.set cls s.now }) port 0xFFFF cls)
    else .next s

/-- BUFFER_XON (R322). -/
def execBufferXon (port : Fin 5) (cls : Fin 2) (s : State) : Out :=
  let pt := s.port port
  if (pt.xoff.find cls).isSome ∧ pt.pool.get 0 cls ≤ classXon ∧ pt.head.get 0 cls = 0 then
    .next (sendPause (s.setPort port { pt with xoff := pt.xoff.del cls }) port 0 cls)
  else .next s

/-! ### Egress (R319, R325) -/

/-- The own time at which a port may start its next frame within this microtick. -/
def startNs (s : State) (p : Nat) : Nat := max (s.port p).busyTo (s.now * 1000)

/-- A frame as it goes out: untagged where its VLAN says so, but for the telegrams and the stream frames of the module, which
always have their tag (R278, R333). -/
def egressForm (s : State) (p : Nat) (x : QFrame) : Frame :=
  match x.f.tci, vlanOf s (frameVid x.f) with
  | some _, some w => if vlanUntag w p && x.ingress != fromPs && x.ingress != fromPm then { x.f with tci := none } else x.f
  | _, _ => x.f

/-- The bytes that a frame takes at its egress, which the gates judge (R325). -/
def egressLen (s : State) (p : Nat) (x : QFrame) : Nat := frameLen (egressForm s p x)

/-- The queue that a port sends from: the highest whose gate is open and whose head frame fits. -/
def pickQueue (s : State) (p : Nat) (sp : Speed) : Option (Nat × QFrame) :=
  [7, 6, 5, 4, 3, 2, 1, 0].findSome? (fun q =>
    match (s.port p).queues.get [] q with
    | [] => none
    | x :: _ =>
      if pausedQ s p q ∨ pausedFrame s p x.f ∨ ¬ gateFits s p q (startNs s p) (egressLen s p x) sp then none else some (q, x))

def popQueue (s : State) (p q : Nat) : State :=
  let pt := s.port p
  s.setPort p { pt with queues := pt.queues.set q (pt.queues.get [] q).tail }

/-- A ring break lets a frame pass: a gPTP message, or one whose VLAN has its ring flag (R318). -/
def breakPasses (s : State) (f : Frame) : Bool :=
  f.etype == etPtp || (match vlanOf s (frameVid f) with | some w => vlanRing w | none => false)

/-- A port that has become a ring break sends nothing else that is still queued: it is discarded (R318; DESIGN CHOICE, log 52). -/
def dropBreak (s : State) (p : Nat) : State :=
  if ¬ s.flag (F.NET_PCFG_rbrk p) then s
  else
    let qs := (s.port p).queues.entries
    let gone := (qs.flatMap (fun e => e.2)).filter (fun x => !breakPasses s x.f)
    let keep : Tab (List QFrame) := qs.foldl (fun t e => t.set e.1 (e.2.filter (fun x => breakPasses s x.f))) Tab.empty
    gone.foldl release (s.setPort p { s.port p with queues := keep })

/-- Head frames that fit no window of their queue are discarded (R325). -/
def dropUnfit (s : State) (p : Nat) (sp : Speed) : State :=
  (List.range 8).foldl (fun s q =>
    match (s.port p).queues.get [] q with
    | [] => s
    | x :: _ => if gateNever s p q (egressLen s p x) sp then
        ((release (popQueue s p q) x).fincSat (F.NET_QDROP_gate p)).fput F.NET_EV_qdrop 1 else s) s

/-- ADDRESS_AGEING (R315). -/
def execAddressAgeing (s : State) : Out :=
  let age := s.fget F.NET_CTL_age * 1000000
  .next { s with net := { s.net with macs := s.net.macs.filter (fun e => decide (s.now < e.seen + age)) } }

/-- GATE_CYCLE_START (R325): a cycle start falls into this microtick; a committed list whose cycle time divides it
too is taken up. -/
def execGateCycleStart (port : Fin 5) (s : State) : Out :=
  let p := port.val
  let pt := s.port p
  let t0 := s.asTime s.now
  let nextMult (c : Nat) : Int := (t0 + (c : Int) - 1) / (c : Int) * (c : Int)
  let due (c : Nat) : Bool := c != 0 && decide (nextMult c < t0 + 1000)
  let running := gateCycle (gatesOf s p)
  match pt.commit with
  | some l =>
    let c := gateCycle l
    let at_ := nextMult c
    if due c ∧ (running = 0 ∨ at_ % (running : Int) = 0) then
      .next ((s.setPort p { pt with gates := l, commit := none, gateAt := at_.toNat }).fput (F.NET_GCFG_pend p) 0)
    else if due running then .next (s.setPort p { pt with gateAt := (nextMult running).toNat })
    else .next s
  | none => if due running then .next (s.setPort p { pt with gateAt := (nextMult running).toNat }) else .next s

/-- NET_GCFG with `commit` (R325): `none` where the cycle time is out of range. -/
def gateCommit (s : State) (p last : Nat) : Option State :=
  let pt := s.port p
  let l := (List.range (last + 1)).map (fun i => pt.pending.get ⟨0xFF, 0x10⟩ i)
  let c := gateCycle l
  if c < 1024 ∨ 1000000000 < c then none
  else some ((s.setPort p { pt with commit := some l }).fput (F.NET_GCFG_pend p) 1)

/-- FORWARDING_ENABLE by the module itself at the end of STARTUP, and any write of 1 (R314). -/
def forwardOn (s : State) : State := s.fput F.NET_CTL_fwd 1

end Sys2Proof.Machine
end

