-- ==== Sys2Proof/Machine/Ptp.lean ====
section
/-! DEFINITION. The time-aware bridge (R326 to R328) and the receipt of frames (R311 to R319). Message layouts are
those of IEEE 802.1AS, which the spec names (PRESUMED, log 31). -/

namespace Sys2Proof.Machine

/-! ### Identity, vectors and roles (R326) -/

/-- The clock identity: the MAC address with 0xFFFE in the middle. -/
def ownClock (s : State) : BitVec 64 :=
  let m := macBytes (ownMac s)
  BitVec.ofNat 64 (beNat (m.take 3 ++ [0xFF, 0xFE] ++ m.drop 3))

/-- The module's own vector; the variance is open. -/
def ownVec (s : State) : GmVec :=
  { pri1 := if s.flag F.NET_TCFG_gmc then s.fget F.NET_TCFG_pri1 else 255
    cls := 248, acc := 0xFE, var := Config.netChoice 0 % 65536, pri2 := s.fget F.NET_TCFG_pri2
    gid := ownClock s, steps := 0, port := 0 }

def GmVec.key (v : GmVec) : List Nat :=
  [v.pri1, v.cls, v.acc, v.var, v.pri2, v.gid.toNat, v.steps, v.port.toNat]

/-- Lexicographic order: the first is better. -/
def lexLess : List Nat → List Nat → Bool
  | a :: l, b :: m => if a < b then true else if b < a then false else lexLess l m
  | _, _ => false

/-- Sync interval in ns (NET_TCFG.lsi, signed from -5 to 0). -/
def syncNs (s : State) : Nat := 1000000000 / 2 ^ ((16 - s.fget F.NET_TCFG_lsi) % 16)

/-- The announce interval: the default of the standard, 1 s (PRESUMED, log 31). -/
def announceUs : Nat := 1000000

/-- The port in the slave role. -/
def slavePort (s : State) : Option Nat := allPorts.find? (fun p => (s.port p).role == 2)

/-- Set the result of R327; losing it is a loss of sync for the hub (R109). -/
def setSync (s : State) (b : Bool) : State :=
  if s.flag F.NET_TSTAT_sync == b then s
  else
    let s := (s.fbool F.NET_TSTAT_sync b).fput F.NET_EV_sync 1
    if ¬ b ∧ s.mode = .run ∧ s.fget F.PRS_SYNC_src = 2 then loseSync s 1 else s

/-- Whether the system is synchronised now (R327). -/
def isSynced (s : State) : Bool :=
  if s.flag F.NET_TSTAT_gm then true
  else
    match slavePort s with
    | none => false
    | some p =>
      let pt := s.port p
      decide (16 ≤ pt.offsets.length) && (pt.offsets.take 16).all (fun o => decide (o.natAbs ≤ 500))
        && (match pt.syncAt.head? with
            | some t => decide (s.now * 1000 < t + 3 * syncNs s)
            | none => false)

/-- Put a port's role in place and show it. -/
def setRole (s : State) (p r : Nat) : State :=
  let pt := s.port p
  (s.setPort p { pt with role := r, slaveAt := if r = 2 ∧ pt.role ≠ 2 then s.now else pt.slaveAt }).fput (F.NET_PSTAT_role p) r

/-- A port's identity: the clock identity and the port number. -/
def portIdentity (s : State) (p : Nat) : BitVec 80 := ownClock s ++ BitVec.ofNat 16 (p + 1)

/-- The best master clock algorithm (R326, R327): a port that is not asCapable is disabled, and a change of grandmaster ends
synchronisation. A port that hears a path no worse than the one it would announce itself, with its own port identity, is
passive. -/
def selectMaster (s : State) : State :=
  let own := ownVec s
  let heard := allPorts.filterMap (fun p => (s.port p).best.map (fun v => (p, { v with steps := v.steps + 1 })))
  let best := heard.foldl (fun (b : Option (Nat × GmVec)) x =>
    match b with
    | none => some x
    | some y => if lexLess x.2.key y.2.key then some x else b) none
  let win := match best with
    | some x => if lexLess x.2.key own.key then some x else none
    | none => none
  let gid := match win with
    | some x => x.2.gid
    | none => own.gid
  let gm := win.isNone && s.flag F.NET_TCFG_gmc
  let s := allPorts.foldl (fun s p =>
    let pt := s.port p
    if pt.link.isNone ∨ ¬ s.flag (F.NET_PSTAT_ascap p) then setRole s p 0
    else
      match win with
      | none => setRole s p 1
      | some x =>
        if x.1 = p then setRole s p 2
        else
          match pt.best with
          | some v => setRole s p (if lexLess { x.2 with port := portIdentity s p }.key v.key then 1 else 3)
          | none => setRole s p 1) s
  let changed := gid ≠ s.net.gmId
  let s := { s with net := { s.net with gmId := gid } }
  let s := if changed then allPorts.foldl (fun s p => s.setPort p { s.port p with offsets := [], pendSync := none }) s else s
  let s := s.fbool F.NET_TSTAT_gm gm
  let s := s.fput F.NET_TSTAT_sport (match win with | some x => x.1 + 1 | none => 0)
  setSync s (isSynced s)

/-! ### Messages -/

/-- The common header of a message. -/
def ptpHead (s : State) (typ len p seq logInt flags : Nat) : List Byte :=
  [BitVec.ofNat 8 (0x10 + typ), 0x12] ++ beBytes 2 len ++ [BitVec.ofNat 8 (s.fget F.NET_TCFG_dom), 0] ++ beBytes 2 flags
    ++ List.replicate 12 0 ++ beBytes 8 (ownClock s).toNat ++ beBytes 2 (p + 1) ++ beBytes 2 seq
    ++ [0, BitVec.ofNat 8 logInt]

/-- A time in ns as seconds and nanoseconds. -/
def ptpTime (ns : Int) : List Byte := beBytes 6 (ns / 1000000000).toNat ++ beBytes 4 (ns % 1000000000).toNat

/-- Read such a time. -/
def timeAt (l : List Byte) (a : Nat) : Int := (be l a 6 : Int) * 1000000000 + be l (a + 6) 4

/-- A gPTP message always uses queue 7 (R319). -/
def sendPtp (s : State) (p : Nat) (body : List Byte) : State :=
  enqueue s p 7 (padded (Frame.mk macPtp (ownMac s) none none etPtp body true)) fromSwitch 7 false

/-- A timestamp taken at the PHY for a frame that starts at an own time, with an error of at most 8 ns (R326). -/
def phyStamp (s : State) (t : Nat) : Nat × State :=
  let d := s.draw
  (t + d.1.toNat % 17 - 8, d.2)

/-- The path trace that the module announces: that of the slave port's Announce with the own identity after it. -/
def pathTrace (s : State) : List (BitVec 64) :=
  (match slavePort s with | some p => (s.port p).path | none => []) ++ [ownClock s]

/-- The body of an Announce: the grandmaster in force, without its time-of-day fields, and the path trace. -/
def announceBody (s : State) (v : GmVec) : List Byte :=
  let path := pathTrace s
  List.replicate 13 0 ++ beBytes 1 v.pri1 ++ beBytes 1 v.cls ++ beBytes 1 v.acc ++ beBytes 2 v.var ++ beBytes 1 v.pri2
    ++ beBytes 8 v.gid.toNat ++ beBytes 2 v.steps ++ beBytes 1 0xA0 ++ beBytes 2 8 ++ beBytes 2 (8 * path.length)
    ++ path.flatMap (fun x => beBytes 8 x.toNat)

/-- The vector that the module announces: that of the slave port, or its own. -/
def announced (s : State) : GmVec :=
  match slavePort s with
  | some p => (match (s.port p).best with | some v => { v with steps := v.steps + 1 } | none => ownVec s)
  | none => ownVec s

/-- A message of a kind is due: none sent yet, or its interval has passed. -/
def dueAt (s : State) (last : Option Nat) (us : Nat) : Bool :=
  match last with
  | none => true
  | some t => decide (t + us ≤ s.now)

/-- The Follow_Up information of 802.1AS: the rate offset to the grandmaster is 0 for the grandmaster itself and open else. -/
def followTlv (s : State) : List Byte × State :=
  let d := s.draw
  let rate := if s.flag F.NET_TSTAT_gm then 0 else d.1.toNat % 2 ^ 32
  (beBytes 2 3 ++ beBytes 2 28 ++ [0x00, 0x80, 0xC2, 0x00, 0x00, 0x01] ++ beBytes 4 rate ++ List.replicate 18 0, d.2)

/-- The sync interval as a message holds it. -/
def lsiByte (s : State) : Nat :=
  let lsi := s.fget F.NET_TCFG_lsi
  if 8 ≤ lsi then lsi + 240 else lsi

/-- Sync from a master port; its Follow_Up goes out once the Sync has left. -/
def sendSync (s : State) (p : Nat) : State :=
  let pt := s.port p
  let s := s.setPort p { pt with syncSeq := (pt.syncSeq + 1) % 65536, txSync := some s.now }
  sendPtp s p (ptpHead s 0 44 p pt.syncSeq (lsiByte s) 0x0200 ++ List.replicate 10 0)

/-- An event message of the module has left with its timestamp (R326): the Follow_Up of a Sync and of a Pdelay_Resp goes out, and the
departure of a Pdelay_Req is noted. -/
def ptpSent (s : State) (p : Nat) (l : List Byte) (t : Nat) : State :=
  let seq := be l 30 2
  match bits (be l 0 1) 3 0 with
  | 0 =>
    let f := followTlv s
    sendPtp f.2 p (ptpHead f.2 8 76 p seq (lsiByte s) 0 ++ ptpTime ((t : Int) + s.net.asOff) ++ f.1)
  | 2 => s.setPort p { s.port p with pdReqAt := (s.port p).pdReqAt.map (fun x => if x.1 = seq then (seq, t) else x) }
  | 3 => sendPtp s p (ptpHead s 10 54 p seq 0x7F 0 ++ ptpTime t ++ slice l 44 10)
  | _ => s

/-- asCapable of a port (R326). A port that loses it keeps no master's Announce. -/
def setAscap (s : State) (p : Nat) (b : Bool) : State :=
  if s.flag (F.NET_PSTAT_ascap p) = b then s
  else
    let s := s.fbool (F.NET_PSTAT_ascap p) b
    selectMaster (if b then s else s.setPort p { s.port p with best := none, path := [], syncAt := [], offsets := [], pendSync := none })

/-- More lost Pdelay responses than this end asCapable: the default of the standard (PRESUMED, log 31). -/
def allowedLost : Nat := 9

/-- GPTP_SYNC_INTERVAL (R326): the port sends what is due; Sync and Announce only where it is asCapable. -/
def execGptpSyncInterval (port : Fin 5) (s : State) : Out :=
  let p := port.val
  let pt := s.port p
  if pt.link.isNone ∨ s.mode = .reset then .next s
  else
    let master := pt.role == 1 && s.flag (F.NET_PSTAT_ascap p)
    let s := if master && dueAt s pt.txSync (syncNs s / 1000) then sendSync s p else s
    let s : State := if master && dueAt s pt.txAnn announceUs then
        let seq := (s.port p).annSeq
        let s := s.setPort p { s.port p with txAnn := some s.now, annSeq := (seq + 1) % 65536 }
        sendPtp s p (ptpHead s 11 (68 + 8 * (pathTrace s).length) p seq 0 0 ++ announceBody s (announced s))
      else s
    let last := match pt.pdReqAt with | some x => some (x.2 / 1000) | none => none
    if dueAt s last 1000000 then
      let seq := match pt.pdReqAt with | some x => (x.1 + 1) % 65536 | none => 0
      let lost := (s.port p).pdLost
      let s := if allowedLost < lost then setAscap s p false else s
      let s := s.setPort p { s.port p with pdReqAt := some (seq, s.now * 1000), pdResp := none, pdLost := lost + 1 }
      .next (sendPtp s p (ptpHead s 2 54 p seq 0 0 ++ List.replicate 20 0))
    else .next s

/-- Answer a Pdelay_Req; the Follow_Up goes out once the answer has left. -/
def answerPdelay (s : State) (p : Nat) (l : List Byte) (rx : Nat) : State :=
  sendPtp s p (ptpHead s 3 54 p (be l 30 2) 0x7F 0x0200 ++ ptpTime rx ++ slice l 20 10)

/-- The peer delay of a completed exchange (R326): asCapable at no more than 800 ns. -/
def takePdelay (s : State) (p : Nat) (l : List Byte) : State :=
  let pt := s.port p
  match pt.pdReqAt, pt.pdResp with
  | some (q, t1), some (q', t2, t4) =>
    if q = q' ∧ q = be l 30 2 then
      let d : Int := (((t4 : Int) - t1) - (timeAt l 34 - t2)) / 2
      let s := s.setPort p { pt with pdResp := none, pdLost := 0 }
      let s := s.fput (F.NET_PSTAT_pdly p) (min 65535 d.toNat)
      setAscap s p (decide (0 ≤ d ∧ d ≤ 800))
    else s
  | _, _ => s

/-- How far the clock follows an offset estimate at once: towards the master, by an open share of it (DESIGN CHOICE, log 52). -/
def followed (o : Int) (d : BitVec 64) : Int :=
  let n : Int := d.toNat % (o.natAbs + 1)
  if 0 ≤ o then n else -n

/-- An offset estimate from a Sync (R326, R327): the clock follows the master. -/
def takeOffset (s : State) (p : Nat) (arrival : Nat) (origin corr : Int) : State :=
  let o := ((arrival : Int) + s.net.asOff) - (origin + corr + s.fget (F.NET_PSTAT_pdly p))
  let pt := s.port p
  let s := s.setPort p { pt with offsets := (o :: pt.offsets).take 16, pendSync := none }
  let s := s.fput F.NET_TSTAT_offs (unsign 16 (satSigned 16 o))
  let d := s.draw
  let s := { d.2 with net := { d.2.net with asOff := d.2.net.asOff - followed o d.1 } }
  setSync s (isSynced s)

/-- The correction field, in ns. -/
def corrOf (l : List Byte) : Int := signed 64 (be l 8 8) / 65536

/-- A received gPTP message (R326, R327). -/
def ptpReceived (s : State) (p : Nat) (f : Frame) (rx : Nat) : State :=
  let l := f.payload
  let typ := bits (be l 0 1) 3 0
  let pt := s.port p
  if be l 4 1 ≠ s.fget F.NET_TCFG_dom ∨ bits (be l 0 1) 7 4 ≠ 1 then s
  else
    match typ with
    | 2 => answerPdelay s p l rx
    | 3 => if slice l 44 8 = beBytes 8 (ownClock s).toNat then
             s.setPort p { pt with pdResp := some (be l 30 2, (timeAt l 34).toNat, rx) } else s
    | 10 => if slice l 44 8 = beBytes 8 (ownClock s).toNat then takePdelay s p l else s
    | 11 =>
      let v : GmVec := { pri1 := be l 47 1, cls := be l 48 1, acc := be l 49 1, var := be l 50 2, pri2 := be l 52 1
                         gid := BitVec.ofNat 64 (be l 53 8), steps := be l 61 2, port := BitVec.ofNat 80 (be l 20 10) }
      let path : List (BitVec 64) := if be l 64 2 = 8 then
          (List.range (be l 66 2 / 8)).map (fun i => BitVec.ofNat 64 (be l (68 + 8 * i) 8)) else []
      if v.gid = ownClock s ∨ 255 ≤ v.steps ∨ path.contains (ownClock s) ∨ ¬ s.flag (F.NET_PSTAT_ascap p) then s
      else selectMaster (s.setPort p { pt with best := some v, path := path, annAt := s.now })
    | 0 =>
      if pt.role ≠ 2 ∨ ¬ s.flag (F.NET_PSTAT_ascap p) then s
      else
        let s := s.setPort p { pt with syncAt := (rx :: pt.syncAt).take 4 }
        if bitAt (be l 6 1) 1 then s.setPort p { s.port p with pendSync := some (be l 30 2, rx) }
        else takeOffset s p rx (timeAt l 34) (corrOf l)
    | 8 =>
      match pt.pendSync with
      | some (q, t) => if pt.role = 2 ∧ s.flag (F.NET_PSTAT_ascap p) ∧ q = be l 30 2 then takeOffset s p t (timeAt l 34) (corrOf l) else s
      | none => s
    | _ => s

/-- A port's master is lost: what it announced is aged, and the best master clock algorithm runs again (R326). -/
def ageMaster (s : State) (p : Nat) : State := selectMaster (s.setPort p { s.port p with best := none, path := [] })

/-- No Sync has come on a port for three sync intervals, counted also from where it became the slave port. -/
def syncLate (s : State) (pt : Port) : Bool :=
  decide (max (pt.syncAt.headD 0) (pt.slaveAt * 1000) + 3 * syncNs s ≤ s.now * 1000)

/-- A master's Syncs are waited for where it names a grandmaster: one with a priority1 below 255 (PRESUMED, log 31). -/
def gmPresent (pt : Port) : Bool :=
  match pt.best with
  | some v => decide (v.pri1 < 255)
  | none => false

/-- SYNC_RECEIPT_TIMEOUT (R326, R327): three sync intervals without a Sync on the slave port end synchronisation and age the
master. -/
def execSyncReceiptTimeout (port : Fin 5) (s : State) : Out :=
  let pt := s.port port
  if pt.role = 2 ∧ syncLate s pt then
    let s := setSync s false
    .next (if gmPresent pt then ageMaster s port else s)
  else .next s

/-- ANNOUNCE_RECEIPT_TIMEOUT (R326): three intervals without an Announce. -/
def execAnnounceReceiptTimeout (port : Fin 5) (s : State) : Out :=
  let pt := s.port port
  if pt.best.isSome ∧ pt.annAt + 3 * announceUs ≤ s.now then
    .next (ageMaster s port)
  else .next s

/-! ### Receipt (R311, R315, R317, R318) -/

/-- A frame as the bridge classifies it: tagged with the port's VID and priority where it has none (R317). -/
def classify (s : State) (p : Nat) (f : Frame) : Frame :=
  match f.tci with
  | some t =>
    if bits t.toNat 11 0 ≠ 0 then f
    else { f with tci := some (BitVec.ofNat 16 (s.fget (F.NET_PCFG_pcp p) * 8192 + s.fget (F.NET_PCFG_pvid p))) }
  | none => { f with tci := some (BitVec.ofNat 16 (s.fget (F.NET_PCFG_pcp p) * 8192 + s.fget (F.NET_PCFG_pvid p))) }

/-- Forward a classified frame, and deliver what is for the module. -/
def bridge (s : State) (p : Nat) (sp : Speed) (f : Frame) (w : Word) : State :=
  let s := if f.fcsOk then learn s p (frameVid f) f.src else s
  if f.dst = ownMac s then
    if ¬ f.fcsOk then s
    else if f.etype = etArp ∨ (f.etype = etIp6 ∧ be f.payload 6 1 = 58) then
      let t := addressProtocol s p f
      { t with net := { t.net with toPc := t.net.toPc ++ [f] } }
    else toModule s f
  else
    let s := if f.fcsOk ∧ multicast f.dst then addressProtocol s p f else s
    ((destPorts s (frameVid f) f.dst w).filter (fun q => q != p && portSends s q w)).foldl (fun s q => forwardTo s p (some sp) f q) s

/-- FRAME_RECEIVED (R311): `rxNs` is the arrival on the module's own clock. A ring break accepts gPTP messages and ring frames only
(R318); a gPTP message to the module's own address goes to the time engine too (R315). -/
def execFrameReceived (port : Fin 5) (f : Frame) (rxNs : Nat) (s : State) : Out :=
  let p := port.val
  let bad (s : State) : State := s.fincSat (F.NET_ERR_rxe p)
  match (s.port p).link with
  | none => .next s
  | some sp =>
    if s.mode = .reset ∨ ¬ s.flag (F.NET_PCFG_en p) then .next s
    else if frameLen f < 64 ∨ maxFrame s p < frameLen f then .next (bad s)
    else if ¬ f.fcsOk ∧ ¬ s.flag F.NET_CTL_fwd then .next (bad s)
    else if f.etype = etPause ∧ f.fcsOk then
      .next (if s.flag (F.NET_PCFG_rbrk p) then s else pauseReceived (s.finc (F.NET_RXF_cnt p)) p f sp)
    else if f.etype = etPtp ∧ (f.dst = macPtp ∨ f.dst = ownMac s) then
      if f.fcsOk then .next (ptpReceived (s.finc (F.NET_RXF_cnt p)) p f rxNs) else .next (bad s)
    else
      let g := classify s p f
      match vlanOf s (frameVid g) with
      | none => .next (bad s)
      | some w =>
        if ¬ vlanMember w p then .next (bad s)
        else
          let shut := s.flag (F.NET_PCFG_rbrk p) && !vlanRing w
          let s := if ¬ f.fcsOk then bad s else if shut then s else s.finc (F.NET_RXF_cnt p)
          if ¬ s.flag F.NET_CTL_fwd ∨ shut then .next s
          else .next (bridge s p sp g w)

/-! ### Egress (R319, R320, R325) -/

/-- EGRESS_TRANSMIT (R319, R320, R325). A gPTP message gets its timestamp as it starts (R326). -/
def execEgressTransmit (port : Fin 5) (s : State) : Out :=
  let p := port.val
  match (s.port p).link with
  | none => .next s
  | some sp =>
    let s := dropUnfit (dropBreak s p) p sp
    if (s.now + 1) * 1000 ≤ (s.port p).busyTo ∨ ¬ s.flag (F.NET_PCFG_en p) then .next s
    else
      match pickQueue s p sp with
      | none => .next s
      | some (q, x) =>
        let t := startNs s p
        let s := release (popQueue s p q) x
        let s := s.setPort p { s.port p with busyTo := t + wireNs sp (egressLen s p x), lastTx := some (egressForm s p x) }
        let s := s.finc (F.NET_TXF_cnt p)
        let s := if x.f.etype = etPtp ∧ x.ingress = fromSwitch then
            let e := phyStamp s t
            ptpSent e.2 p x.f.payload e.1
          else s
        .next (if x.f.fcsOk then s else s.fincSat (F.NET_ERR_cte p))

/-! ### Links (R310, R312, R331) -/

/-- A speed that a port may link at: its advertised speeds, or PH's mode (R310, NET_PCFG). -/
def speedOk (s : State) (p : Nat) (sp : Speed) : Bool :=
  if p = 4 then
    match s.fget (F.NET_PCFG_phm p), sp with
    | 0, .g2500 => true
    | 1, .m1000 => true
    | 2, .m100 => true
    | _, _ => false
  else bitAt (s.fget (F.NET_PCFG_spd p)) (match sp with | .g2500 => 2 | .m1000 => 1 | .m100 => 0)

/-- The queued frames of a port are discarded (R312). -/
def flushPort (s : State) (p : Nat) : State :=
  let l := (s.port p).queues.entries.flatMap (fun e => e.2)
  let s := l.foldl release s
  let s := s.faddSat (F.NET_QDROP_tail p) l.length
  let s := if l = [] then s else s.fput F.NET_EV_qdrop 1
  s.setPort p { s.port p with queues := Tab.empty, busyTo := 0, pauseTo := Tab.empty }

/-- LINK_CHANGE (R312). -/
def execLinkChange (port : Fin 5) (up : Option Speed) (s : State) : Out :=
  let p := port.val
  match up with
  | some sp =>
    if s.mode = .reset ∨ ¬ s.flag (F.NET_PCFG_en p) ∨ ¬ speedOk s p sp ∨ (s.port p).link = some sp then .next s
    else
      let was := (s.port p).link.isSome
      let s := s.setPort p { s.port p with link := some sp }
      let s := (s.fput (F.NET_PSTAT_link p) 1).fput (F.NET_PSTAT_speed p) (speedCode sp)
      .next (selectMaster (if was then s else linkEvent s p))
  | none =>
    if (s.port p).link.isNone then .next s
    else
      let s := flushPort s p
      let s := s.setPort p { s.port p with link := none, best := none, path := [], pdReqAt := none, pdLost := 0, pdResp := none, syncAt := [],
                                             offsets := [], pendSync := none }
      let s := ((((s.fput (F.NET_PSTAT_link p) 0).fput (F.NET_PSTAT_speed p) 0).fput (F.NET_PSTAT_ascap p) 0).fput
        (F.NET_PSTAT_pq p) 0).fput (F.NET_PSTAT_pdly p) 0
      .next (selectMaster (linkEvent s p))

end Sys2Proof.Machine
end

