-- ==== Sys2Proof/Machine/Sessions.lean ====
section
/-! DEFINITION. The session engine (R272 to R307): telegrams, virtual sequence, acceptance, states, and the
measurement stream's frames (R333 to R337). -/

namespace Sys2Proof.Machine

/-! ### Telegrams (R276 to R283) -/

/-- Version and flags (R277). -/
def vfWord (len : Nat) (ret opn fs : Bool) : Nat :=
  0x2000 + len * 256 + b2n ret * 8 + b2n opn * 4 + b2n fs * 2

/-- The fields of a telegram before its check values. -/
def teleHead (vf cid seq ts echo : Nat) : List Byte :=
  beBytes 2 vf ++ beBytes 4 cid ++ beBytes 2 seq ++ beBytes 4 ts ++ beBytes 4 echo

/-- The check block (R281). -/
def checkBlock (v cid : Nat) (body : List Byte) : List Byte := beBytes 4 v ++ beBytes 4 cid ++ body

/-- A whole telegram: every field and `c32` from Lane A's copy, `c16` from Lane B's copy of the check block (R283); each copy is its
virtual sequence, its connection ID and its body. -/
def buildTele (a b : Nat × Nat × List Byte) : List Byte :=
  a.2.2 ++ beBytes 4 (crc32c (checkBlock a.1 a.2.1 a.2.2)).toNat ++ beBytes 2 (crc16 (checkBlock b.1 b.2.1 b.2.2)).toNat

/-- Payload bytes of bits, bit i in bit i mod 8 of byte i div 8 (R129). -/
def bitsBytes (n : Nat) (l : List Bool) : List Byte :=
  (List.range n).map (fun k => BitVec.ofNat 8 ((List.range 8).foldl (fun a i => a + b2n (l.getD (8 * k + i) false) * 2 ^ i) 0))

def bytesBits (l : List Byte) : List Bool := l.flatMap (fun b => (List.range 8).map (fun i => b.getLsbD i))

/-! ### Changes of state (R293, R294) -/

/-- SESOUT `ok` takes a value at a microtick, by a window that closes then or not (R289, R294). -/
def setOk (s : State) (i at_ : Nat) (close v : Bool) : State :=
  s.halves i (fun h => { h with oks := (at_, close, v) :: keepRecent (s.now - 1000) h.oks })

/-- A producer leaves RUN: `ok` falls (R289, R294). -/
def okFalls (s : State) (i at_ : Nat) (close : Bool) : State :=
  if (s.sess i).ha.st = .run then setOk s i at_ close false else s

/-- Consumed bits as decided at a microtick, by each half. -/
def putConsumed (s : State) (i at_ : Nat) (b : SesHalf → SesBits) : State :=
  s.halves i (fun h => { h with bits := (at_, b h) :: keepRecent (s.now - 1000) h.bits })

/-- Consumed bits take their safe values with valid 0 (R207, R296). -/
def bitsSafe (s : State) (i at_ : Nat) (close : Bool) : State := putConsumed s i at_ (fun _ => ⟨close, false, none, []⟩)

/-- A half enters OPENING (R284, R287). -/
def SesHalf.toOpen (h : SesHalf) : SesHalf :=
  { h with st := .opening, vSent := 0, base := false, hasTs := false, win := none, sentOpn := [] }

/-- Entry to OPENING (R284, R287, R293, R294). -/
def toOpening (s : State) (i : Nat) : State :=
  ((okFalls s i s.now false).halves i SesHalf.toOpen).fincSat (F.SES_STAT_opens i)

/-- A session fault that takes the session to FAILED (R292, R293); `close` where a window ends in it. -/
def toFailed (s : State) (i code at_ : Nat) (close : Bool) : State :=
  let s := (okFalls s i at_ close).halves i (SesHalf.fail s.now)
  sessFault (if s.fget (F.SES_CFG_role i) = 2 then bitsSafe s i at_ close else s) i code at_

/-- Entry to RUN (R306, R307, R484). -/
def toRun (s : State) (i : Nat) : State :=
  let s := s.halves i (fun h => { h with st := .run, runAt := some s.now })
  let s := s.setSess i { s.sess i with fault := false }
  let s := if s.fget (F.SES_CFG_role i) = 1 then setOk s i s.now false true else s
  let s := ((s.rput (R.SES_RTS i) s.stamp).fput (F.SES_EV_run i) 1).fput (F.SES_AGE_max i) 0
  report s 6 [2, i, s.fget (F.SES_STAT_fcode i), s.now]

def toHold (s : State) (i : Nat) : State := s.halves i (fun h => { h with st := .hold })

/-- The age of an echo at a stamp (R289, R290). -/
def ageOf (x e : Stamp) : Nat := (x - e).toNat

/-- The window of a session has closed: its end (R99). -/
def winEnded (h : SesHalf) (lim now : Nat) : Option Nat :=
  match h.win with
  | some w => if w + lim ≤ now then some (w + lim) else none
  | none => none

/-- CONSUMER_WATCHDOG (R288): the window [r, r + wdog) has closed. -/
def watchdogClose (s : State) (i lim : Nat) : State :=
  let h := (s.sess i).ha
  match winEnded h lim s.now with
  | some t => if h.st = .run ∨ h.st = .hold then toFailed s i 1 t true else s
  | none => s

/-- ECHO_AGE_WINDOW (R289, R294). -/
def echoClose (s : State) (i lim : Nat) : State :=
  let h := (s.sess i).ha
  match winEnded h lim s.now with
  | some t => if h.st = .run then sessFault (toHold (okFalls s i t true) i) i 5 t else s
  | none => s

/-- The session's window closes before anything else with the same stamp (R297). -/
def closeWindow (s : State) (x : SesNet) : State :=
  if s.mode ≠ .run then s else if x.role = 2 then watchdogClose s x.sid x.lim else echoClose s x.sid x.lim

def execConsumerWatchdog (sid : Fin 160) (s : State) : Out :=
  match sesCfgOf s sid with
  | some x => if x.role = 2 then .next (closeWindow s x) else .next s
  | none => .next s

def execEchoAgeWindow (sid : Fin 160) (s : State) : Out :=
  match sesCfgOf s sid with
  | some x => if x.role = 1 then .next (closeWindow s x) else .next s
  | none => .next s

/-- FAILED_DWELL_END (R293, R295). -/
def execFailedDwellEnd (sid : Fin 160) (s : State) : Out :=
  let h := (s.sess sid).ha
  if s.mode = .run ∧ h.st = .failed ∧ h.failAt + 1000000 ≤ s.now then .next (toOpening s sid) else .next s

/-! ### Acceptance (R285, R290 to R292) -/

/-- A received telegram taken apart. -/
structure Tele where
  raw  : List Byte
  vf   : Nat
  seq  : Nat
  ts   : Stamp
  echo : Stamp
  len  : Nat
  ret  : Bool
  opn  : Bool
  fs   : Bool

def readTele (l : List Byte) : Tele :=
  let vf := be l 0 2
  { raw := l, vf := vf, seq := be l 6 2, ts := BitVec.ofNat 32 (be l 8 4), echo := BitVec.ofNat 32 (be l 12 4)
    len := bits vf 12 8, ret := bitAt vf 3, opn := bitAt vf 2, fs := bitAt vf 1 }

/-- Step 1 of R291. -/
def formatOk (x : SesNet) (t : Tele) : Bool :=
  t.raw.length == 22 + t.len && bits t.vf 15 13 == 1 && t.len == (if t.ret then 0 else x.plen)
    && bits t.vf 7 4 == 0 && !bitAt t.vf 0 && (!t.fs || !t.ret)

/-- Reconstruction of the virtual sequence (R285): `none` is stale. -/
def virtualSeq (vLast : Word) (t : Tele) : Option Nat :=
  if t.opn then some t.seq
  else
    let d := (t.seq + 65536 - vLast.toNat % 65536) % 65536
    if 1 ≤ d ∧ d ≤ 32767 then some ((vLast.toNat + d) % 2 ^ 32) else none

def c32Ok (x : SesNet) (v : Nat) (t : Tele) : Bool :=
  be t.raw (16 + t.len) 4 == (crc32c (checkBlock v x.cid (t.raw.take (16 + t.len)))).toNat

def c16Ok (x : SesNet) (v : Nat) (t : Tele) : Bool :=
  be t.raw (20 + t.len) 2 == (crc16 (checkBlock v x.cid (t.raw.take (16 + t.len)))).toNat

/-- The freshness test of R290, by one half. -/
def echoFresh (h : SesHalf) (x : SesNet) (now : Stamp) (t : Tele) : Bool :=
  let young := decide (ageOf now t.echo < x.lim)
  if x.role = 2 then young && (h.st != .opening || h.sentOpn.any (fun e => BitVec.ofNat 32 e == t.echo))
  else (h.st == .opening && t.opn) || young

/-- The check value that a half checks: `c32` in Lane A, `c16` in Lane B (R283). -/
def ownCheck (l : Lane) (x : SesNet) (v : Nat) (t : Tele) : Bool :=
  match l with
  | .a => c32Ok x v t
  | .b => c16Ok x v t

/-- How one half takes a telegram through the steps (R291): the step that fails, or acceptance with its virtual sequence. -/
inductive Verdict where
  | format | stale | check | early | reopened | old | accept (v : Nat)
  deriving DecidableEq, Repr

/-- The steps of R291 in one half, on its own state, with its own check value (R283). -/
def judgeTele (l : Lane) (h : SesHalf) (x : SesNet) (now : Stamp) (t : Tele) : Verdict :=
  let fresh := echoFresh h x now t
  if ¬ formatOk x t then .format
  else match virtualSeq h.vLast t with
    | none => .stale
    | some v =>
      if ¬ ownCheck l x v t then .check
      else if h.st = .opening ∧ ¬ t.opn ∧ ¬ h.base then .early
      else if (h.st = .run ∨ h.st = .hold) ∧ t.opn ∧ (x.role = 1 ∨ v ≤ h.vLast.toNat ∨ ¬ fresh) then .reopened
      else if ¬ fresh then .old
      else .accept v

/-- A rejection and its limit (R292). -/
def reject (s : State) (i : Nat) : State :=
  let opened := s.halves i (fun h => { h with rejAt := some s.now })
  match (s.sess i).ha.rejAt with
  | some j => if s.now < j + 1000000 then (if s.mode = .run then toFailed s i 2 s.now false else s) else opened
  | none => opened

/-- What every acceptance records (R291, R306). -/
def noteAccept (s : State) (x : SesNet) (t : Tele) (v : Nat) : State :=
  let i := x.sid
  let s := s.halves i (fun h => { h with vLast := BitVec.ofNat 32 v, peerTs := t.ts, hasTs := true })
  let age := min 65535 (ageOf s.stamp t.echo)
  let s := s.fput (F.SES_AGE_last i) age
  let s := if (s.sess i).ha.runAt.isSome then s.fpeak (F.SES_AGE_max i) age else s
  ((s.finc (F.SES_ACC_cnt i)).fbool (F.SES_STAT_pfs i) t.fs).fbool (F.SES_STAT_popn i) t.opn

/-- The latest echo moves forward only (R288, R289, R297); an echo is held as a microtick of the own count. -/
def takeEcho (s : State) (i : Nat) (e : Stamp) : State :=
  let w := s.now - ageOf s.stamp e
  s.halves i (fun h => { h with win := some (match h.win with | some o => max o w | none => w) })

/-- A session fault has the stamp of this microtick: it is taken, and accepted data are discarded (R297). -/
def faultNow (s : State) (i : Nat) : Bool := (s.sess i).fltAt == some s.now

/-- A data telegram accepted by a consumer (R293, R296). -/
def acceptData (s : State) (x : SesNet) (t : Tele) (v : Nat) : State :=
  let i := x.sid
  let s := takeEcho (noteAccept s x t v) i t.echo
  let st := (s.sess i).ha.st
  if s.mode ≠ .run then s
  else if t.fs then
    let s := bitsSafe s i s.now false
    if st = .run then sessFault (toHold s i) i 3 s.now else toHold s i
  else if faultNow s i then s
  else
    let s := if st = .run then s else toRun s i
    putConsumed s i s.now (fun h => ⟨false, true, h.runAt.map (BitVec.ofNat 64), bytesBits (slice t.raw 16 t.len)⟩)

/-- A return accepted by a producer (R294); the history goes back to the boundaries whose bits may still be sent (R286, R296). -/
def acceptReturn (s : State) (x : SesNet) (t : Tele) (v : Nat) : State :=
  let i := x.sid
  let s := noteAccept s x t v
  let from_ := (s.sess i).prod.foldl (fun t e => min t e.2.bound) (s.now - 1000)
  let s := s.halves i (fun h => { h with retHist := (s.now, t.ts) :: keepRecent from_ h.retHist })
  let st := (s.sess i).ha.st
  if st = .opening ∧ t.opn then s.halves i (fun h => { h with base := true })
  else
    let s := takeEcho s i t.echo
    if s.mode = .run ∧ st ≠ .run ∧ ¬ faultNow s i then toRun s i else s

/-- The peer has opened again (R291 step 5, R293, R294). -/
def peerReopened (s : State) (x : SesNet) : State :=
  let i := x.sid
  if s.mode ≠ .run then s
  else if x.role = 2 then sessFault (toOpening (bitsSafe s i s.now false) i) i 4 s.now
  else toOpening s i

/-- What a step that both halves decide alike does. -/
def decide1 (s : State) (x : SesNet) (t : Tele) : Verdict → State
  | .format => reject s x.sid
  | .check => reject s x.sid
  | .stale => s.fincSat (F.SES_STALE_seq x.sid)
  | .early => s.fincSat (F.SES_STALE_seq x.sid)
  | .reopened => peerReopened s x
  | .old => s.fincSat (F.SES_STALE_echo x.sid)
  | .accept v => if x.role = 2 then acceptData s x t v else acceptReturn s x t v

/-- A verdict that rejects the telegram. -/
def Verdict.rejects : Verdict → Bool
  | .format => true
  | .check => true
  | _ => false

/-- Both halves together (R291): accepted when both accept, rejected when either rejects; where their states differ otherwise, the
telegram is not accepted and the half that does not accept it decides (DESIGN CHOICE, log 53). -/
def bothVerdicts (a b : Verdict) : Verdict :=
  if a.rejects then a else if b.rejects then b
  else match a with
    | .accept _ => b
    | _ => a

/-- A matched telegram goes through the acceptance steps in both halves (R291). -/
def takeTele (s : State) (x y : SesNet) (l : List Byte) : State :=
  let s := closeWindow s x
  let i := x.sid
  let u := s.sess i
  if u.ha.st = .closed ∨ u.ha.st = .failed then s
  else
    let t := readTele l
    let a := judgeTele .a u.ha x s.stamp t
    let b := judgeTele .b u.hb.restore y s.stamp t
    let s := if a = .format ∨ b = .format then s.fincSat (F.SES_REJ_fmt i) else s
    let s := if a = .check then s.fincSat (F.SES_REJ_c32 i) else s
    let s := if b = .check then s.fincSat (F.SES_REJ_c16 i) else s
    decide1 s x t (bothVerdicts a b)

/-- TELEGRAM_RECEIVED (R291, R300): the oldest telegram of the engine's queue. -/
def execTelegramReceived (s : State) : Out :=
  match s.net.engine with
  | [] => .next s
  | (sid, l) :: rest =>
    let s := { s with net := { s.net with engine := rest } }
    if s.mode ≠ .run ∧ s.mode ≠ .safe then .next s
    else
      match sesCfgOf s sid with
      | some x => .next (takeTele s x ((sesCfgB s sid).getD x) l)
      | none => .next s

/-! ### Sending (R273, R278, R284, R286, R287, R296, R304) -/

/-- The produced bits for a send instant (R286). -/
def producedAt (s : State) (i : Nat) : Option SesProd :=
  ((s.sess i).prod.find? (fun e => decide (e.1 + 2 ≤ s.now))).map (·.2)

/-- The echo of a data telegram, by one half (R286). -/
def dataEcho (h : SesHalf) (boundary : Nat) : Nat :=
  match h.retHist.find? (fun e => decide (e.1 < boundary)) with
  | some e => e.2.toNat
  | none => 0

/-- The payload and echo of the telegram that a session sends now, from Lane A's and from Lane B's copy (R283); before the first
release the produced bits are open. -/
def telePayload (s : State) (x : SesNet) : (List Byte × Nat) × (List Byte × Nat) × State :=
  let u := s.sess x.sid
  let a := u.ha
  let b := u.hb.restore
  let back (h : SesHalf) : List Byte × Nat := ([], if h.hasTs then h.peerTs.toNat else 0)
  let zero := List.replicate x.plen (0 : Byte)
  if x.role = 2 then (back a, back b, s)
  else
    match producedAt s x.sid with
    | some p =>
      if s.mode = .safe then ((zero, dataEcho a p.bound), (zero, dataEcho b p.bound), s)
      else ((bitsBytes x.plen p.a, dataEcho a p.bound), (bitsBytes x.plen (p.b.map (!·)), dataEcho b p.bound), s)
    | none =>
      if s.mode = .safe then ((zero, dataEcho a s.now), (zero, dataEcho b s.now), s)
      else
        let d := s.draw
        let e := d.2.draw
        let l := (leBytes 8 d.1.toNat ++ leBytes 8 e.1.toNat).take x.plen
        ((l, dataEcho a s.now), (l, dataEcho b s.now), e.2)

/-- Whether a session sends in its state (R293, R294, R296); one whose halves have been found to differ sends nothing (R226). -/
def sesSends (s : State) (x : SesNet) : Bool :=
  let st := (s.sess x.sid).ha.st
  !(s.sess x.sid).split && ((s.mode == .run && st != .closed && st != .failed) || (s.mode == .safe && x.role == 1 && st != .failed))

/-- The frame of a telegram in its framing (R278, R304): `none` without a next hop. -/
def teleFrame (s : State) (x : SesNet) (tele : List Byte) : Option (Frame × State) :=
  let tci : BitVec 16 := BitVec.ofNat 16 x.tci
  let n := s.net.frerTx.get 0 x.sid
  let rtag : Option (BitVec 16) := if x.frer then some (BitVec.ofNat 16 n) else none
  let s := if x.frer then { s with net := { s.net with frerTx := s.net.frerTx.set x.sid ((n + 1) % 65536) } } else s
  let hop := hopMac s x
  let d := s.draw
  match x.xport, hop with
  | 1, some mac =>
    let src := ownIp4 s
    some (padded (Frame.mk mac (ownMac s) (some tci) rtag etIp4
      (ip4Bytes src x.peer (d.1.toNat % 65536) (udpBytes src x.peer x.port tele)) true), d.2)
  | 2, some mac =>
    let src := ownIp6 s
    some (padded (Frame.mk mac (ownMac s) (some tci) rtag etIp6
      (ip6Bytes src x.peer d.1.toNat 17 64 (udpBytes src x.peer x.port tele)) true), d.2)
  | 3, _ =>
    some (padded (Frame.mk (BitVec.ofNat 48 (beNat x.peer)) (ownMac s) (some tci) rtag (BitVec.ofNat 16 x.port) tele true), s)
  | _, _ => none

/-- One half's copy of the check block of the telegram to send: its virtual sequence, connection ID and body (R281, R284). -/
def sendCopy (h : SesHalf) (x : SesNet) (now : Stamp) (fs : Bool) (p : List Byte × Nat) : Nat × Nat × List Byte :=
  let v := (h.vSent.toNat + 1) % 2 ^ 32
  (v, x.cid, teleHead (vfWord p.1.length (x.role == 2) (h.st == .opening) fs) x.cid (v % 65536) now.toNat p.2 ++ p.1)

/-- A half has sent a telegram at a microtick (R284, R290). -/
def SesHalf.sent (x : SesNet) (now : Nat) (h : SesHalf) : SesHalf :=
  let v := h.vSent + 1
  { h with vSent := v, vTx := v
           sentOpn := if x.role = 2 ∧ h.st = .opening then now :: h.sentOpn.filter (fun e => decide (now < e + x.lim)) else h.sentOpn }

/-- Send the telegram of a session (R273, R284, R286, R287); a sender in OPENING that reaches 65 535 enters OPENING again, in SAFE
too, where that keeps its state (R284, R294). -/
def sendTele (s : State) (x y : SesNet) : State :=
  let i := x.sid
  let u := s.sess i
  let p := telePayload s x
  let fs := s.mode == .safe
  let a := sendCopy u.ha x s.stamp fs p.1
  let b := sendCopy u.hb.restore y s.stamp fs p.2.1
  match teleFrame p.2.2 x (buildTele a b) with
  | none => s
  | some (f, s) =>
    let s := s.halves i (SesHalf.sent x s.now)
    let s := s.setSess i { s.sess i with sentAt := some (s.now, fs) }
    let s := sendOwn s fromPs f (maskPorts x.pmask)
    if u.ha.st = .opening ∧ a.1 = 65535 then toOpening s i else s

/-- SESSION_SEND_INSTANT (R273): once in its microtick, but for the fail-safe telegram after an entry to SAFE in it (R297). -/
def execSessionSendInstant (sid : Fin 160) (s : State) : Out :=
  match sesCfgOf s sid with
  | none => .next s
  | some x =>
    if sesSends s x ∧ s.now % x.per = (3 * x.sid) % x.per ∧ (s.sess x.sid).sentAt ≠ some (s.now, s.mode == .safe) then
      .next (sendTele s x ((sesCfgB s sid).getD x))
    else .next s

/-! ### The measurement stream (R333 to R337) -/

/-- The samples of one channel and quantity over a block (R335): the mean of the valid ones, 0x8000 with none. -/
def blockMean (x : Stream) (j n q : Nat) : Nat × Nat :=
  let a := x.acc.get (0, 0) (j * 128 + 2 * n + q)
  (if a.2 = 0 then 0x8000 else unsign 16 (a.1 / (a.2 : Int)), a.2)

/-- The payload of a frame (R333, R334). -/
def streamPayload (s : State) (e off f : Nat) : List Byte :=
  let m := imgA s
  let x := s.stream e
  let dec := (m (off + 2)).toNat
  let qty := (m (off + 3)).toNat
  let mask := Img.le m (off + 4) 8
  let chs := allChans.filter (bitAt mask)
  let nset := s.fget (F.MST_NSET_nset e)
  let d := 2 ^ dec
  let js := (List.range nset).map (fun i => f * nset + i)
  let qs := if qty = 3 then [0, 1] else if qty = 1 then [0] else [1]
  let cells := js.flatMap (fun j => chs.flatMap (fun n => qs.map (fun q => (n, blockMean x j n q))))
  let imask := cells.foldl (fun k c => if c.2.2 < d then k ||| 2 ^ c.1 else k) 0
  let rmask := chs.foldl (fun k n => if s.flag (F.CHN_CFG_irng n) then k ||| 2 ^ n else k) 0
  let start := f * nset * d
  let t := x.at_.get 0 f
  let vf := 0x20 + (if s.flag F.NET_TSTAT_sync then 16 else 0) + (if s.mode = .safe then 8 else 0) + qty
  beBytes 1 0xA1 ++ beBytes 1 vf ++ beBytes 2 (Img.le m off 2) ++ beBytes 2 (f % 65536) ++ beBytes 1 dec
    ++ beBytes 1 chs.length ++ beBytes 2 nset ++ beBytes 2 0 ++ beBytes 8 mask ++ beBytes 8 start
    ++ beBytes 6 (t / 1000000000).toNat ++ beBytes 4 (t % 1000000000).toNat ++ beBytes 2 0
    ++ beBytes 8 (x.xm.get 0 f).toNat ++ beBytes 8 (x.sm.get 0 f).toNat ++ beBytes 8 imask ++ beBytes 8 rmask
    ++ cells.flatMap (fun c => beBytes 2 c.2.1)

/-- STREAM_FRAME (R336): the frame's span has ended, and the uplink frames of its last microtick have come in (R20), within the
12 µs. -/
def execStreamFrame (e : Fin 8) (s : State) : Out :=
  let x := s.stream e
  match (imgA s).strOffs[e.val]? with
  | none => .next s
  | some off =>
    let m := imgA s
    let f := x.frame
    if ¬ x.live ∨ (s.mode ≠ .run ∧ s.mode ≠ .safe) ∨ s.now < (f + 1) * x.span + 9 then .next s
    else
      let frame := Frame.mk (BitVec.ofNat 48 (Img.be m (off + 12) 6)) (ownMac s) (some (BitVec.ofNat 16 (Img.le m (off + 18) 2)))
        none 0x88B5 (streamPayload s e off f) true
      let nset := s.fget (F.MST_NSET_nset e)
      let s := sendOwn s fromPm (padded frame) (maskPorts (m (off + 20)).toNat)
      let s := s.setStream e { x with
        frame := f + 1
        acc := ⟨x.acc.entries.filter (fun a => decide ((f + 1) * nset ≤ a.1 / 128))⟩
        xm := x.xm.del f
        sm := x.sm.del f
        at_ := x.at_.del f }
      let s := (s.finc (F.MST_FRM_cnt e)).fbool F.MST_STAT_sync (s.flag F.NET_TSTAT_sync)
      .next (if s.flag F.MST_STAT_run then s else (s.fput F.MST_STAT_run 1).fput F.MST_EV_run 1)

end Sys2Proof.Machine
end

