-- ==== Sys2Proof/Machine/RegRead.lean ====
section
/-! DEFINITION. What a register read returns: registers that show other state, the read latches of each requester
(R495), the interrupt lines (R345, R496) and HOST_IRQ_N (R497). -/

namespace Sys2Proof.Machine

/-! ### HOST_IRQ_N -/

/-- HOST_IRQ_N is driven low (R497). -/
def hostIrqLow (s : State) : Bool :=
  s.mode != .reset
    && ((ipend s &&& s.fget F.SYS_HIEN_line) != 0 || (s.flag F.SYS_HIPEND_mbx && s.flag F.SYS_HIEN_mbx))

/-! ### Registers that show other state -/

def bitsOf (l : List Nat) (p : Nat → Bool) : Nat := (l.zipIdx).foldl (fun v e => if p e.1 then v + 2 ^ e.2 else v) 0

/-- Put a field into a word. -/
def ins (w : Word) (f : Fld) (v : Nat) : Word := fldIns f w v

/-- CHN_STAT.valid of 32 channels from one on. -/
def validWord (s : State) (a k : Nat) : Word :=
  BitVec.ofNat 32 (bitsOf ((List.range k).map (a + ·)) (fun n => s.flag (F.CHN_STAT_valid n)))

/-- Tests of a unit by their last passes: high and low side of a PN unit, the two channels of a PP pair (R245). -/
def unitPasses (s : State) (n : Nat) : List Nat :=
  if s.fget (F.CHN_OCFG_otype n) = 2 then (s.unitOf n).map (fun k => (s.chan k).passHs)
  else [(s.chan n).passHs, (s.chan n).passLs]

/-- A dark test is overdue (R251); shown on the lead channel. -/
def dtDue (s : State) (n : Nat) : Bool :=
  let x := max 1000000 (2 * s.fget (F.FSG_CFG_dti (groupOf n)) * 1000)
  s.mode == .run && s.chMode n == 4 && s.fget (F.CHN_OCFG_lead n) == n && (s.chan n).onSince.isSome
    && (unitPasses s n).any (fun t => t == 0 || decide (t + x < s.now))

/-- A switch-on deferred by Sag (R259). -/
def sagDefers (s : State) (n : Nat) : Bool :=
  let f := s.fe n
  f.band == .sag && ((f.hsWant && !f.hs) || (f.lsWant && !f.ls))

def bandCode : Band → Nat
  | .absent => 0
  | .normal => 1
  | .sag => 2
  | .under => 3
  | .over => 4
  | .reversed => 0

/-- FSG_STAT from the front ends of the group. -/
def fsgStat (s : State) (g : Nat) : Word :=
  let fs := (groupChans g).map s.fe
  let w := ins 0 (F.FSG_STAT_trip g) (if fs.any (fun (f : Fe) => f.supLatch.isSome) then 1 else 0)
  let w := ins w (F.FSG_STAT_band g) (fs.foldl (fun m (f : Fe) => max m (bandCode f.band)) 0)
  ins w (F.FSG_STAT_brt g) (fs.foldl (fun m (f : Fe) => max m f.brt) 0)

/-- The net that PRS_NSEL names, in both lanes, of the latest cycle that both have released: value word, valid, stamp,
and agreement (R116, R159). -/
def shownNet (s : State) : Option (Nat × Bool × Stamp × Bool) :=
  if s.mode ≠ .run then none
  else
    match s.comp.shown with
    | none => none
    | some (ra, rb) =>
      let n := s.fget F.PRS_NSEL_net
      if s.flag F.PRS_NSEL_ana then
        let a := readA .a ra.anets n
        some (a.x.toNat, a.q, a.t, a == readA .b rb.anets n)
      else
        let a := readB .a ra.nets n
        some (if a.v then 65536 else 0, a.q, a.t, a == readB .b rb.nets n)

def nvalWord (s : State) : Word :=
  match shownNet s with
  | none => 0
  | some (v, q, _, same) => BitVec.ofNat 32 (v + (if q then 2 ^ 30 else 0) + (if same then 2 ^ 31 else 0))

def ntsWord (s : State) : Word :=
  match shownNet s with
  | none => 0
  | some (_, _, t, _) => t

/-- Lane A's `ok` of a session's cell: SESIN drives it as its second output, SESOUT as its first. -/
def sesOk (s : State) (i : Nat) : Bool :=
  let m := imgA s
  s.la.cells.entries.any (fun e =>
    let c := m.cell e.1
    (c.typ == 0x40 && c.sid == i && e.2.o1.v) || (c.typ == 0x41 && c.sid == i && e.2.o0.v))

/-- A session register outside RUN and SAFE reads its reset value (R306). -/
def sesLive (s : State) (i : Nat) : Bool := (s.mode == .run || s.mode == .safe) && s.fget (F.SES_CFG_role i) != 0

def sesStat (s : State) (i : Nat) : Word :=
  if sesLive s i then
    let w := ins (s.rget (R.SES_STAT i)) (F.SES_STAT_state i) (sesCode (s.sess i).ha.st)
    ins w (F.SES_STAT_ok i) (if sesOk s i then 1 else 0)
  else 0

def sesGstat (s : State) : Word :=
  let w := s.rget R.SES_GSTAT
  let count (p : SesSt → Bool) : Nat := (allSessions.filter (fun i => sesLive s i && p (s.sess i).ha.st)).length
  let w := ins w F.SES_GSTAT_nrun (count (fun st => st == .run))
  ins w F.SES_GSTAT_nflt (count (fun st => st == .hold || st == .failed))

/-- TND_DBG (R359, R363). -/
def dbgWord (s : State) : Word :=
  let b (f : Fld) (x : Bool) (w : Word) : Word := ins w f (if x then 1 else 0)
  b F.TND_DBG_fuse (s.otp.shadow.pol.getLsbD 0) (b F.TND_DBG_sw1 s.sw1 (b F.TND_DBG_ener (energised s)
    (b F.TND_DBG_perm (debugPermit s) (b F.TND_DBG_act s.tnd.dmact (b F.TND_DBG_halt (s.tnd.halted || s.tnd.haltC)
      (s.rget R.TND_DBG))))))

/-- The log entry that EDC_LSEL names. -/
def logSel (s : State) : Option LogEnt := s.memc.log.find (s.fget F.EDC_LSEL_idx)

def linfoWord (s : State) : Word :=
  match logSel s with
  | none => 0
  | some e =>
    let b (f : Fld) (x : Bool) (w : Word) : Word := ins w f (if x then 1 else 0)
    let w := ins (ins (ins 0 F.EDC_LINFO_vld 1) F.EDC_LINFO_mem e.mem) F.EDC_LINFO_cls e.cls
    let w := b F.EDC_LINFO_ws e.ws (b F.EDC_LINFO_pers e.pers (b F.EDC_LINFO_hard e.hard (b F.EDC_LINFO_ret e.ret w)))
    ins (b F.EDC_LINFO_srel (safetyRel s e.mem e.addr.toNat) (b F.EDC_LINFO_dlrun e.dl.isSome w)) F.EDC_LINFO_cnt e.cnt

def logWord (s : State) (f : LogEnt → Word) : Word :=
  match logSel s with
  | none => 0
  | some e => f e

/-- 802.1AS time of now as seconds and nanoseconds (R328). -/
def tsNow (s : State) : Nat × Nat :=
  let t := (s.asTime s.now).toNat
  (t / 1000000000, t % 1000000000)

/-- SYS_STATE (R32). -/
def stateWord (s : State) : Word := ins (s.rget R.SYS_STATE) F.SYS_STATE_state (modeCode s.mode)

/-- CMP registers read their reset values outside RUN and SAFE and before the first comparison (R232). In SAFE they show what they
hold, also where it was entered before a comparison (DESIGN CHOICE, log 52, R232). -/
def cmpShows (s : State) : Bool := (s.mode == .run && s.comp.made) || s.mode == .safe

def readChn (s : State) (a : Nat) : Word :=
  if a = R.CHN_VLDLO then validWord s 0 32
  else if a = R.CHN_VLDHI then validWord s 32 16
  else if a = R.CHN_CALQLO ∨ a = R.CHN_CALQHI then (if s.mode = .idle then s.rget a else 0)
  else
    let n := (a - 0x40010000) / 0x100
    if a = R.CHN_ODET n then
      ins (ins (s.rget a) (F.CHN_ODET_dtdue n) (if dtDue s n then 1 else 0)) (F.CHN_ODET_dfr n)
        (if sagDefers s n then 1 else 0)
    else s.rget a

def readPrs (s : State) (a : Nat) : Word :=
  if a = R.PRS_TICKL then s.stamp
  else if a = R.PRS_TICKH then BitVec.ofNat 32 (s.now / 2 ^ 32)
  else if a = R.PRS_NVAL then nvalWord s
  else if a = R.PRS_NTS then ntsWord s
  else s.rget a

def readSes (s : State) (a : Nat) : Word :=
  if a = R.SES_GSTAT then sesGstat s
  else if R.SES_PEND 0 ≤ a ∧ a ≤ R.SES_PEND 4 then
    let i := (a - R.SES_PEND 0) / 4
    BitVec.ofNat 32 (bitsOf ((List.range 32).map (32 * i + ·)) (sesPend s))
  else if 0x4005F000 ≤ a then s.rget a
  else
    let i := (a - 0x40050000) / 0x40
    if a = R.SES_STAT i then sesStat s i
    else if a = R.SES_VTX i then (if sesLive s i then (s.sess i).ha.vTx else 0)
    else if a = R.SES_VRX i then (if sesLive s i then (s.sess i).ha.vLast else 0)
    else s.rget a

def readNet (s : State) (a : Nat) : Word :=
  if a < 0x40060F00 then
    let p := (a - 0x40060000) / 0x100
    if a = R.NET_GENT p then
      let e := (s.port p).pending.get ⟨0xFF, 0x10⟩ (s.fget (F.NET_GSEL_idx p))
      BitVec.ofNat 32 (e.mask.toNat * 2 ^ 24 + e.intv % 2 ^ 24)
    else s.rget a
  else if a = R.NET_VDAT then s.net.vlans.get 0 (s.fget F.NET_VSEL_idx)
  else if a = R.NET_SDAT0 then (s.net.statics.get (0, 0) (s.fget F.NET_SSEL_idx)).1
  else if a = R.NET_SDAT1 then (s.net.statics.get (0, 0) (s.fget F.NET_SSEL_idx)).2
  else if a = R.NET_TNS then BitVec.ofNat 32 (tsNow s).2
  else if a = R.NET_TSECL then BitVec.ofNat 32 (tsNow s).1
  else if a = R.NET_TSECH then BitVec.ofNat 32 ((tsNow s).1 / 2 ^ 32 % 2 ^ 16)
  else s.rget a

def readTnd (s : State) (a : Nat) : Word :=
  if a = R.TND_MTIMEL then s.stamp
  else if a = R.TND_MTIMEH then BitVec.ofNat 32 (s.now / 2 ^ 32)
  else if a = R.TND_DDLR then BitVec.ofNat 32 (ddlRem s)
  else if a = R.TND_IPEND then BitVec.ofNat 32 (ipend s)
  else if a = R.TND_DBG then dbgWord s
  else s.rget a

def readEdc (s : State) (a : Nat) : Word :=
  if a = R.EDC_LINFO then linfoWord s
  else if a = R.EDC_LADDR then logWord s (fun (e : LogEnt) => e.addr)
  else if a = R.EDC_LFTS then logWord s (fun (e : LogEnt) => BitVec.ofNat 32 e.fts)
  else if a = R.EDC_LLTS then logWord s (fun (e : LogEnt) => BitVec.ofNat 32 e.lts)
  else if a = R.EDC_LDL then logWord s (fun (e : LogEnt) => match e.dl with | some t => BitVec.ofNat 32 t | none => 0)
  else s.rget a

/-- The fields of a register that a read shows: write-only fields read 0 (R12). -/
def maskWo (a : Nat) (w : Word) : Word :=
  match regDesc a with
  | none => 0
  | some d => d.fields.foldl (fun w f => if f.acc = .wo then ins w ⟨a, f.hi, f.lo⟩ 0 else w) w

/-- The word that a read of a register returns, latches apart; an address without a register reads 0 (R492). -/
def readWord (s : State) (a : Nat) : Word :=
  maskWo a <|
    if a < 0x40002000 then
      (if a = R.SYS_STATE then stateWord s
       else if a = R.SYS_HIPEND then ins (s.rget a) F.SYS_HIPEND_line (ipend s)
       else s.rget a)
    else match a / 0x10000 with
    | 0x4001 => readChn s a
    | 0x4002 => if a < 0x40020F00 ∧ a % 0x40 = 4 then fsgStat s ((a - 0x40020000) / 0x40) else s.rget a
    | 0x4003 => readPrs s a
    | 0x4004 => if a = R.CMP_IEN ∨ cmpShows s then s.rget a else regReset a
    | 0x4005 => readSes s a
    | 0x4006 => readNet s a
    | 0x4008 => readTnd s a
    | 0x4009 => readEdc s a
    | 0x400b =>
      if a = R.OTP_RNRM then s.otp.bootN.get 0 (s.fget F.OTP_RSEL_word)
      else if a = R.OTP_RSTR then s.otp.bootS.get 0 (s.fget F.OTP_RSEL_word)
      else s.rget a
    | 0x400c =>
      if a = R.BST_STAT then
        ins (s.rget a) F.BST_STAT_defer (if s.rget R.BST_ODEFLO != 0 || s.rget R.BST_ODEFHI != 0 then 1 else 0)
      else s.rget a
    | _ => s.rget a

/-! ### Read latches (R82, R159, R390, R495) -/

/-- The registers that a read of a register latches. -/
def latches (a : Nat) : List Nat :=
  if a = R.PRS_NVAL then [R.PRS_NTS]
  else if a = R.PRS_TICKL then [R.PRS_TICKH]
  else if a = R.TND_MTIMEL then [R.TND_MTIMEH]
  else if a = R.NET_TNS then [R.NET_TSECL, R.NET_TSECH]
  else if a = R.EDC_LINFO then [R.EDC_LADDR, R.EDC_LFTS, R.EDC_LLTS, R.EDC_LDL]
  else if a / 0x10000 = 0x4001 ∧ a < 0x4001F000 ∧ a % 0x100 = 0x20 then [a + 4, a + 8]
  else []

/-- The registers whose latch a read of a register ends. -/
def unlatches (a : Nat) : List Nat :=
  if a = R.PRS_NTS then [R.PRS_NTS]
  else if a = R.PRS_TICKH then [R.PRS_TICKH]
  else if a = R.TND_MTIMEH then [R.TND_MTIMEH]
  else if a = R.NET_TSECH then [R.NET_TSECL, R.NET_TSECH]
  else if a = R.EDC_LDL then [R.EDC_LADDR, R.EDC_LFTS, R.EDC_LLTS, R.EDC_LDL]
  else if a / 0x10000 = 0x4001 ∧ a < 0x4001F000 ∧ a % 0x100 = 0x28 then [a - 4, a]
  else []

/-- The latch of a requester: the host has its own. -/
def latchOf (s : State) (req : Requester) : Tab Word := if isHost req then s.spi.latchH else s.spi.latchP

def setLatch (s : State) (req : Requester) (t : Tab Word) : State :=
  if isHost req then { s with spi := { s.spi with latchH := t } } else { s with spi := { s.spi with latchP := t } }

/-- Read a register: its word, from the requester's latch where one holds, and the latches set and ended. PRS_NTS reads 0 outside
RUN, whatever a read in RUN has latched (R158). Where no cycle has been released yet, a read of PRS_NVAL latches 0 for PRS_NTS, and
that 0 is delivered also later (R159; DESIGN CHOICE, log 52). CHN_VIT without a latch shows the index of the latest good frame (DESIGN CHOICE,
log 52). -/
def readReg (s : State) (req : Requester) (a : Nat) : Word × State :=
  let t := latchOf s req
  let w := if a = R.PRS_NTS ∧ s.mode ≠ .run then 0 else t.get (readWord s a) a
  let t := (latches a).foldl (fun (t : Tab Word) b => t.set b (readWord s b)) t
  let t := (unlatches a).foldl (fun (t : Tab Word) b => t.del b) t
  (w, setLatch s req t)

/-- Whether an address of the register region lies in a block span (R492). -/
def inSpan (a : Nat) : Bool :=
  (0x40000000 ≤ a && a < 0x40002000) || (0x40010000 ≤ a && a < 0x400D0000)

/-- LATCHING_REGISTER_READ (R495): a read of a register by a requester; a checker core in lockstep reaches no register (R341). -/
def execLatchingRegisterRead (req : Requester) (addr : Word) (s : State) : Out :=
  if s.mode = .reset ∨ (req = .checker ∧ s.inLockstep) then .next s
  else if ¬ inSpan addr.toNat ∨ addr.toNat % 4 ≠ 0 then .next (watched s req onLoad addr (fun s => accessFault s req faultLoad addr))
  else .next (watched s req onLoad addr (fun s => (readReg s req addr.toNat).2))

end Sys2Proof.Machine
end

