-- ==== Sys2Proof/Machine/Startup.lean ====
section
/-! DEFINITION. Reset, the start-up sequence with its tests, the seal latch, loading and entry to RUN (R445 to R447,
R459, R465 to R471, R476, R479, R480, R483). A sequence of the boot ROM takes no time inside one command; the
bounds of R469 and R470 are its only timing. -/

namespace Sys2Proof.Machine

/-! ### Reset (R465 to R467, R483) -/

/-- Enter reset: the Cask controller first completes the record in progress (R467). -/
def toReset (s : State) (cause : Word) : State := enterReset s (commitJob s).cask cause

/-- RESET_N goes low for good (R465, R466). -/
def resetPin (s : State) : State :=
  let s := toReset s (s.rget R.SYS_RCAUSE ||| 2)
  { s with pins := { s.pins with resetHigh := false } }

/-- RESET_N_LOW (R466): a level of 1 µs acts, one below 0.5 µs does not, one between acts fully or not at all. -/
def execResetNLow (ns : Nat) (s : State) : Out :=
  if 1000 ≤ ns ∨ (500 ≤ ns ∧ Config.resetGlitchActs ns) then .next (resetPin s) else .next s

/-- What a supply has fallen to when the converter input falls through the falling threshold of power-good, 12.0 V (R510): a voltage
below it stays, any other is open. -/
def fallenTo (mv : Int) (x : Nat) : Int :=
  let thr := point 48 2 12000 300
  if mv < thr then mv else (x : Int) % thr

/-- POWER_GOOD_LOST (R465, R467, R510): the converter input has fallen through 12.0 V. HOLDUP joined it as VL24 fell through the connect
threshold, so both supplies are below that point; how far a charger had brought the capacitor is open. The
record in progress is recovered whole or absent, which is open (R405); the reset-cause latch starts again. -/
def execPowerGoodLost (s : State) : Out :=
  let d := s.draw
  let cask := if d.1.getLsbD 0 then (commitJob s).cask else s.cask
  let s := enterReset d.2 cask 1
  .next { s with pins := { s.pins with
    powerGood := false, holdupOn := true, charging := false
    vl24 := fallenTo s.pins.vl24 (d.1.toNat / 2)
    holdup := fallenTo (if s.pins.charging then 41000 else s.pins.holdup) (d.1.toNat / 2 ^ 17) } }

/-- The restart record has committed, or the controller can write no record (DEDUCED, log 40). -/
def restartReady (s : State) : Bool := s.boot.rstEvent == 0 || !caskWrites s || s.flag F.CSK_STAT_full

/-- RESTART_RESET (R483): not before a fuse service call returns. -/
def execRestartReset (s : State) : Out :=
  if s.boot.rstAccept ∧ restartReady s ∧ ¬ s.otp.call then .next (toReset s (s.rget R.SYS_RCAUSE)) else .next s

/-! ### Start-up tests (R445, R464) -/

/-- Test i has passed. -/
def testPassed (s : State) (i : Nat) : State := s.fput F.BST_SU_ok (s.fget F.BST_SU_ok ||| 2 ^ (i - 1))

/-- A start-up test fails in a lane: BST_FAIL, and HELD with the cause. A test that is not a lane's shows Lane A. -/
def laneTestFailed (s : State) (l : Lane) (cause loc : Nat) : State :=
  let lane := match l with | .a => 0 | .b => 2 ^ 30
  let s := (s.rput R.BST_FAIL (BitVec.ofNat 32 (2 ^ 31 + lane + cause % 256 * 2 ^ 16 + loc % 2 ^ 14))).rput R.BST_FTS s.stamp
  deviceFault s cause

def testFailed (s : State) (cause loc : Nat) : State := laneTestFailed s .a cause loc

/-- The start-up tests have completed; their duration is open below the stated bound, in microseconds (DESIGN CHOICE, log 2). -/
def testsDone (s : State) (bound : Nat) : State :=
  let d := s.draw
  (d.2.fput F.BST_SU_done 1).rput R.BST_SUT (BitVec.ofNat 32 (d.1.toNat % (bound + 1)))

/-- SEAL_RAW and SEAL_RAWN show Lane A's SW1 contacts (R490); a pair that is not complementary in either lane is a contact fault of SW1
(R478). -/
def showSw1 (s : State) : State :=
  let x := s.sealr.sw1
  let s := (s.fbool F.SEAL_RAW_on1 (x.a.getLsbD 1)).fbool F.SEAL_RAWN_off1 (x.a.getLsbD 0)
  let bad (c : BitVec 2) : Bool := c.getLsbD 0 == c.getLsbD 1
  if bad x.a || bad x.b then s.fput F.SEAL_EV_cflt 1 else s

/-- Power-good, with VL24 at a level: without a loss of it nothing is waited for, and it returns when VL24 has risen through 17.2 V
(R510). -/
def powerReturns (s : State) (mv : Int) : Bool := s.pins.powerGood || point 48 3 17200 300 ≤ mv

/-- VL24 stands at a level. HOLDUP leaves the converter input where the level is above 16.3 V and its own voltage does not exceed it
(R524); the charger of a capacitor that is not joined runs from 18 V on. -/
def vl24Stands (s : State) (mv : Int) : State :=
  let joined := s.pins.holdupOn && !(decide (16300 < mv) && decide (s.pins.holdup ≤ mv))
  { s with pins := { s.pins with vl24 := mv, holdupOn := joined, charging := !joined && decide (18000 ≤ mv) } }

/-- Microtick 0: the straps are latched (R468), and the valid pairs cleared (R368); SW1 is read. -/
def beginStartup (s : State) (bm0 bm1 : Bool) (vl24 : Int) : State :=
  let s := vl24Stands s vl24
  let s := { s with
    mode := .startup
    tick := 0
    pins := { s.pins with resetHigh := true, powerGood := true }
    memc := MemCtl.reset }
  showSw1 ((s.fbool F.SYS_STRAP_bm0 bm0).fbool F.SYS_STRAP_bm1 bm1)

/-- The own MAC address (R316, R435). -/
def showMac (s : State) : State :=
  (s.rput R.NET_MACL ((ownMac s).setWidth 32)).rput R.NET_MACH (((ownMac s) >>> 32).setWidth 32)

/-- The recorded remap (R386, R446): the spare serves the bank. -/
def applyRemap (s : State) : State :=
  match (liveRemap s.cask.recs).getLast? with
  | none => s
  | some r =>
    let k := le r.data 0 1 % 16
    let s := { s with memc := { s.memc with remap := some (k, s.now), remapped := some k } }
    (s.fput F.EDC_REMAP_bank k).fput F.EDC_REMAP_done 1

/-- The alarm of a boot that test 1 has ended is journaled as well: the controller recovers its journal, as at every start-up, and the
event waits in its queue (R403, R432, R441; DEDUCED, log 44). -/
def journalAlarm (s : State) (o : StartObs) : State :=
  if s.rget R.OTP_ALARM = 0 ∨ ¬ o.caskSelf then s
  else
    match recoverJournal s with
    | (true, s) => s
    | (false, s) => journalCause s 0x49

/-- Tests 1 to 3 with the TWIN decision: false where the sequence has ended in HELD (R34, R445, R469, R470). The best master clock
algorithm runs from the start, whatever a test finds and also while no link is up, and with the identity once it is read (R326,
R327). -/
def hardwareTests (s : State) (bm1 : Bool) (o : StartObs) : Bool × State :=
  let s := selectMaster s
  if ¬ o.validClear then (false, testFailed s 0x43 0)
  else
    let s := s.fput F.EDC_STAT_vclr 1
    if ¬ o.fuseRead then (false, testFailed s 0x70 0)
    else
      match fuseBoot s o.fuses with
      | (some cause, s) => (false, journalAlarm (testFailed (selectMaster (showMac s)) cause 0) o)
      | (none, s) =>
        let s := selectMaster (testPassed (showMac s) 1)
        if bm1 && s.otp.shadow.pol.getLsbD 1 then (false, journalAlarm (deviceFault s 0x33) o)
        else if ¬ o.caskSelf then (false, testFailed (s.fput F.CSK_STAT_fail 1) 0x48 0)
        else
          match recoverJournal s with
          | (false, s) => (false, deviceFault s 0x49)
          | (true, s) =>
            let s := applyRemap (testPassed s 2)
            if ¬ o.march then (false, testFailed s 0x60 0)
            else if ¬ o.marchClear then (false, testFailed s 0x43 0)
            else (true, testPassed s 3)

/-- Entry to TWIN (R347, R470): the checker core is hart 1. -/
def enterTwin (s : State) : State :=
  let s := leaveStartup (testsDone s 31200) .twin
  let c := s.tnd.chk
  let s := (s.setTnd { s.tnd with chk := { c with csr := c.csr.set csrMhartid 1 } }).fput F.TND_STAT_mode 3
  pmbx s 0xB0000003#32

/-- Firmware of the start-up sequence (R469, R475): from the Cask, or wait for the host. -/
def bootFirmware (s : State) (bm0 : Bool) : State :=
  if bm0 then pmbx { s with boot := { s.boot with phase := .hostWait } } 0xB0000001#32
  else
    let r := caskImage s
    let m := imgOf r.1
    if fwAccepted m r.1.length s.otp.shadow.vendor then callInit (loadFw r.2 m false) else refuseFw r.2

/-- STARTUP_BEGIN (R465, R468 to R470): the later of RESET_N and power-good has become good. -/
def execStartupBegin (bm0 bm1 : Bool) (obs : StartObs) (s : State) : Out :=
  if s.mode ≠ .reset ∨ ¬ powerReturns s obs.vl24 then .next s
  else
    let r := hardwareTests (beginStartup s bm0 bm1 obs.vl24) bm1 obs
    .next (if ¬ r.1 then r.2 else if bm1 then enterTwin r.2 else bootFirmware r.2 bm0)

/-! ### The init entry (R476) -/

/-- When the init entry was called, while it runs. -/
def initSince (s : State) : Option Nat :=
  match s.mode, s.boot.phase with
  | .startup, .initCall t => some t
  | _, _ => none

/-- INIT_ENTRY_TIMEOUT (R476): the timer trap stops an init entry that has not returned within 10 ms. -/
def execInitEntryTimeout (s : State) : Out :=
  match initSince s with
  | some t => if t + 10000 ≤ s.now ∧ ¬ s.tnd.halted then .next (deviceFault s 0x27) else .next s
  | none => .next s

/-- Tests 4 and 5; the lane clocks run from the start of test 4 (R84, R445). Where test 4 fails in both lanes BST_FAIL shows Lane A
(DESIGN CHOICE, log 52). -/
def laneTests (s : State) (press : PressTest) (cmpOk : Bool) : State :=
  let s := { s with boot := { s.boot with lanesOn := true } }
  if ¬ press.a then laneTestFailed s .a 0x61 0
  else if ¬ press.b then laneTestFailed s .b 0x61 0
  else
    let s := testPassed s 4
    if ¬ cmpOk then testFailed s 0x62 0
    else
      let s := testPassed s 5
      { s with boot := { s.boot with phase := .sealRead 0 none } }

/-- INIT_ENTRY_RETURN (R469, R476): within its 10 ms; a halted pair suspends start-up (R361). -/
def execInitEntryReturn (press : PressTest) (cmpOk : Bool) (s : State) : Out :=
  match initSince s with
  | some t => if s.now < t + 10000 ∧ ¬ s.tnd.halted then .next (laneTests s press cmpOk) else .next s
  | none => .next s

/-! ### Reading the seal (R477, R482, R490) -/

/-- Every pair is complementary. -/
def pairsGood (r : SealRead) : Bool := r.ncode == ~~~ r.code

/-- Good in both lanes and equal. -/
def sealGood (ra rb : SealRead) : Bool := pairsGood ra && pairsGood rb && ra.code == rb.code

/-- Whether a read differs from the one before it. -/
def sealDiffers (s : State) (ra rb : SealRead) : Bool :=
  match s.sealr.last with
  | some l => l != (ra, rb)
  | none => false

/-- Show a read of SW2 to SW6. -/
def showSeal (s : State) (ra rb : SealRead) : State :=
  let v := ra.code.toNat
  let good := sealGood ra rb
  let s := if good && sealDiffers s ra rb then s.fput F.SEAL_EV_chg 1 else s
  let s := if pairsGood ra && pairsGood rb then s else s.fput F.SEAL_EV_cflt 1
  let s := (s.fput F.SEAL_RAW_code v).fput F.SEAL_RAWN_ncode ra.ncode.toNat
  let s := ((s.fbool F.SEAL_NOW_good good).fput F.SEAL_NOW_sw6 (v / 2 ^ 16)).fput F.SEAL_NOW_fp (v % 2 ^ 16)
  let s := s.rput R.SEAL_RTS s.stamp
  { s with sealr := { s.sealr with last := some (ra, rb) } }

/-! ### Loading (R139, R150 to R152, R380) -/

/-- Entry to IDLE with a refusal (R480): the firmware starts at its run entry (R469). -/
def enterIdle (s : State) (cause reason offs : Nat) : State :=
  let s := (s.fput F.PRS_VREJ_reason reason).fput F.PRS_VREJ_offs offs
  startFw (leaveStartup (recordCause s cause false) .idle)

/-- Read pages of the Cask that carry errors: whether all can be read, and the wrong bits left in each. -/
def readSlotPages (s : State) (l : List Nat) : Bool × Tab (List Nat) × State :=
  l.foldl (fun (a : Bool × Tab (List Nat) × State) p =>
    let v := readPage a.2.2 p none
    (a.1 && v.1.ok, if v.1.wrong = [] then a.2.1 else a.2.1.set p v.1.wrong, v.2)) (true, Tab.empty, s)

/-- The image in a slot, as the loader reads it. -/
def slotImg (s : State) (slot : Nat) (wrong : Tab (List Nat)) : Img :=
  let cells := s.cask.bytes.filter (fun e => e.1 / 0x100000 == slot)
  let t : State := { s with cask := { s.cask with bytes := cells } }
  fun a =>
    let off := slot * 0x100000 + a
    if 0x100000 ≤ a then 0 else caskByte t (wrong.get [] (off / 0x800)) off

/-- The pages of a slot that carry errors, from its first page on or from the second. -/
def badSlotPages (s : State) (slot a n : Nat) : List Nat :=
  (s.cask.err.entries.map (fun e => e.1)).filter (fun p => 512 * slot + a ≤ p && p < 512 * slot + n)

/-- Steps 1 to 8 over the slot that the seal names: the failed check, the image, and the registers of step 8. An
unreadable page is refused with reason 0x03 at offset 0 (R380). PRS_EVAL shows a length and a rank that step 8 refuses modulo 512
(DESIGN CHOICE, log 52, R158). -/
def checkSlot (s : State) (slotReads : Bool) : Chk × Img × State :=
  let slot := s.fget F.SEAL_ACC_sw6
  let p0 := readSlotPages s (badSlotPages s slot 0 1)
  let m0 := slotImg p0.2.2 slot p0.2.1
  if ¬ p0.1 then (some (3, 0), m0, p0.2.2)
  else
    match checkHeader m0 with
    | some r => (some r, m0, p0.2.2)
    | none =>
      let p := readSlotPages p0.2.2 (badSlotPages s slot 1 (min 512 ((m0.ilen + 0x7FF) / 0x800)))
      let wrong : Tab (List Nat) := p0.2.1.entries.foldl (fun t e => t.set e.1 e.2) p.2.1
      let m := slotImg p.2.2 slot wrong
      let s := p.2.2
      if ¬ slotReads ∨ ¬ p.1 then (some (3, 0), m, s)
      else
        let sh := s.otp.shadow
        match checkVintage m (s.fget F.SEAL_ACC_fp) (if sh.lvlBad then none else some sh.lvl.toNat) (sh.pol.getLsbD 2) sh.cust with
        | some r => (some r, m, s)
        | none =>
          let rk := ranks m
          let u := vuseOf m
          let s := ((s.fput F.PRS_VUSE_cells u.1).fput F.PRS_VUSE_ses u.2.1).fput F.PRS_VUSE_str u.2.2
          let s := (s.fput F.PRS_EVAL_ranks (topRank rk)).fput F.PRS_EVAL_elen (evalLen rk)
          (if evalLen rk ≤ 280 then none else some (0x0F, 0), m, s)

/-- The cause of a refusal (R480). -/
def refusalCause (reason : Nat) : Nat := if reason = 4 then 0x21 else 0x26

/-- Write both lanes and their references (R152, R153). -/
def writeLanes (s : State) (m : Img) : State :=
  let c := cfgOf m
  let crc := blockCrcs (memGet 0 c) (cfgBlocks m)
  { s with
    la := { LaneSt.reset with cfg := c, crcRef := crc }
    lb := { LaneSt.reset with cfg := c.map (fun e => (e.1, ~~~e.2)), crcRef := crc.map (fun w => ~~~w) }
    vint := some ⟨s.fget F.SEAL_ACC_sw6, m.digest, m.fp, m.ilen, m.rlevel⟩ }

/-- PRS_VIN and the configuration registers take the values of the vintage (R80, R104, R158). -/
def loadRegisters (s : State) (m : Img) : State :=
  let w (v : Nat) : Word := BitVec.ofNat 32 v
  let s := ((s.fput F.PRS_VIN_acc 1).fput F.PRS_VIN_slot (s.fget F.SEAL_ACC_sw6)).fput F.PRS_VIN_fp m.fp
  let s := ((s.rput R.PRS_CYC (w m.cycWord)).rput R.PRS_SYNC (w m.syncWord)).rput R.CHN_TPCFG (w m.tpWord)
  let x := m.chans
  let s := allChans.foldl (fun s n =>
    (((s.rput (R.CHN_CFG n) (w (x.cfg n))).rput (R.CHN_FILT n) (w (x.filt n))).rput (R.CHN_OCFG n) (w (x.ocfg n))).rput
      (R.CHN_LST n) (w (x.lst n))) s
  (List.range 6).foldl (fun s g => s.rput (R.FSG_CFG g) (w (Img.le m (m.secOff secGroups + 8 * g) 4))) s

/-! ### Front ends and test 6 (R73, R445, R459) -/

/-- Test 6 reaches a channel: an output, its link locked and its group in Normal. -/
def stageTested (s : State) (n : Nat) : Bool :=
  isOutputMode (s.chMode n) && (s.fe n).band == .normal && (s.fe n).locked && (s.chan n).locked

/-- A channel that has its configuration is valid before entry to RUN, from the first of its frames that ends a run of 16 (R71,
R469; DEDUCED, log 41). -/
def openChannel (s : State) (n : Nat) : State :=
  if ¬ mayBeValid s n then s
  else
    let c := s.chan n
    let l := c.hist.take (c.good - 15)
    let idx := match l.getLast? with | some x => x.idx | none => s.now
    let st : Stamp := BitVec.ofNat 32 idx
    let s := makeValid s n idx
    s.setChan n { s.chan n with
      hist := (l.map (fun x => { x with valid := true, stamp := st })) ++ c.hist.drop (c.good - 15) }

/-- A passed output-stage test clears what an earlier failure has left (R460). -/
def Fe.stagePassed (f : Fe) : Fe :=
  let f := { f with stPend := false, stFail := false }
  { f with fault := f.latchedCode }

/-- Configure and commit the front end of a channel whose link is locked; every echo has come back before entry to RUN (R73, R469;
DEDUCED, log 41). An output that test 6 does not reach is deferred. -/
def configureFe (s : State) (n : Nat) : State :=
  let f := s.fe n
  let c := s.chan n
  let tested := stageTested s n
  let s := if isOutputMode (s.chMode n) && !tested then s.fput (odefFld n) 1 else s
  if f.locked ∧ c.locked then
    let f := commitFe f (cfgTab s n) (trimOf s n) s.fieldNow
    let f := if tested then f.stagePassed else f
    let c := { c with reopen := false, grace := none, echoOk := List.range 12, downPos := 28, selfAt := s.now
                      echoAt := ⟨(List.range 12).map (fun r => (r, s.now))⟩ }
    openChannel ((s.setFe n f).setChan n c) n
  else s.setChan n { c with downPos := 2 }

/-- The lowest tested channel whose stage test fails. -/
def stageFailure (s : State) (l : List (Fin 48)) : Option Nat := allChans.find? (fun n => stageTested s n && l.any (fun c => c.val == n))

/-! ### Entry to RUN (R471) -/

/-- The first cycle of RUN: the first boundary at or after entry (R471). -/
def startCycles (s : State) : State :=
  let c := s.cyc
  let b := (s.now + c - 1) / c * c
  let k := b / c
  let here := b == s.now
  let s := { s with
    hub := { s.hub with
      phi := 0, step := 0, taken := 0, first := k
      next := if here then b + c else b
      nextCyc := if here then k + 1 else k
      bounds := if here then [(k, b, 0)] else [] }
    comp := Comp.reset
    pins := { s.pins with syncOut := here } }
  s.fput F.CMP_INJ_step ((k + 63) / 64 % 66)

/-- Slices, passes and their bound (R448, R453, R454). -/
def startTasting (s : State) (m : Img) : State :=
  let k := sliceK m.slice
  let bound := fullCover k s.cyc (s.fget F.PRS_SYNC_src)
  let s := { s with taste := { Taste.reset with tdl := bound } }
  let s := ((s.fput F.BST_STAT_k k).fput F.BST_STAT_slice m.slice).rput R.BST_TDL (BitVec.ofNat 32 bound)
  s.fbool F.BST_STAT_over1s (1000000 < bound)

/-- A session's registers (R306), and its start (R293, R294). -/
def startSession (s : State) (x : SesNet) : State :=
  let i := x.sid
  let s := ((s.fput (F.SES_CFG_plen i) x.plen).fput (F.SES_CFG_pmask i) x.pmask).fbool (F.SES_CFG_frer i) x.frer
  let s := (s.fput (F.SES_CFG_xport i) x.xport).fput (F.SES_CFG_role i) x.role
  let s := (s.rput (R.SES_CID i) (BitVec.ofNat 32 x.cid)).fput (F.SES_PER_period i) x.per
  toOpening (s.fput (F.SES_LIM_lim i) x.lim) i

/-- Every session of the vintage. -/
def startSessions (s : State) : State :=
  let l := sessionsOf s
  let count (r : Nat) : Nat := l.foldl (fun n x => if x.role = r then n + 8 * x.plen else n) 0
  let s := ((s.fput F.SES_GSTAT_nuse l.length).fput F.SES_BITS_out (count 1)).fput F.SES_BITS_in (count 2)
  showUnresolved (l.foldl startSession s)

/-- Wire rate of a stream in kbit/s, rounded up (R337). -/
def kbps (m : Img) (o : Nat) : Nat :=
  let r := strRate m o
  (r.1 * 1000 + r.2 - 1) / r.2

/-- The sum of the rates, rounded up once, which R337 holds to 2 000 000. -/
def totalKbps (m : Img) (l : List Nat) : Nat :=
  let rs := l.map (strRate m)
  let den := rs.foldl (fun d e => d * e.2) 1
  (rs.foldl (fun n e => n + e.1 * (den / e.2)) 0 * 1000 + den - 1) / den

/-- A stream's registers, and its first frame: the first whose span starts at or after entry (R336). -/
def startStream (m : Img) (s : State) (e : Nat × Nat) : State :=
  let o := e.1
  let i := e.2
  let sp := nsetOf (m.strM o) * 2 ^ (m (o + 2)).toNat
  let s := ((s.fput (F.MST_CFG_stid i) (Img.le m o 2)).fput (F.MST_CFG_pmask i) (m (o + 0x14)).toNat).fput
    (F.MST_CFG_dec i) (m (o + 2)).toNat
  let s := (s.fput (F.MST_CFG_qty i) (m (o + 3)).toNat).rput (R.MST_CMLO i) (BitVec.ofNat 32 (Img.le m (o + 4) 4))
  let s := s.fput (F.MST_CMHI_cmask i) (Img.le m (o + 8) 2)
  let s := (s.fput (F.MST_NSET_m i) (m.strM o)).fput (F.MST_NSET_nset i) (nsetOf (m.strM o))
  let s := s.rput (R.MST_RATE i) (BitVec.ofNat 32 (kbps m o))
  let f := (s.now + sp - 1) / sp
  s.setStream i { Stream.reset with frame := f, live := true, span := sp
                                    at_ := if s.now % sp = 0 then Tab.empty.set f (s.asTime s.now) else Tab.empty }

/-- Every stream of the vintage. -/
def startStreams (s : State) (m : Img) : State :=
  let l := m.strOffs
  let s := l.zipIdx.foldl (startStream m) s
  let s := (s.fput F.MST_STAT_nstr l.length).rput R.MST_TOT (BitVec.ofNat 32 (totalKbps m l))
  if l = [] then s else (s.fput F.MST_STAT_run 1).fput F.MST_EV_run 1

/-- Entry to RUN: all in the same microtick (R471). Before the first write of PRS_HREQ its nets carry 0 with the microtick of entry,
as a capture in it (DESIGN CHOICE, log 52). -/
def enterRun (s : State) (m : Img) : State :=
  let s := leaveStartup s .run
  let s := { s with runFrom := s.now, hreq := [(s.now, 0)] }
  let s := ((s.fput F.PRS_HREQ_req 0).fput F.CSK_ACC_new 0).fput F.FSG_DTSTAT_slots (dtSlotCount m.chans)
  let s := startStreams (startSessions (startTasting (startCycles s) m)) m
  startFw (armDdl (edcLockWrite s 1))

/-- Steps 9 and on: lanes, readback, front ends, test 6, RUN (R152, R469). -/
def loadAccepted (s : State) (m : Img) (o : LoadObs) : State :=
  let s := writeLanes s m
  if ¬ o.readback then deviceFault s 0x20
  else
    let s := loadRegisters s m
    match stageFailure s o.stageFail with
    | some n => testFailed s 0x63 n
    | none =>
      let s := testsDone (testPassed (allChans.foldl configureFe s) 6) 58200
      enterRun s m

/-- The seal is latched; the slot that it names is loaded (R479, R480). -/
def loadSlot (s : State) (o : LoadObs) : State :=
  if 4 ≤ s.fget F.SEAL_ACC_sw6 then enterIdle s 0x21 4 0
  else
    match checkSlot s o.slotReads with
    | (some r, _, s) => enterIdle s (refusalCause r.1) r.1 r.2
    | (none, m, s) => loadAccepted s m o

/-- Latch the seal. -/
def latchSeal (s : State) (v : BitVec 20) : State :=
  ((s.fput F.SEAL_ACC_vld 1).fput F.SEAL_ACC_sw6 (v.toNat / 2 ^ 16)).fput F.SEAL_ACC_fp (v.toNat % 2 ^ 16)

/-- The reads made so far and the read before, while the seal is being latched. -/
def sealReads (s : State) : Option (Nat × Option (BitVec 20)) :=
  match s.mode, s.boot.phase with
  | .startup, .sealRead n prev => some (n, prev)
  | _, _ => none

/-- The latch reads come every 1000 µs; the first of them when test 5 has passed (R479, R482). -/
def latchDue (s : State) (n : Nat) : Bool := n == 0 || 1000 ≤ (s.stamp - s.rget R.SEAL_RTS).toNat

/-- SEAL_LATCH_READ (R479, R480). -/
def execSealLatchRead (ra rb : SealRead) (obs : LoadObs) (s : State) : Out :=
  match sealReads s with
  | none => .next s
  | some (n, prev) =>
    if s.tnd.halted ∨ ¬ latchDue s n then .next s
    else
      let s := showSeal s ra rb
      let v := if sealGood ra rb then some ra.code else none
      if v.isSome ∧ v = prev then .next (loadSlot (latchSeal s ra.code) obs)
      else if 5 ≤ n + 1 then .next (enterIdle s 0x28 4 0)
      else .next { s with boot := { s.boot with phase := .sealRead (n + 1) v } }

end Sys2Proof.Machine
end

