-- ==== Sys2Proof/Machine/RegAccess.lean ====
section
/-! DEFINITION. Register writes (R11 to R14, R493, R494, R537): access codes, ranges, block rules, and the effect of
an accepted word. -/

namespace Sys2Proof.Machine

/-! ### Access codes (R12, R537) -/

/-- Whether the written word changes a field. -/
def changes (old w : Word) (f : FDesc) : Bool := bits old.toNat f.hi f.lo != bits w.toNat f.hi f.lo

/-- Why the access codes refuse a word: 1 a register of RO fields alone, 2 an RWS field changed with SW1 off, 3 an
RWI field changed outside IDLE; 0 for none. -/
def accessWhy (s : State) (d : RDesc) (a : Nat) (w : Word) : Nat :=
  let old := s.rget a
  if d.fields.all (fun f => f.acc == .ro) then 1
  else if !s.sw1 && d.fields.any (fun f => f.acc == .rws && changes old w f) then 2
  else if s.mode != .idle && d.fields.any (fun f => f.acc == .rwi && changes old w f) then 3
  else 0

/-- One field of an accepted word. -/
def takeField (a : Nat) (w : Word) (r : Word) (f : FDesc) : Word :=
  let g : Fld := ⟨a, f.hi, f.lo⟩
  match f.acc with
  | .ro => r
  | .wo => r
  | .w1c => r &&& ~~~(w &&& fldMask g)
  | .rw => ins r g (fldVal g w)
  | .rws => ins r g (fldVal g w)
  | .rwi => ins r g (fldVal g w)

/-- The word of a register after an accepted write. -/
def merged (s : State) (d : RDesc) (a : Nat) (w : Word) : Word := d.fields.foldl (takeField a w) (s.rget a)

/-! ### Ranges stated in the register tables -/

def between (w hi lo a b : Nat) : Bool := a ≤ bits w hi lo && bits w hi lo ≤ b

/-- A window base lies in a region that the host may use through the window (R491, R501). -/
def hwinOk (b : Nat) : Bool :=
  (0x1000 ≤ b && b ≤ 0x1003) || (0x2000 ≤ b && b ≤ 0x200F) || (0x6000 ≤ b && b ≤ 0x60FF)

def chnRange (a w : Nat) : Bool :=
  if a = R.CHN_TPCFG then between w 25 16 1 1000 && between w 9 0 20 1000
  else if 0x4001F000 ≤ a then true
  else match a % 0x100 with
    | 0x00 => bits w 21 16 < 48
    | 0x04 => bits w 27 16 != 0 && bits w 15 0 != 0
    | 0x08 => bits w 23 22 != 3 && bits w 21 20 != 3
    | 0x0C => bits w 17 16 != 3 && (bits w 13 0 == 0 || between w 13 0 20 10000)
    | _ => true

def netRange (a w : Nat) : Bool :=
  if a < 0x40060F00 then
    let p := (a - 0x40060000) / 0x100
    match a % 0x100 with
    | 0x00 => bits w 29 28 != 3 && between w 11 0 1 4094
        && (if p = 4 then bits w 25 24 != 3 else bits w 23 21 != 0)
    | 0x28 => 0x10 ≤ bits w 23 0
    | _ => true
  else if a = R.NET_CTL then between w 15 0 10 1000 && bits w 26 24 != bits w 22 20
  else if a = R.NET_VDAT then !bitAt w 31 || between w 11 0 1 4094
  else if a = R.NET_IP4M then bits w 5 0 ≤ 32
  else if a = R.NET_TCFG then bits w 3 0 == 0 || 0xB ≤ bits w 3 0
  else true

def tndRange (a w : Nat) : Bool :=
  if a = R.TND_SPLIT then between w 7 0 1 0xC8
  else if a = R.TND_SENT then w % 2 == 0 && 0x10000000 ≤ w && w ≤ 0x1003FFFE
  else if a = R.TND_DDL then between w 9 0 10 1000
  else true

def edcRange (a w : Nat) : Bool :=
  if a = R.EDC_CFG then bits w 23 16 != 0 && between w 15 0 10 60000
  else if R.EDC_SREG 0 ≤ a ∧ a ≤ R.EDC_SREG 3 then
    !bitAt w 31 || (bits w 7 0 < bits w 24 16 && bits w 24 16 ≤ 0x100)
  else if a = R.EDC_SCCTL then bits w 27 26 != 3
  else true

def cskRange (a w : Nat) : Bool :=
  if a = R.CSK_RCFG then between w 6 0 25 80
  else if a = R.CSK_SADDR then w % 8 == 0
  else if a = R.CSK_RHDR then bits w 10 0 ≤ 2024
  else if a = R.CSK_CALCFG then between w 13 8 5 60 && bits w 5 0 ≤ 50
  else true

/-- Every field lies in its stated range. -/
def rangeOk (s : State) (a : Nat) (w : Word) : Bool :=
  let v := w.toNat
  match a / 0x10000 with
  | 0x4000 => if a = R.SYS_HWIN then hwinOk (bits v 31 16) else true
  | 0x4001 => chnRange a v
  | 0x4002 => if a < 0x40020F00 ∧ a % 0x40 = 0 then fsgOk v else true
  | 0x4003 =>
    if a = R.PRS_SYNC then syncOk v s.cyc
    else if a = R.PRS_NSEL then !bitAt v 31 || bits v 11 0 ≤ 0xFF
    else true
  | 0x4006 => netRange a v
  | 0x4008 => tndRange a v
  | 0x4009 => edcRange a v
  | 0x400a => cskRange a v
  | 0x400b =>
    if a = R.OTP_PSRC then v % 4 == 0
    else if a = R.OTP_PCMD then between v 19 16 1 3 && bits v 15 12 ≤ 8
    else true
  | _ => true

/-! ### Block rules -/

/-- The channel words as the registers hold them, with one of them replaced. -/
def regChans (s : State) (a : Nat) (w : Word) : ChanCfgs where
  cfg n := (if a = R.CHN_CFG n then w else s.rget (R.CHN_CFG n)).toNat
  filt n := (if a = R.CHN_FILT n then w else s.rget (R.CHN_FILT n)).toNat
  ocfg n := (if a = R.CHN_OCFG n then w else s.rget (R.CHN_OCFG n)).toNat
  lst n := (if a = R.CHN_LST n then w else s.rget (R.CHN_LST n)).toNat
  use g := s.flag (F.FSG_CFG_use g)

/-- The rules that bind a channel's words in IDLE (R43, R52, R62, R80, R237, R268, R536). -/
def chnRule (s : State) (a : Nat) (w : Word) : Bool :=
  if a = R.CHN_TPCFG then tpOk w.toNat
  else if a = R.CHN_CALQLO ∨ a = R.CHN_CALQHI then s.mode == .idle || w == 0
  else if 0x4001F000 ≤ a then true
  else
    let n := (a - 0x40010000) / 0x100
    let x := regChans s a w
    match a % 0x100 with
    | 0x00 =>
      let m := x.mode n
      w == s.rget a ||
        (cfgOwnOk x n && (m == 0 || (cfgPartnersOk x n && x.use (groupOf n) && ocfgOk x n && lstOk x n
          && m != 4 && m != 6 && (m != 5 || s.sw1))))
    | 0x08 => s.chMode n == 0 || ocfgOk x n
    | 0x0C => s.chMode n == 0 || lstOk x n
    | _ => true

/-- A group is left unused only when every channel of it is in measurement-only mode (FSG_CFG.use). -/
def fsgRule (s : State) (a : Nat) (w : Word) : Bool :=
  if a < 0x40020F00 ∧ a % 0x40 = 0 then
    w.getLsbD 31 || (groupChans ((a - 0x40020000) / 0x40)).all (fun n => s.chMode n == 0)
  else true

/-- The order that both registers name is a permutation of the regions (R455). -/
def orderOk (o0 o1 : Word) : Bool :=
  let l := bstOrder o0 o1
  (List.range 15).all (fun r => l.contains (r + 1)) && bits o1.toNat 31 28 == 0

/-- What the main core may not write while the pair is split (R351). -/
def splitCloses (s : State) (req : Requester) (d : RDesc) (a : Nat) : Bool :=
  s.isSplit && !isHost req && req != .checker
    && (d.fields.any (fun f => f.acc == .rws || f.acc == .rwi)
        || a / 0x10000 == 0x400b || a == R.PRS_HREQ || a == R.TND_SPLIT || a == R.TND_SENT || a == R.TND_SBANK
        || a == R.TND_DDL)

/-- The rules of a register's block, as far as they do not come with the effect. -/
def ruleOk (s : State) (req : Requester) (d : RDesc) (a : Nat) (w : Word) : Bool :=
  !splitCloses s req d a &&
    match a / 0x10000 with
    | 0x4001 => chnRule s a w
    | 0x4002 => fsgRule s a w
    | 0x4009 =>
      !((a == R.EDC_CFG || (decide (R.EDC_SREG 0 ≤ a) && decide (a ≤ R.EDC_SREG 3))) && s.flag F.EDC_LOCK_lock)
    | 0x400b => a != R.OTP_PCMD || req == .bootRom
    | 0x400c =>
      if a = R.BST_ORD0 then orderOk w (s.rget R.BST_ORD1)
      else if a = R.BST_ORD1 then orderOk (s.rget R.BST_ORD0) w
      else true
    | _ => true

/-! ### Effects -/

/-- The hub writes a channel's configuration anew: reopen, registers, commit (R73, R80, R536). -/
def reconfigure (s : State) (n : Nat) : State :=
  let c := s.chan n
  s.setChan n { c with downPos := 0, reopen := true, grace := none, echoOk := [] }

/-- The restart sequence (R483). -/
def rstWrite (s : State) (req : Requester) (w : Word) : State :=
  let code := w.toNat % 256
  let host := isHost req
  let drop : State := ({ s with boot := { s.boot with rstFirst := none } }).fput F.SYS_EV_rstrej 1
  if s.boot.rstAccept then s
  else
    match s.boot.rstFirst with
    | none => if code = 0xA5 then { s with boot := { s.boot with rstFirst := some (req, s.now) } } else drop
    | some (r, t) =>
      if code = 0x5A ∧ isHost r = host ∧ s.now < t + 1000 then
        let s := postCode s 0 1 [if host then 1 else 0]
        let s := s.fput (if host then F.SYS_RCAUSE_reqh else F.SYS_RCAUSE_reqp) 1
        { s with
          boot := { s.boot with rstFirst := none, rstAccept := true, rstEvent := s.cask.queue.length }
          enA := { s.enA with line := true }
          enB := { s.enB with line := true } }
      else drop

/-- Clearing bits of CHN_FAULT (R81, R270, CHN_XSRC). -/
def clearChnFault (s : State) (n : Nat) (w : Word) : State :=
  let s := if w.getLsbD 10 then (s.fput (F.CHN_ODET_first n) 0).rput (R.CHN_OTS n) 0 else s
  if w.getLsbD 3 then s.fput (F.CHN_XSRC_vld n) 0 else s

/-- Calibration requests reach Lane A (R80). -/
def showCalq (s : State) : State :=
  allChans.foldl (fun s n =>
    let q := if n < 32 then (s.rget R.CHN_CALQLO).getLsbD n else (s.rget R.CHN_CALQHI).getLsbD (n - 32)
    s.setChan n { s.chan n with calQ := q && s.chMode n == 5 }) s

def chnEffect (s : State) (a : Nat) (w : Word) : State :=
  if a = R.CHN_TPCFG then (if s.mode = .idle then allChans.foldl reconfigure s else s)
  else if a = R.CHN_CALQLO ∨ a = R.CHN_CALQHI then showCalq s
  else if 0x4001F000 ≤ a then s
  else
    let n := (a - 0x40010000) / 0x100
    match a % 0x100 with
    | 0x14 => clearChnFault s n w
    | 0x00 | 0x04 | 0x08 | 0x0C => if s.mode = .idle then showCalq (reconfigure s n) else s
    | _ => s

/-- NET effects: `s` holds the merged word, `old` the word before. -/
def netEffect (s : State) (a : Nat) (old w : Word) : Option State :=
  if a < 0x40060F00 then
    let p := (a - 0x40060000) / 0x100
    match a % 0x100 with
    | 0x00 => some (if p = 4 then s else s.fput (F.NET_PCFG_phm p) 0)
    | 0x08 => some (showPauses s p)
    | 0x20 => if w.getLsbD 30 then gateCommit s p (bits w.toNat 5 0) else some s
    | 0x28 =>
      let e : GateEnt := ⟨BitVec.ofNat 8 (bits w.toNat 31 24), bits w.toNat 23 0⟩
      some (s.setPort p { s.port p with pending := (s.port p).pending.set (s.fget (F.NET_GSEL_idx p)) e })
    | _ => some s
  else if a = R.NET_CTL then some (s.fbool F.NET_CTL_fwd (old.getLsbD 31 || w.getLsbD 31))
  else if a = R.NET_VDAT then
    some { s with net := { s.net with vlans := s.net.vlans.set (s.fget F.NET_VSEL_idx) (s.rget a) } }
  else if a = R.NET_SDAT0 ∨ a = R.NET_SDAT1 then
    let k := s.fget F.NET_SSEL_idx
    let e := s.net.statics.get (0, 0) k
    let e := if a = R.NET_SDAT0 then (s.rget a, e.2) else (e.1, s.rget a)
    some { s with net := { s.net with statics := s.net.statics.set k e } }
  else if a = R.NET_TCFG then some (selectMaster s)
  else if a = R.NET_IP4 ∨ a = R.NET_IP4M ∨ a = R.NET_GW4 then some (showUnresolved s)
  else some s

def tndEffect (s : State) (req : Requester) (a : Nat) (w : Word) : Option State :=
  if a = R.TND_SPLIT then splitWrite s req w
  else if a = R.TND_MERGE then mergeWrite s req w
  else if a = R.TND_KICK then some (kickWrite s w)
  else if a = R.TND_MTCMPL ∨ a = R.TND_MTCMPH then some (showTimer s)
  else if a = R.TND_HMBX then some (mailboxWrite s req w)
  else if a = R.TND_PMBX then some (if isHost req then s else pmbx s w)
  else if a = R.TND_CMBX then some (s.fput F.TND_EV_cmbx 1)
  else some s

def edcEffect (s : State) (a : Nat) (w : Word) : Option State :=
  if a = R.EDC_LOCK then some (edcLockWrite s w)
  else if a = R.EDC_LREL then logReleaseWrite s w
  else if a = R.EDC_SCCTL then (scrubStartWrite s w).map (fun s => scrubAbortWrite s w)
  else if a = R.EDC_REMAP then bankRemapWrite s w
  else some s

/-- OTP_PCMD, written by code fetched from the boot ROM (R436). -/
def otpEffect (s : State) (a : Nat) (w : Word) : State :=
  if a = R.OTP_PCMD ∧ w.getLsbD 31 ∧ ¬ s.otp.call then
    let o := drawPulse s
    serviceOp o.2 (bits w.toNat 19 16) (bits w.toNat 15 12) (s.rget R.OTP_PSRC).toNat (bits w.toNat 7 0) o.1
  else s

/-- Registers whose word changes by their own effect alone. -/
def ownWord (a : Nat) : Bool :=
  a == R.TND_SPLIT || a == R.EDC_LOCK || a == R.EDC_SCCTL || a == R.EDC_REMAP || a == R.CSK_CMD

/-- The effect of a word that access codes, ranges and rules let pass: `none` where the block still refuses it. -/
def regEffect (s₀ : State) (req : Requester) (d : RDesc) (a : Nat) (w : Word) : Option State :=
  let old := s₀.rget a
  let s := if ownWord a then s₀ else s₀.rput a (merged s₀ d a w)
  match a / 0x10000 with
  | 0x4000 => some (if a = R.SYS_RST then rstWrite s req w else s)
  | 0x4001 => some (chnEffect s a w)
  | 0x4003 =>
    if a = R.PRS_HREQ then some (hreqWrite s w)
    else if a = R.PRS_SYNC ∧ w.getLsbD 31 then some (syncRearmWrite s)
    else some s
  -- in SAFE every CMP field keeps its value (R232)
  | 0x4004 => if a = R.CMP_TEST ∧ s.mode = .safe then some s₀
    else if a = R.CMP_TEST then (forceMismatch s w).map (fun s => s.fput F.CMP_TEST_force 0) else some s
  | 0x4006 => netEffect s a old w
  | 0x4008 => tndEffect s req a w
  | 0x4009 => edcEffect s a w
  | 0x400a => if a = R.CSK_CMD then caskCmdWrite s req w else some s
  | 0x400b => some (otpEffect s a w)
  | _ => some s

/-! ### The write -/

/-- How a write ends: done, a field refusal, or a region refusal (R493). -/
inductive WRes where
  | done
  | field (why : Nat)
  | region
  deriving DecidableEq, Repr

/-- A field refusal with its record; a refused BST_ORD write is an event too (R455, R493, R494). -/
def fieldRefuse (s : State) (req : Requester) (a why : Nat) : WRes × State :=
  let s := refuse s req a why
  (.field why, if a = R.BST_ORD0 ∨ a = R.BST_ORD1 then s.fput F.BST_EV_ordrej 1 else s)

/-- The word with its reserved bits taken as 0 (R11). -/
def maskUsed (d : RDesc) (w : Word) : Word :=
  d.fields.foldl (fun m f => m ||| (w &&& fldMask ⟨0, f.hi, f.lo⟩)) 0

/-- An accepted change of an RWS field is kept for its microtick, in which SW1 may still go off (R487). -/
def noteRws (s : State) (req : Requester) (d : RDesc) (a : Nat) (w : Word) (t : State) : State :=
  if d.fields.any (fun f => f.acc == .rws && changes (s.rget a) w f) then
    { t with sealr := { t.sealr with
        rws := t.sealr.rws.filter (fun x => x.at_ == s.now) ++ [⟨s.now, req, a, s.rget a, s.comp.forced, [], none⟩] } }
  else t

/-- Judge a word of a described register and apply it whole or refuse it (R537). -/
def judge (s : State) (req : Requester) (d : RDesc) (a : Nat) (w : Word) : WRes × State :=
  if accessWhy s d a w ≠ 0 then fieldRefuse s req a (accessWhy s d a w)
  else if ¬ rangeOk s a w then fieldRefuse s req a 4
  else if ¬ ruleOk s req d a w then fieldRefuse s req a 5
  else
    match regEffect s req d a w with
    | some t => (.done, noteRws s req d a w t)
    | none => fieldRefuse s req a 5

/-- Whether a requester's write reaches the register region at all: in lockstep the checker core's outputs do not
reach the bus (R341), and while split it may write TND_CMBX alone (R344). -/
def mayWrite (s : State) (req : Requester) (a : Nat) : Bool := req != .checker || !s.isSplit || a == R.TND_CMBX

/-- A write of a register by a requester (R11 to R14, R492, R493, R537). -/
def regWrite (s : State) (req : Requester) (a : Nat) (w : Word) : WRes × State :=
  if s.mode = .reset ∨ (req = .checker ∧ s.inLockstep) then (.done, s)
  else if a % 4 ≠ 0 ∨ ¬ inSpan a ∨ ¬ mayWrite s req a then (.region, s)
  else
    match regDesc a with
    | none => (.done, s)
    | some d => judge s req d a (maskUsed d w)

/-- W1C bits that hardware sets in the clock of a write stay set, so that an event during a clear is not lost (R13). -/
def setInClock (s : State) (a : Nat) (set : Word) : State :=
  match regDesc a with
  | none => s
  | some d =>
    let w := d.fields.foldl (fun (w : Word) f => if f.acc = .w1c then w ||| (set &&& fldMask ⟨a, f.hi, f.lo⟩) else w) (s.rget a)
    if w = s.rget a then s else s.rput a w

end Sys2Proof.Machine
end

