-- ==== Sys2Proof/Machine/Writes.lean ====
section
/-! DEFINITION. Commands that write a register, the debugger's abstract commands (R357, R358), and the host SPI port
(R498 to R505). -/

namespace Sys2Proof.Machine

/-! ### Writes with a row of their own

A row that names a write of 1 to a bit, or an operation, has that bit or operation in its word (DEDUCED, log 1). -/

/-- A register write by a requester; a core whose write is a region refusal takes a store access fault (R493). -/
def takeWrite (req : Requester) (a : Nat) (w : Word) (s : State) : State :=
  let r := regWrite s req a w
  if r.1 = .region then accessFault r.2 req faultStore (BitVec.ofNat 32 a) else r.2

/-- The same past the core's triggers (R357). -/
def busWrite (s : State) (req : Requester) (a : Nat) (w : Word) : State :=
  if s.mode = .reset then s else watched s req onStore (BitVec.ofNat 32 a) (takeWrite req a w)

/-- A register write as a command. -/
def writeReg (req : Requester) (a : Nat) (w : Word) (s : State) : Out := .next (busWrite s req a w)

/-- The word with a bit set. -/
def withBit (w : Word) (i : Nat) : Word := w ||| (1#32 <<< i)

/-- The word without a bit. -/
def withoutBit (w : Word) (i : Nat) : Word := w &&& ~~~(1#32 <<< i)

/-- HOST_REQUEST_WRITE (R123). -/
def execHostRequestWrite (req : Requester) (w : Word) (s : State) : Out := writeReg req R.PRS_HREQ w s

/-- FORCED_MISMATCH (R233). -/
def execForcedMismatch (req : Requester) (w : Word) (s : State) : Out := writeReg req R.CMP_TEST (withBit w 31) s

/-- BST_ORDER_WRITE (R455). -/
def execBstOrderWrite (req : Requester) (hi : Bool) (w : Word) (s : State) : Out :=
  writeReg req (if hi then R.BST_ORD1 else R.BST_ORD0) w s

/-- SYNC_REARM (R110). -/
def execSyncRearm (req : Requester) (w : Word) (s : State) : Out := writeReg req R.PRS_SYNC (withBit w 31) s

/-- GATE_LIST_COMMIT (R325). -/
def execGateListCommit (req : Requester) (port : Fin 5) (w : Word) (s : State) : Out :=
  writeReg req (R.NET_GCFG port) (withBit w 30) s

/-- FORWARDING_ENABLE (R314): by a write, or by the module itself once STARTUP has ended. -/
def execForwardingEnable (req : Option Requester) (w : Word) (s : State) : Out :=
  match req with
  | some r => writeReg r R.NET_CTL (withBit w 31) s
  | none => .next (if s.mode = .reset ∨ s.mode = .startup then s else s.fput F.NET_CTL_fwd 1)

/-- SPLIT_REQUEST (R348). -/
def execSplitRequest (req : Requester) (w : Word) (s : State) : Out := writeReg req R.TND_SPLIT (withBit w 31) s

/-- MERGE_REQUEST (R352). -/
def execMergeRequest (req : Requester) (w : Word) (s : State) : Out := writeReg req R.TND_MERGE (withBit w 31) s

/-- DIAGNOSTIC_KICK (R356). -/
def execDiagnosticKick (req : Requester) (w : Word) (s : State) : Out := writeReg req R.TND_KICK w s

/-- HOST_MAILBOX_WRITE (R346, R485). -/
def execHostMailboxWrite (req : Requester) (w : Word) (s : State) : Out := writeReg req R.TND_HMBX w s

/-- PAIR_MAILBOX_WRITE (R497). -/
def execPairMailboxWrite (req : Requester) (w : Word) (s : State) : Out := writeReg req R.TND_PMBX w s

/-- LOG_RELEASE (R376). -/
def execLogRelease (req : Requester) (w : Word) (s : State) : Out := writeReg req R.EDC_LREL (withBit w 31) s

/-- EDC_LOCK_SET (R377). -/
def execEdcLockSet (req : Requester) (w : Word) (s : State) : Out := writeReg req R.EDC_LOCK (withBit w 0) s

/-- SCRUB_START (R382). -/
def execScrubStart (req : Requester) (w : Word) (s : State) : Out := writeReg req R.EDC_SCCTL (withBit w 31) s

/-- SCRUB_ABORT (R384). -/
def execScrubAbort (req : Requester) (w : Word) (s : State) : Out :=
  writeReg req R.EDC_SCCTL (withBit (withoutBit w 31) 29) s

/-- BANK_REMAP (R385). -/
def execBankRemap (req : Requester) (w : Word) (s : State) : Out := writeReg req R.EDC_REMAP (withBit w 31) s

/-- A CSK_CMD word with `go` and an operation. -/
def caskWord (w : Word) (op : Nat) : Word := withBit (fldIns F.CSK_CMD_op w op) 31

/-- APPEND_A_RECORD (R401). -/
def execAppendARecord (req : Requester) (w : Word) (s : State) : Out := writeReg req R.CSK_CMD (caskWord w 1) s

/-- START_RACKING (R407). -/
def execStartRacking (req : Requester) (w : Word) (s : State) : Out := writeReg req R.CSK_CMD (caskWord w 2) s

/-- RETIRE_PAGE (R411). -/
def execRetirePage (req : Requester) (w : Word) (s : State) : Out := writeReg req R.CSK_CMD (caskWord w 3) s

/-- WRITE_SLOT_PAGE (R412). -/
def execWriteSlotPage (req : Requester) (w : Word) (s : State) : Out := writeReg req R.CSK_CMD (caskWord w 4) s

/-- LOOK_UP_THE_LIVE_RECORD (R397). -/
def execLookUpTheLiveRecord (req : Requester) (w : Word) (s : State) : Out := writeReg req R.CSK_CMD (caskWord w 5) s

/-- RESTART_REQUEST (R483). -/
def execRestartRequest (req : Requester) (w : Word) (s : State) : Out := writeReg req R.SYS_RST w s

/-- Two writes to a register in the same clock: of two commands of the Cask controller the second finds it busy, however soon the
first one ends (R421). -/
def tieWrite (s : State) (a : Nat) (x y : Requester × Word) : State :=
  let t := busWrite s x.1 a x.2
  if a = R.CSK_CMD ∧ x.2.getLsbD 31 ∧ (regWrite s x.1 a x.2).1 = .done then
    (busWrite (t.fput F.CSK_CMD_busy 1) y.1 a y.2).fput F.CSK_CMD_busy (t.fget F.CSK_CMD_busy)
  else busWrite t y.1 a y.2

/-- REGISTER_WRITE (R13, R14, R537): the write, another requester's write to the same register in the same clock, and the
W1C bits that hardware sets in that clock. -/
def execRegisterWrite (req : Requester) (addr : Word) (w : WriteWord) (s : State) : Out :=
  if s.mode = .reset then .next s
  else
    let t := match w.tie with
      | none => busWrite s req addr.toNat w.word
      | some y => if isHost req && !isHost y.1 then tieWrite s addr.toNat y (req, w.word) else tieWrite s addr.toNat (req, w.word) y
    .next (setInClock t addr.toNat w.set)

/-! ### Memory accesses (R344, R366, R369, R380, R491, R493) -/

/-- A read of the TCMs by a core: each core whose word cannot be corrected takes the fault alone (R341, R380). -/
def readTcm (s : State) (req : Requester) (cause addr : Word) (u : Option WordUpset) : State :=
  let r := readTcms s req (addr.toNat - tcmBase) u
  let own := req == .checker
  let bad := uncorrectable r.1.cls
  if req = .host ∨ req = .debugger ∨ ¬ (bad || r.2.1) then r.2.2
  else
    let s := if bad then tcmFault r.2.2 own cause addr else r.2.2
    tcmDiffers (if r.2.1 then tcmFault s (!own) cause addr else s)

/-- Whether a requester's read or fetch of an address is one that the memory map permits (R344, R491, R492); a checker core in
lockstep drives nothing onto the bus (R341). -/
def mapReads (s : State) (req : Requester) (fetch : Bool) (a : Nat) : Bool :=
  match regionOf a with
  | .rom => req != .host
  | .tcm => !(fetch && req == .host)
  | .sram => sramReadOk s req && !(fetch && req == .checker && s.tmode == 1)
  | .regs => !fetch && inSpan a && a % 4 == 0
  | .cask => !fetch
  | .none => false

/-- A read that the map permits: a core that meets an uncorrectable error takes the fault. -/
def readMapped (s : State) (req : Requester) (cause addr : Word) (u : Option WordUpset) (p : Option PageUpset) : State :=
  let a := addr.toNat
  match regionOf a with
  | .sram =>
    let at_ := sramAt s (a - sramBase)
    let r := readWordAt s at_.1 at_.2 u
    if uncorrectable r.1.cls then accessFault r.2 req cause addr else r.2
  | .tcm => readTcm s req cause addr u
  | .regs => (readReg s req a).2
  | .cask =>
    let r := readPage s ((a - caskBase) / 0x800) p
    if r.1.ok then r.2 else accessFault r.2 req cause addr
  | _ => s

/-- The checker core in lockstep reaches its TCM alone (R341). -/
def offBus (s : State) (req : Requester) (a : Nat) : Bool := req == .checker && s.inLockstep && regionOf a != .tcm

/-- MEMORY_READ (R366, R369, R373, R380): a load or a fetch; a refused one is an access fault (R493). -/
def execMemoryRead (by_ : ReadBy) (addr : Word) (u : Option WordUpset) (p : Option PageUpset) (s : State) : Out :=
  let req := by_.who
  let cause := if by_.fetch then faultFetch else faultLoad
  if s.mode = .reset ∨ offBus s req addr.toNat then .next s
  else
    .next (watched s req (if by_.fetch then onFetch else onLoad) addr (fun s =>
      if ¬ mapReads s req by_.fetch addr.toNat then accessFault s req cause addr else readMapped s req cause addr u p))

/-- A store to the TCMs of an access, with the errors of its first word: false for each that ends in a bus error. -/
def writeTcm (s : State) (req : Requester) (addr value : Word) (be : BitVec 4) (u : Option WordUpset) : State :=
  let own := req == .checker
  match tcmsOf s req with
  | [] => s
  | m :: rest =>
    let w := writeWordAt s m (addr.toNat - tcmBase) value be u
    let r := rest.foldl (fun (acc : Bool × State) m' =>
      let w := writeWordAt acc.2 m' (addr.toNat - tcmBase) value be none
      (acc.1 && w.1, w.2)) (true, w.2)
    if w.1 ∧ r.1 then r.2
    else
      let s := if w.1 then r.2 else tcmFault r.2 own faultStore addr
      tcmDiffers (if r.1 then s else tcmFault s (!own) faultStore addr)

/-- A store (R369, R375): a full or partial write of SRAM or TCM, or a word of a register. A refused one, a bus error, and
a write of part of a register, which are accessed as whole words alone (R11; DEDUCED, log 31), are store access faults. -/
def storeMapped (req : Requester) (addr : Word) (value : Word) (be : BitVec 4) (u : Option WordUpset) (s : State) : State :=
  let a := addr.toNat
  let refused := accessFault s req faultStore addr
  match regionOf a with
  | .sram =>
    if sramWriteOk s req (a - sramBase) then
      let at_ := sramAt s (a - sramBase)
      let r := writeWordAt s at_.1 at_.2 value be u
      if r.1 then r.2 else accessFault r.2 req faultStore addr
    else refused
  | .tcm => if req = .host then s else writeTcm s req addr value be u
  | .regs => if be = 0xF then takeWrite req a value s else refused
  | _ => refused

/-- MEMORY_WRITE: the store of an access that reaches the bus, past the core's triggers (R341, R357). -/
def execMemoryWrite (req : Requester) (addr : Word) (value : Word) (be : BitVec 4) (u : Option WordUpset) (s : State) : Out :=
  if s.mode = .reset ∨ be = 0 ∨ offBus s req addr.toNat then .next s
  else .next (watched s req onStore addr (storeMapped req addr value be u))

/-! ### Abstract commands of the debug module (R358, R493) -/

/-- End an abstract command: `cmderr` and the word that a read delivers. -/
def endAbstract (s : State) (err : Nat) (v : Option Word) : State :=
  s.setTnd { s.tnd with
    cmderr := err
    data0 := match v with
      | some w => if err = 0 then w else s.tnd.data0
      | none => s.tnd.data0 }

/-- An abstract command (R357 to R359): it needs an active module and a halted hart; without that `cmderr` is 4. While an error
stands in `cmderr` none is run (PRESUMED, log 31). -/
def abstractCmd (s : State) (f : State → State) : Out :=
  dmiOp s (fun s => if ¬ s.tnd.dmact ∨ s.tnd.cmderr ≠ 0 then s else if selHalted s then f s else endAbstract s 4 none)

/-- ACCESS_REGISTER (R358): read of the main core, write of both; a register that the cores do not have ends it with `cmderr` 3
(PRESUMED, log 31). -/
def execAccessRegister (write : Bool) (regno : BitVec 16) (value : Word) (s : State) : Out :=
  abstractCmd s (fun s =>
    if ¬ hasReg write regno.toNat then endAbstract s 3 none
    else if write then endAbstract (onCores s (fun (c : Core) => c.writeReg regno.toNat value)) 0 none
    else endAbstract s 0 (some (if regno.toNat = csrMip then mipWord s else (selCore s).readReg regno.toNat)))

/-- How an access ended. -/
def abstractEnd (ok : Bool) : Nat := if ok then 0 else 3

/-- A read of memory by the debugger, served from the main core alone (R358); what the boot ROM holds is open (DESIGN CHOICE,
log 2). -/
def abstractRead (s : State) (a : Nat) : State :=
  match regionOf a with
  | .rom =>
    let d := s.draw
    endAbstract d.2 0 (some (d.1.setWidth 32))
  | .tcm =>
    let r := readWordAt s (if selChk s then mTcmC else mTcmM) (a - tcmBase) none
    endAbstract r.2 (abstractEnd (!uncorrectable r.1.cls)) (some r.1.data)
  | .sram =>
    let at_ := sramAt s (a - sramBase)
    let r := readWordAt s at_.1 at_.2 none
    endAbstract r.2 (abstractEnd (!uncorrectable r.1.cls)) (some r.1.data)
  | .regs =>
    if inSpan a then
      let r := readReg s .debugger a
      endAbstract r.2 0 (some r.1)
    else endAbstract s 3 none
  | .cask =>
    let r := readPage s ((a - caskBase) / 0x800) none
    let v := BitVec.ofNat 32 (leNat ((List.range 4).map (fun i => caskByte r.2 r.1.wrong (a - caskBase + i))))
    endAbstract r.2 (abstractEnd r.1.ok) (some v)
  | .none => endAbstract s 3 none

/-- A write of memory by the debugger: the TCMs of both cores in lockstep, other memory once. -/
def abstractWrite (s : State) (a : Nat) (v : Word) : State :=
  match regionOf a with
  | .tcm =>
    let ms := if selChk s then [mTcmC] else tcmsOf s .debugger
    endAbstract (ms.foldl (fun (s : State) (m : Nat) => (writeWordAt s m (a - tcmBase) v 0xF none).2) s) 0 none
  | .sram =>
    if sramWriteOk s .debugger (a - sramBase) then
      let at_ := sramAt s (a - sramBase)
      endAbstract (writeWordAt s at_.1 at_.2 v 0xF none).2 0 none
    else endAbstract s 3 none
  | .regs =>
    let r := regWrite s .debugger a v
    endAbstract r.2 (abstractEnd (r.1 == .done)) none
  | _ => endAbstract s 3 none

/-- ACCESS_MEMORY (R358, R493): a refusal, or a word that cannot be corrected, ends with `cmderr` 3. -/
def execAccessMemory (write : Bool) (addr : Word) (value : Word) (s : State) : Out :=
  abstractCmd s (fun s =>
    if addr.toNat % 4 ≠ 0 then endAbstract s 3 none
    else if write then abstractWrite s addr.toNat value
    else abstractRead s addr.toNat)

/-! ### The host SPI port (R498 to R505) -/

def spiRead : Byte := 0x0B
def spiWrite : Byte := 0x02
def spiRepeat : Byte := 0x05

/-- Opcode and length are of R500. -/
def spiFormOk (r : SpiReq) : Bool :=
  let n := r.len.toNat
  if r.op = spiRepeat then n == 0
  else (r.op == spiRead || r.op == spiWrite) && 4 ≤ n && n ≤ 1024 && n % 4 == 0

/-- The bytes of a request before its CRC, in the order in which the host sends them (R499, R500). -/
def spiBytes (r : SpiReq) : List Byte := r.op :: (beBytes 3 r.addr.toNat ++ beBytes 2 r.len.toNat ++ r.data)

/-- The request's CRC holds, over the data bytes that its length asks for (R500, R502). -/
def spiWhole (r : SpiReq) : Bool :=
  r.crc == crc16 (spiBytes r) && r.data.length == (if r.op = spiWrite then r.len.toNat else 0)

/-- Address in range of its part of the map, and aligned (R501). -/
def spiAddrOk (r : SpiReq) : Bool :=
  let a := r.addr.toNat
  let e := a + r.len.toNat
  a % 4 == 0 && (decide (e ≤ 0x0D0000) || (decide (0x0F0000 ≤ a) && decide (e ≤ 0x100000)))

def spiWindow (r : SpiReq) : Bool := 0x0F0000 ≤ r.addr.toNat

/-- The system address of a request. -/
def spiBase (s : State) (r : SpiReq) : Nat :=
  if spiWindow r then s.fget F.SYS_HWIN_base * 0x10000 + (r.addr.toNat - 0x0F0000) else 0x40000000 + r.addr.toNat

/-- A window access is one that R491 and R501 permit. -/
def spiWindowOk (s : State) (r : SpiReq) : Bool :=
  !spiWindow r ||
    match regionOf (spiBase s r) with
    | .sram => sramReadOk s .host
    | .tcm => r.op == spiRead
    | .cask => r.op == spiRead
    | _ => false

/-- One word of a read: its data, or the trailer code that ends the transaction (R502). -/
def spiReadWord (s : State) (a : Nat) : Except Nat Word × State :=
  match regionOf a with
  | .regs =>
    if inSpan a then
      let r := readReg s .host a
      (.ok r.1, r.2)
    else (.error 7, s)
  | .sram =>
    let at_ := sramAt s (a - sramBase)
    let r := readWordAt s at_.1 at_.2 none
    (if uncorrectable r.1.cls then .error 5 else .ok r.1.data, r.2)
  | .tcm =>
    let r := readWordAt s mTcmM (a - tcmBase) none
    (if uncorrectable r.1.cls then .error 5 else .ok r.1.data, r.2)
  | .cask =>
    let r := readPage s ((a - caskBase) / 0x800) none
    (if r.1.ok then
       .ok (BitVec.ofNat 32 (leNat ((List.range 4).map (fun i => caskByte r.2 r.1.wrong (a - caskBase + i)))))
     else .error 5, r.2)
  | _ => (.error 7, s)

/-- Read words upward: data, code and state (R502). -/
def spiReads : Nat → Nat → State → List Word × Nat × State
  | 0, _, s => ([], 0, s)
  | n + 1, a, s =>
    match spiReadWord s a with
    | (.error c, s) => ([], c, s)
    | (.ok w, s) =>
      let r := spiReads n (a + 4) s
      (w :: r.1, r.2)

/-- One word of a write: 0, or the trailer code that ends the transaction. -/
def spiWriteWord (s : State) (a : Nat) (w : Word) : Nat × State :=
  if regionOf a = .sram then
    let at_ := sramAt s (a - sramBase)
    (0, (writeWordAt s at_.1 at_.2 w 0xF none).2)
  else
    match regWrite s .host a w with
    | (.done, s) => (0, s)
    | (.field _, s) => (4, s)
    | (.region, s) => (7, s)

/-- The registers that differ between two states, with both words. -/
def changedRegs (s t : State) : List (Nat × Word × Word) :=
  (rising ((s.regs.entries ++ t.regs.entries).map (fun e => e.1))).filterMap (fun a =>
    if s.rget a = t.rget a then none else some (a, s.rget a, t.rget a))

/-- The word of a transaction that `s` shows just written has changed an RWS field; `t` is the state after the transaction's later
words, which are kept with that write. -/
def markLater (s : State) (a : Nat) (t : State) : State :=
  match s.sealr.rws.getLast? with
  | some x =>
    if x.at_ = s.now ∧ x.addr = a ∧ x.req = .host then
      { t with sealr := { t.sealr with rws := s.sealr.rws.dropLast ++ [{ x with later := changedRegs s t }] } }
    else t
  | none => t

/-- Write words upward: words done, code and state. -/
def spiWrites : List Word → Nat → State → Nat × Nat × State
  | [], _, s => (0, 0, s)
  | w :: l, a, s =>
    match spiWriteWord s a w with
    | (0, s) =>
      let r := spiWrites l (a + 4) s
      (r.1 + 1, r.2.1, markLater s a r.2.2)
    | (c, s) => (0, c, s)

def toWords (l : List Byte) : List Word := (List.range (l.length / 4)).map (fun i => BitVec.ofNat 32 (le l (4 * i) 4))

/-- The response as sent: start byte, data, code, reserved byte, words done and CRC. -/
def spiResp (data : List Byte) (code done : Nat) : List Byte :=
  let body := data ++ leBytes 1 code ++ [0] ++ beBytes 2 done
  0xA5 :: (body ++ beBytes 2 (crc16 body).toNat)

def State.setSpi (s : State) (x : Spi) : State := { s with spi := x }

/-- A transaction received whole ends: it is remembered for op 0x05, and the response goes out. -/
def spiEnd (s : State) (data : List Byte) (code done : Nat) : State :=
  s.setSpi { s.spi with any := true, aborted := false, code := code, done := done, count := s.spi.count + 1, resp := spiResp data code done }

/-- The same for a transaction that executed or was refused at its window (SYS_HSTAT.last). -/
def spiRan (s : State) (data : List Byte) (code done : Nat) : State :=
  spiEnd (s.fput F.SYS_HSTAT_last code) data code done

/-- A read transaction. -/
def spiRunRead (s : State) (r : SpiReq) : State :=
  let n := r.len.toNat / 4
  let x := spiReads n (spiBase s r) s
  let data := x.1.flatMap (fun w => leBytes 4 w.toNat)
  spiRan x.2.2 (data ++ List.replicate (r.len.toNat - data.length) 0) x.2.1 x.1.length

/-- A write transaction's writes of RWS fields know their place in it. -/
def markPlaces (s : State) (base n : Nat) : State :=
  { s with sealr := { s.sealr with rws := s.sealr.rws.map (fun (x : RwsWrite) =>
      if x.at_ = s.now ∧ x.req = .host ∧ x.tx = none ∧ base ≤ x.addr ∧ x.addr < base + 4 * n then
        { x with tx := some ((x.addr - base) / 4, s.spi.count) }
      else x) } }

/-- A write transaction. -/
def spiRunWrite (s : State) (r : SpiReq) : State :=
  let x := spiWrites (toWords r.data) (spiBase s r) s
  let t := spiRan x.2.2 [] x.2.1 x.1
  markPlaces t (spiBase s r) x.1

/-- Zeros in place of the data of a read that is refused whole. -/
def spiBlank (r : SpiReq) : List Byte := if r.op = spiRead then List.replicate r.len.toNat 0 else []

/-- Op 0x05: the trailer of the last transaction (R504). -/
def spiRepeatTrailer (s : State) : State :=
  let x := s.spi
  let t : Nat × Nat := if x.aborted then (8, 0) else if x.any then (x.code, x.done) else (0, 0)
  s.setSpi { x with resp := spiResp [] t.1 t.2 }

/-- A request refused before anything runs; op 0x05 itself never counts as a transaction (R504). -/
def spiRefused (s : State) (r : SpiReq) (code : Nat) : State :=
  let data := if code = 1 then [] else spiBlank r
  if r.op = spiRepeat then s.setSpi { s.spi with resp := spiResp data code 0 } else spiEnd s data code 0

/-- Serve a request received to its CRC (R502, R503). -/
def spiServe (s : State) (r : SpiReq) : State :=
  if s.mode = .reset then s
  else if ¬ spiWhole r then spiRefused (s.fincSat F.SYS_HSTAT_crce) r 2
  else if ¬ spiFormOk r then spiRefused s r 1
  else if r.op = spiRepeat then spiRepeatTrailer s
  else if ¬ spiAddrOk r then spiRefused s r 3
  else if ¬ spiWindowOk s r then spiRan s (spiBlank r) 6 0
  else if r.op = spiRead then spiRunRead s r
  else spiRunWrite s r

/-- READ_WORDS (R502). -/
def execReadWords (r : SpiReq) (s : State) : Out := .next (spiServe s { r with op := spiRead })

/-- WRITE_WORDS (R502). -/
def execWriteWords (r : SpiReq) (s : State) : Out := .next (spiServe s { r with op := spiWrite })

/-- REPEAT_THE_TRAILER (R504). -/
def execRepeatTheTrailer (r : SpiReq) (s : State) : Out := .next (spiServe s { r with op := spiRepeat })

/-- UNKNOWN_OPCODE (R503). -/
def execUnknownOpcode (r : SpiReq) (s : State) : Out := .next (if spiFormOk r then s else spiServe s r)

/-- HCS_N_ABORT (R504): before the request CRC nothing is executed; after it the response is lost. -/
def execHcsNAbort (r : Option SpiReq) (s : State) : Out :=
  if s.mode = .reset then .next s
  else
    let s := s.fincSat F.SYS_HSTAT_abrt
    match r with
    | none => .next (s.setSpi { s.spi with aborted := true, resp := [] })
    | some r =>
      let s := spiServe s r
      .next (s.setSpi { s.spi with resp := [] })

end Sys2Proof.Machine
end

