-- ==== Sys2Proof/Machine/SealSupply.lean ====
section
/-! DEFINITION. SW1, the seal reads in and outside RUN, and the logic supply (R477 to R482, R506, R510, R513, R524). -/

namespace Sys2Proof.Machine

/-! ### SW1 (R478) -/

/-- SW1 begins to count as on. -/
def sw1Counts (s : State) : State := (s.fput F.SEAL_NOW_sw1 1).fput F.SEAL_EV_sw1on 1

/-- SW1_ON (R478): both lanes read a good pair showing on. The first such reading starts the count of microticks; at
10 000 of them SW1 counts as on. -/
def execSw1On (s : State) : Out :=
  if s.mode = .reset then .next { s with sealr := { s.sealr with sw1 := ⟨2, 2⟩ } }
  else if ¬ s.sealr.sw1Pair then .next (showSw1 { s with sealr := { s.sealr with sw1 := ⟨2, 2⟩, onRun := 0 } })
  else if 10000 ≤ s.sealr.onRun ∧ ¬ s.sw1 then .next (sw1Counts s)
  else .next s

/-- The permissions that hang on SW1 are withdrawn: calibration requests end (R80); the others read SW1 where they
are used. -/
def withdrawSw1 (s : State) : State :=
  let s := (s.fput F.SEAL_NOW_sw1 0).fput F.SEAL_EV_sw1off 1
  showCalqNone ((s.rput R.CHN_CALQLO 0).rput R.CHN_CALQHI 0)
where
  /-- Lane A sends STDQ 0 to every channel under calibration. -/
  showCalqNone (s : State) : State := { s with chans := s.chans.map (fun c => { c with calQ := false }) }

/-- What a refused write has changed is put back, with what later words of its transaction have: they are not written (R502). -/
def putBackRws (s : State) (x : RwsWrite) : State :=
  let s := x.later.foldl (fun (s : State) e => if s.rget e.1 = e.2.2 then s.rput e.1 e.2.1 else s) s
  { s.rput x.addr x.old with comp := { s.comp with forced := x.forced } }

/-- A write of the host that is refused after all ends its transaction: the trailer code is 0x04 after the words before it (R502, R504).
A debugger's ends with `cmderr` 3 (R493). -/
def endRefused (s : State) (x : RwsWrite) : State :=
  match x.req, x.tx with
  | .host, some (i, k) =>
    if s.spi.count = k then
      let s := s.fput F.SYS_HSTAT_last 4
      s.setSpi { s.spi with code := 4, done := i, resp := if s.spi.resp = [] then [] else spiResp [] 4 i }
    else s
  | .debugger, _ => s.setTnd { s.tnd with cmderr := if s.tnd.cmderr = 0 then 3 else s.tnd.cmderr }
  | _, _ => s

/-- A write that changed an RWS field in the microtick in which SW1 goes off is refused (R487): all are put back, the last first, and
recorded in their order. -/
def undoRws (s : State) : State :=
  let l := s.sealr.rws.filter (fun x => x.at_ == s.now)
  let s := l.reverse.foldl putBackRws s
  l.foldl (fun s x => endRefused (refuse s x.req x.addr 2) x) s

/-- SW1_OFF (R478): either lane sees anything but a good pair showing on; where both see just that, it is on. -/
def execSw1Off (r : Sw1Read) (s : State) : Out :=
  if r = ⟨2, 2⟩ then execSw1On s
  else
    let s := { s with sealr := { s.sealr with sw1 := r, onRun := 0 } }
    if s.mode = .reset then .next s
    else
      let s := showSw1 s
      .next (if s.sw1 then withdrawSw1 (undoRws s) else s)

/-! ### SW2 to SW6 after the latch (R481, R482) -/

/-- A read against the latched seal: the cause that it gives (R481). -/
def sealCause (s : State) (ra rb : SealRead) : Option Nat :=
  if ¬ sealGood ra rb then some 0x28
  else if ra.code.toNat = s.fget F.SEAL_ACC_sw6 * 2 ^ 16 + s.fget F.SEAL_ACC_fp then none
  else some 0x22

/-- SEAL_READ_IN_RUN (R481): every 100 000 microticks in RUN and in SAFE. -/
def execSealReadInRun (ra rb : SealRead) (s : State) : Out :=
  if (s.mode ≠ .run ∧ s.mode ≠ .safe) ∨ s.now % 100000 ≠ 0 then .next s
  else
    let new := s.mode = .run ∨ sealDiffers s ra rb
    let s := showSeal s ra rb
    match sealCause s ra rb with
    | none => .next s
    | some c => .next (if new then deviceFault s c else s)

/-- The reads of SEAL_LATCH_READ stand for those of R482 while the seal is being latched, but not while a halt of the pair suspends
that (R361). -/
def latchReads (s : State) : Bool := (sealReads s).isSome && !s.tnd.halted

/-- SEAL_READ_OUTSIDE_RUN (R482): every 1000 µs from microtick 0 of STARTUP. A change outside STARTUP goes to the journal. -/
def execSealReadOutsideRun (ra rb : SealRead) (s : State) : Out :=
  if s.mode = .run ∨ s.mode = .safe ∨ s.mode = .reset ∨ latchReads s ∨ s.now % 1000 ≠ 0 then .next s
  else
    let chg := sealGood ra rb && sealDiffers s ra rb
    let s := showSeal s ra rb
    .next (if chg && s.mode != .startup then report s 1 [1, ra.code.toNat] else s)

/-! ### The logic supply (R506, R510, R513, R524) -/

/-- HOLDUP_CONNECT (R510): VL24 is at a level below the connect threshold; the charger is idle below 18 V. How far the charger has
brought the capacitor by then, up to 41 V, is open. Where HOLDUP has joined already, VL24 has moved to the level. -/
def execHoldupConnect (mv : Int) (s : State) : Out :=
  if s.pins.powerGood ∧ mv < point 48 1 16000 300 then
    let d := s.draw
    let t := if s.pins.charging then d.2 else s
    let held : Int := if s.pins.charging then max s.pins.holdup (d.1.toNat % 41001 : Nat) else s.pins.holdup
    .next { t with pins := { t.pins with vl24 := mv, holdup := held, holdupOn := true, charging := false } }
  else .next s

/-- HOLDUP_DISCONNECT (R524): VL24 has returned to a level above 16.3 V. HOLDUP leaves where the level is not below its voltage, and is
charged from 18 V on; a capacitor above the level carries the module on until a later one finds it discharged. VL24 above its rising
threshold makes power-good true again (R510), which ends the reset only with RESET_N high (R465). -/
def execHoldupDisconnect (mv : Int) (s : State) : Out :=
  if 16300 < mv ∧ powerReturns s mv then
    let s := vl24Stands s mv
    .next { s with pins := { s.pins with powerGood := true } }
  else .next s

/-- The bands of R513 in mV: VCA, VCB, VCH, VCT, VIO, VPIN. -/
def railBand (r : Fin 6) : Int × Int := if r.val < 4 then (760, 840) else if r.val = 4 then (1710, 1890) else (3140, 3460)

/-- INTERNAL_RAIL_OUT_OF_BAND (R506, R513). -/
def execInternalRailOutOfBand (rail : Fin 6) (mv : Int) (s : State) : Out :=
  let b := railBand rail
  if s.pins.powerGood ∧ (mv < b.1 ∨ b.2 < mv) then .next (deviceFault s 0x52) else .next s

end Sys2Proof.Machine
end

