-- ==== Sys2Proof/Machine/Dispatch.lean ====
section
/-! DEFINITION. One arm per command: its meaning, or a refusal by name. -/

namespace Sys2Proof.Machine

def exec (i : Instr) (s : State) : Host.Outcome State Fault Refusal :=
  match i with
  | .resetNLow ns => Sys2Proof.Machine.execResetNLow ns s
  | .powerGoodLost => Sys2Proof.Machine.execPowerGoodLost s
  | .startupBegin bm0 bm1 obs => Sys2Proof.Machine.execStartupBegin bm0 bm1 obs s
  | .initEntryTimeout => Sys2Proof.Machine.execInitEntryTimeout s
  | .initEntryReturn press cmpOk => Sys2Proof.Machine.execInitEntryReturn press cmpOk s
  | .sealLatchRead ra rb obs => Sys2Proof.Machine.execSealLatchRead ra rb obs s
  | .acceptPairAppend => Sys2Proof.Machine.execAcceptPairAppend s
  | .microtick ca cb => Sys2Proof.Machine.execMicrotick ca cb s
  | .laneTickTimeout l => Sys2Proof.Machine.execLaneTickTimeout l s
  | .enableMonitorTimeout l => Sys2Proof.Machine.execEnableMonitorTimeout l s
  | .fieldSample ch o => Sys2Proof.Machine.execFieldSample ch o s
  | .uplinkFrameReceived ch frame codeErr => Sys2Proof.Machine.execUplinkFrameReceived ch frame codeErr s
  | .downlinkFrameReceived ch frame codeErr => Sys2Proof.Machine.execDownlinkFrameReceived ch frame codeErr s
  | .logicSilentTimeout ch l => Sys2Proof.Machine.execLogicSilentTimeout ch l s
  | .programmedStateTimeout ch => Sys2Proof.Machine.execProgrammedStateTimeout ch s
  | .linkAcquisition ch => Sys2Proof.Machine.execLinkAcquisition ch s
  | .auxWordApply ch => Sys2Proof.Machine.execAuxWordApply ch s
  | .feCommit ch => Sys2Proof.Machine.execFeCommit ch s
  | .feReopen ch => Sys2Proof.Machine.execFeReopen ch s
  | .configEchoTimeout ch reg => Sys2Proof.Machine.execConfigEchoTimeout ch reg s
  | .sourceLimitTrip ch => Sys2Proof.Machine.execSourceLimitTrip ch s
  | .sourceRetry ch lim => Sys2Proof.Machine.execSourceRetry ch lim s
  | .indeterminateFlag ch => Sys2Proof.Machine.execIndeterminateFlag ch s
  | .wireBreakFault ch => Sys2Proof.Machine.execWireBreakFault ch s
  | .dipStart ch => Sys2Proof.Machine.execDipStart ch s
  | .dipWindowClose slot => Sys2Proof.Machine.execDipWindowClose slot s
  | .feExercise ch o => Sys2Proof.Machine.execFeExercise ch o s
  | .feSelfTimeout ch => Sys2Proof.Machine.execFeSelfTimeout ch s
  | .outputStageTest ch => Sys2Proof.Machine.execOutputStageTest ch s
  | .outputStageTestDone ch pass => Sys2Proof.Machine.execOutputStageTestDone ch pass s
  | .currentLimitTrip ch => Sys2Proof.Machine.execCurrentLimitTrip ch s
  | .currentLimitLatchClear ch => Sys2Proof.Machine.execCurrentLimitLatchClear ch s
  | .supplyBandChange ch mv => Sys2Proof.Machine.execSupplyBandChange ch mv s
  | .bridgingTimeout ch => Sys2Proof.Machine.execBridgingTimeout ch s
  | .bridgingTimerReset ch => Sys2Proof.Machine.execBridgingTimerReset ch s
  | .supplyLatchClear ch => Sys2Proof.Machine.execSupplyLatchClear ch s
  | .darkTestSlotStart k => Sys2Proof.Machine.execDarkTestSlotStart k s
  | .darkTestObservationClose k => Sys2Proof.Machine.execDarkTestObservationClose k s
  | .darkTestRestoreClose k => Sys2Proof.Machine.execDarkTestRestoreClose k s
  | .offStateFeedDetect ch => Sys2Proof.Machine.execOffStateFeedDetect ch s
  | .openLoadFlag ch => Sys2Proof.Machine.execOpenLoadFlag ch s
  | .sharingBlockEnd => Sys2Proof.Machine.execSharingBlockEnd s
  | .groupCurrentBlockEnd => Sys2Proof.Machine.execGroupCurrentBlockEnd s
  | .overloadStdqRelease g => Sys2Proof.Machine.execOverloadStdqRelease g s
  | .laneACycleStart c o upset => Sys2Proof.Machine.execLaneACycleStart c o upset s
  | .laneBCycleStart c o upset => Sys2Proof.Machine.execLaneBCycleStart c o upset s
  | .windowClose l slot => Sys2Proof.Machine.execWindowClose l slot s
  | .evaluationOverrun l clocks => Sys2Proof.Machine.execEvaluationOverrun l clocks s
  | .sliceOverrun l step => Sys2Proof.Machine.execSliceOverrun l step s
  | .coverageDeadline => Sys2Proof.Machine.execCoverageDeadline s
  | .laneRelease l f parityFlips => Sys2Proof.Machine.execLaneRelease l f parityFlips s
  | .outputUpdatePoint f => Sys2Proof.Machine.execOutputUpdatePoint f s
  | .shadowSlotCheck fa fb => Sys2Proof.Machine.execShadowSlotCheck fa fb s
  | .configReadbackPass us flipsA flipsB => Sys2Proof.Machine.execConfigReadbackPass us flipsA flipsB s
  | .syncInEdge widthNs => Sys2Proof.Machine.execSyncInEdge widthNs s
  | .syncSourceTimeout => Sys2Proof.Machine.execSyncSourceTimeout s
  | .syncRearm req w => Sys2Proof.Machine.execSyncRearm req w s
  | .hostRequestWrite req w => Sys2Proof.Machine.execHostRequestWrite req w s
  | .forcedMismatch req w => Sys2Proof.Machine.execForcedMismatch req w s
  | .sessionSendInstant sid => Sys2Proof.Machine.execSessionSendInstant sid s
  | .telegramReceived => Sys2Proof.Machine.execTelegramReceived s
  | .consumerWatchdog sid => Sys2Proof.Machine.execConsumerWatchdog sid s
  | .echoAgeWindow sid => Sys2Proof.Machine.execEchoAgeWindow sid s
  | .failedDwellEnd sid => Sys2Proof.Machine.execFailedDwellEnd sid s
  | .frameReceived port f rxNs => Sys2Proof.Machine.execFrameReceived port f rxNs s
  | .nextHopRetry sid => Sys2Proof.Machine.execNextHopRetry sid s
  | .egressTransmit port => Sys2Proof.Machine.execEgressTransmit port s
  | .xoffRepeat port cls => Sys2Proof.Machine.execXoffRepeat port cls s
  | .bufferXon port cls => Sys2Proof.Machine.execBufferXon port cls s
  | .addressAgeing => Sys2Proof.Machine.execAddressAgeing s
  | .linkChange port up => Sys2Proof.Machine.execLinkChange port up s
  | .gateCycleStart port => Sys2Proof.Machine.execGateCycleStart port s
  | .gateListCommit req port w => Sys2Proof.Machine.execGateListCommit req port w s
  | .gptpSyncInterval port => Sys2Proof.Machine.execGptpSyncInterval port s
  | .syncReceiptTimeout port => Sys2Proof.Machine.execSyncReceiptTimeout port s
  | .frerRecoveryReset sid => Sys2Proof.Machine.execFrerRecoveryReset sid s
  | .streamFrame e => Sys2Proof.Machine.execStreamFrame e s
  | .forwardingEnable req w => Sys2Proof.Machine.execForwardingEnable req w s
  | .splitRequest req w => Sys2Proof.Machine.execSplitRequest req w s
  | .splitPoint differ => Sys2Proof.Machine.execSplitPoint differ s
  | .splitRequestLapse => Sys2Proof.Machine.execSplitRequestLapse s
  | .mergeRequest req w => Sys2Proof.Machine.execMergeRequest req w s
  | .mergePoint => Sys2Proof.Machine.execMergePoint s
  | .mergeComplete diff => Sys2Proof.Machine.execMergeComplete diff s
  | .mergeTimeout => Sys2Proof.Machine.execMergeTimeout s
  | .splitBudgetWarning => Sys2Proof.Machine.execSplitBudgetWarning s
  | .splitBudgetExpired => Sys2Proof.Machine.execSplitBudgetExpired s
  | .lockstepMismatch cls => Sys2Proof.Machine.execLockstepMismatch cls s
  | .diagnosticKick req w => Sys2Proof.Machine.execDiagnosticKick req w s
  | .diagnosticDeadline => Sys2Proof.Machine.execDiagnosticDeadline s
  | .machineTimerInterrupt => Sys2Proof.Machine.execMachineTimerInterrupt s
  | .hostMailboxWrite req w => Sys2Proof.Machine.execHostMailboxWrite req w s
  | .pairMailboxWrite req w => Sys2Proof.Machine.execPairMailboxWrite req w s
  | .status => Sys2Proof.Machine.execStatus s
  | .fuseService offset o => Sys2Proof.Machine.execFuseService offset o s
  | .checkFirmwareInTheCask => Sys2Proof.Machine.execCheckFirmwareInTheCask s
  | .bootFirmwareFromSram => Sys2Proof.Machine.execBootFirmwareFromSram s
  | .programSlot req idx addr o => Sys2Proof.Machine.execProgramSlot req idx addr o s
  | .blowLock req idx o => Sys2Proof.Machine.execBlowLock req idx o s
  | .raiseThermometer req level o => Sys2Proof.Machine.execRaiseThermometer req level o s
  | .fuseShadowMismatch => Sys2Proof.Machine.execFuseShadowMismatch s
  | .dmactiveWrite v => Sys2Proof.Machine.execDmactiveWrite v s
  | .debugPermitLapse => Sys2Proof.Machine.execDebugPermitLapse s
  | .debugHalt => Sys2Proof.Machine.execDebugHalt s
  | .debugResume => Sys2Proof.Machine.execDebugResume s
  | .singleStep pc => Sys2Proof.Machine.execSingleStep pc s
  | .accessRegister write regno value => Sys2Proof.Machine.execAccessRegister write regno value s
  | .accessMemory write addr value => Sys2Proof.Machine.execAccessMemory write addr value s
  | .memoryRead by_ addr u p => Sys2Proof.Machine.execMemoryRead by_ addr u p s
  | .memoryWrite req addr value be u => Sys2Proof.Machine.execMemoryWrite req addr value be u s
  | .deadlineWindowClose e => Sys2Proof.Machine.execDeadlineWindowClose e s
  | .logRelease req w => Sys2Proof.Machine.execLogRelease req w s
  | .edcLockSet req w => Sys2Proof.Machine.execEdcLockSet req w s
  | .scrubStart req w => Sys2Proof.Machine.execScrubStart req w s
  | .scrubAbort req w => Sys2Proof.Machine.execScrubAbort req w s
  | .scrubEnd => Sys2Proof.Machine.execScrubEnd s
  | .bankRemap req w => Sys2Proof.Machine.execBankRemap req w s
  | .remapComplete same => Sys2Proof.Machine.execRemapComplete same s
  | .appendARecord req w => Sys2Proof.Machine.execAppendARecord req w s
  | .appendCommit => Sys2Proof.Machine.execAppendCommit s
  | .startRacking req w => Sys2Proof.Machine.execStartRacking req w s
  | .retirePage req w => Sys2Proof.Machine.execRetirePage req w s
  | .writeSlotPage req w => Sys2Proof.Machine.execWriteSlotPage req w s
  | .lookUpTheLiveRecord req w => Sys2Proof.Machine.execLookUpTheLiveRecord req w s
  | .eventQueuePost source code detail data => Sys2Proof.Machine.execEventQueuePost source code detail data s
  | .eventAppend => Sys2Proof.Machine.execEventAppend s
  | .rackingTrigger => Sys2Proof.Machine.execRackingTrigger s
  | .rackingSeal => Sys2Proof.Machine.execRackingSeal s
  | .powerFailWarning mv => Sys2Proof.Machine.execPowerFailWarning mv s
  | .powerFailWarningClear => Sys2Proof.Machine.execPowerFailWarningClear s
  | .holdupConnect mv => Sys2Proof.Machine.execHoldupConnect mv s
  | .internalRailOutOfBand rail mv => Sys2Proof.Machine.execInternalRailOutOfBand rail mv s
  | .sw1On => Sys2Proof.Machine.execSw1On s
  | .sw1Off pairGood => Sys2Proof.Machine.execSw1Off pairGood s
  | .sealReadInRun ra rb => Sys2Proof.Machine.execSealReadInRun ra rb s
  | .sealReadOutsideRun ra rb => Sys2Proof.Machine.execSealReadOutsideRun ra rb s
  | .restartRequest req w => Sys2Proof.Machine.execRestartRequest req w s
  | .restartReset => Sys2Proof.Machine.execRestartReset s
  | .bstOrderWrite req hi w => Sys2Proof.Machine.execBstOrderWrite req hi w s
  | .readWords r => Sys2Proof.Machine.execReadWords r s
  | .writeWords r => Sys2Proof.Machine.execWriteWords r s
  | .repeatTheTrailer r => Sys2Proof.Machine.execRepeatTheTrailer r s
  | .hcsNAbort r => Sys2Proof.Machine.execHcsNAbort r s
  | .registerWrite req addr w => Sys2Proof.Machine.execRegisterWrite req addr w s
  | .holdupDisconnect mv => Sys2Proof.Machine.execHoldupDisconnect mv s
  | .pauseTimerExpiry port queue => Sys2Proof.Machine.execPauseTimerExpiry port queue s
  | .announceReceiptTimeout port => Sys2Proof.Machine.execAnnounceReceiptTimeout port s
  | .latchingRegisterRead req addr => Sys2Proof.Machine.execLatchingRegisterRead req addr s
  | .unknownOpcode r => Sys2Proof.Machine.execUnknownOpcode r s

end Sys2Proof.Machine
end

