-- ==== Sys2Proof/Safety.lean ====
section
/-! DEFINITION. The terms that statements use: the well-formed state, the table of states of the module, what
may change and what stays, and what a fault leaves behind. -/

namespace Sys2Proof.Machine

/-! ### Well-formed states -/

/-- Every byte memory is in canonical form, and the register table, the error log and the read latches are in rising
order. -/
def State.wf (s : State) : Bool :=
  risingKeys s.regs.entries && risingKeys s.memc.log.entries && risingKeys s.spi.latchP.entries
    && risingKeys s.spi.latchH.entries
    && memWf 0 s.cask.bytes && memWf 0 s.memc.sram.bytes && memWf 0 s.memc.spare.bytes
    && memWf 0 s.memc.tcmM.bytes && memWf 0 s.memc.tcmC.bytes && memWf 0 s.la.cfg && memWf 0xFF s.lb.cfg

/-- The queues and caches that the spec bounds: the event queue of 64 entries (R402), the engine's queue of 64
telegrams (R300), the address table of 4096 entries (R315), and the cache of four Cask pages (R373). -/
def State.bounded (s : State) : Prop :=
  s.cask.queue.length ≤ 64 ∧ s.net.engine.length ≤ 64 ∧ s.net.macs.length ≤ 4096 ∧ s.cask.cache.length ≤ 4

/-! ### States of the module -/

/-- The state that may follow another in one command (R33). STARTUP_BEGIN runs start-up as far as the host's or the
firmware's next action, so that RESET may be followed by the state that start-up ends in (DESIGN CHOICE, log 42). -/
def mayFollow (a b : Mode) : Bool :=
  a == b || b == .reset ||
    match a with
    | .reset => b == .startup || b == .held || b == .twin
    | .startup => b == .held || b == .idle || b == .run || b == .twin
    | .idle => b == .safe
    | .run => b == .safe
    | .held => false
    | .safe => false
    | .twin => false

/-! ### Frames -/

/-- Every register outside the list keeps its word. -/
def sameRegsBut (s t : State) (l : List Nat) : Prop := ∀ a : Nat, a ∉ l → t.rget a = s.rget a

/-- Every front end outside the list is unchanged. -/
def sameFesBut (s t : State) (l : List Nat) : Prop := ∀ n : Nat, n ∉ l → t.fe n = s.fe n

/-- Every channel outside the list is unchanged on the logic side. -/
def sameChansBut (s t : State) (l : List Nat) : Prop := ∀ n : Nat, n ∉ l → t.chan n = s.chan n

/-- Every session outside the list is unchanged. -/
def sameSessBut (s t : State) (l : List Nat) : Prop := ∀ i : Nat, i ∉ l → t.sess i = s.sess i

/-- Every port outside the list is unchanged. -/
def samePortsBut (s t : State) (l : List Nat) : Prop := ∀ p : Nat, p ∉ l → t.port p = s.port p

/-- No byte of any memory has changed: the Cask, SRAM with its spare bank, both TCMs, both configurations. -/
def sameMemories (s t : State) : Prop :=
  (∀ a : Nat, memGet 0 t.cask.bytes a = memGet 0 s.cask.bytes a)
    ∧ (∀ a : Nat, memGet 0 t.memc.sram.bytes a = memGet 0 s.memc.sram.bytes a)
    ∧ (∀ a : Nat, memGet 0 t.memc.spare.bytes a = memGet 0 s.memc.spare.bytes a)
    ∧ (∀ a : Nat, memGet 0 t.memc.tcmM.bytes a = memGet 0 s.memc.tcmM.bytes a)
    ∧ (∀ a : Nat, memGet 0 t.memc.tcmC.bytes a = memGet 0 s.memc.tcmC.bytes a)
    ∧ t.la.cfg = s.la.cfg ∧ t.lb.cfg = s.lb.cfg

/-- No fuse reads otherwise at either margin. -/
def sameFuses (s t : State) : Prop := t.otp.normal = s.otp.normal ∧ t.otp.strict = s.otp.strict

/-- Every fuse that read 1 at either margin still does. -/
def fusesStayBlown (s t : State) : Prop :=
  ∀ w : Nat, s.otp.normal.get 0 w &&& ~~~ t.otp.normal.get 0 w = 0#32
    ∧ s.otp.strict.get 0 w &&& ~~~ t.otp.strict.get 0 w = 0#32

/-- The configuration words of every channel and of the test pulses are unchanged (R80). -/
def sameChannelConfig (s t : State) : Prop :=
  (∀ n : Fin 48, t.rget (R.CHN_CFG n) = s.rget (R.CHN_CFG n) ∧ t.rget (R.CHN_FILT n) = s.rget (R.CHN_FILT n)
      ∧ t.rget (R.CHN_OCFG n) = s.rget (R.CHN_OCFG n) ∧ t.rget (R.CHN_LST n) = s.rget (R.CHN_LST n))
    ∧ t.rget R.CHN_TPCFG = s.rget R.CHN_TPCFG

/-- The configuration words after a command that may stop the module: those of a channel that leaves its mode are 0 where
the module has gone to SAFE or HELD, and nothing else has changed (R44, R80). -/
def keptChannelConfig (s t : State) : Prop :=
  (∀ n : Fin 48,
      (t.rget (R.CHN_CFG n) = s.rget (R.CHN_CFG n)
        ∨ (t.rget (R.CHN_CFG n) = 0#32 ∧ t.mode ≠ s.mode ∧ (t.mode = .safe ∨ t.mode = .held)))
      ∧ t.rget (R.CHN_FILT n) = s.rget (R.CHN_FILT n) ∧ t.rget (R.CHN_OCFG n) = s.rget (R.CHN_OCFG n)
      ∧ t.rget (R.CHN_LST n) = s.rget (R.CHN_LST n))
    ∧ t.rget R.CHN_TPCFG = s.rget R.CHN_TPCFG

/-- Only registers have changed. -/
def onlyRegs (s t : State) : Prop := t = { s with regs := t.regs }

/-- Only registers and front ends have changed. -/
def onlyFes (s t : State) : Prop := t = { s with regs := t.regs, fes := t.fes }

/-- Only registers and the logic side of channels have changed. -/
def onlyChans (s t : State) : Prop := t = { s with regs := t.regs, chans := t.chans, pins := t.pins }

/-- Only registers, front ends and the logic side of channels have changed. -/
def onlyField (s t : State) : Prop := t = { s with regs := t.regs, fes := t.fes, chans := t.chans, pins := t.pins }

/-- Only registers, front ends, the logic side of channels and the groups' books have changed. -/
def onlySupply (s t : State) : Prop := t = { s with regs := t.regs, fes := t.fes, chans := t.chans, groups := t.groups }

/-- Only registers and the Tandem pair have changed. -/
def onlyTandem (s t : State) : Prop := t = { s with regs := t.regs, tnd := t.tnd }

/-- Only registers and the switch have changed. -/
def onlyNet (s t : State) : Prop := t = { s with regs := t.regs, net := t.net, freshIdx := t.freshIdx }

/-- The registers that posting an event may write (R402). -/
def eventRegs : List Nat := [R.CSK_EVQ, R.CSK_EV]

/-! ### Outcomes of faults -/

/-- Every channel has gone to measurement only, but for the standard outputs where they keep their state (R44, R256,
R257): the front ends, and the configuration words. -/
def wentMeasuring (s t : State) (keepStd : Bool) : Prop :=
  (∀ n : Nat, t.fe n = if keepStd && (s.fe n).isStd then s.fe n else measureFe (s.fe n))
    ∧ (∀ n : Fin 48,
        t.rget (R.CHN_CFG n) = (if keepStd = true ∧ s.chMode n = 5 then s.rget (R.CHN_CFG n) else 0#32)
        ∧ t.rget (R.CHN_FILT n) = s.rget (R.CHN_FILT n) ∧ t.rget (R.CHN_OCFG n) = s.rget (R.CHN_OCFG n)
        ∧ t.rget (R.CHN_LST n) = s.rget (R.CHN_LST n))
    ∧ t.rget R.CHN_TPCFG = s.rget R.CHN_TPCFG

/-- The module has gone to SAFE with a cause in this microtick (R222, R226): the cause with its stamp, both enables
told to stop, FAULT_N and SYNC_OUT low, every consumer session FAILED, and every channel but the standard outputs in
measurement only. -/
def wentSafe (s t : State) (cause : Nat) : Prop :=
  t.mode = .safe ∧ t.rget R.SYS_FAULT = BitVec.ofNat 32 (0xC0000000 + cause) ∧ t.rget R.SYS_FTS = s.stamp
    ∧ t.safeFrom = s.now ∧ t.enA.line = true ∧ t.enB.line = true ∧ t.pins.faultN = false ∧ t.pins.syncOut = false
    ∧ (∀ i : Fin 160, s.fget (F.SES_CFG_role i) = 2 → (t.sess i).ha.st = .failed ∧ (t.sess i).hb.restore.st = .failed)
    ∧ wentMeasuring s t true ∧ sameFuses s t ∧ t.tick = s.tick

/-- The module stays in HELD with a cause found in STARTUP (R33, R223, R485). -/
def wentHeld (s t : State) (cause : Nat) : Prop :=
  t.mode = .held ∧ t.rget R.SYS_FAULT = BitVec.ofNat 32 (0x80000000 + cause) ∧ t.rget R.SYS_FTS = s.stamp
    ∧ t.rget R.TND_PMBX = 0xB0000002#32 ∧ wentMeasuring s t false ∧ sameFuses s t ∧ t.tick = s.tick

/-- A channel fault of a cause is present on a channel (R35, R71, R81). -/
def faulted (t : State) (n : Nat) (k : ChCause) : Prop :=
  (t.chan n).causes.contains k = true ∧ (t.chan n).faulted = true ∧ t.fget (F.CHN_STAT_valid n) = 0
    ∧ (k ≠ .flt → t.fget (causeFld n k) = 1) ∧ t.pins.faultN = false

/-- What entry to reset leaves (R343, R465, R467): every register but the reset cause at its reset value, memories
invalid, both cores at the boot ROM's start, fuses and the Cask's array kept, no link, every switch of a safety
output open, and every front end but those of standard outputs in measurement only (R44). -/
def wentReset (s t : State) : Prop :=
  t.mode = .reset ∧ t.pins.faultN = false ∧ (∀ a : Nat, a ≠ R.SYS_RCAUSE → t.rget a = regReset a)
    ∧ t.memc = MemCtl.reset ∧ t.tnd = Tandem.reset ∧ sameFuses s t
    ∧ (∀ n : Nat, (t.fe n).locked = false ∧ t.fe n = feAtReset (s.fe n))
    ∧ (∀ n : Nat, (s.fe n).mode = 4 → (t.fe n).hs = false ∧ (t.fe n).ls = false)

/-- A latch that clears leaves the high-side switch as it is, unless it has held back a programmed state that is on (R256,
R259). -/
def keptOrProgrammed (f g : Fe) : Prop :=
  g.hs = if f.prog && f.hsWant && g.mayDrive && g.band != .sag then true else f.hs

/-! ### Access faults -/

/-- A core has taken a trap with a cause and an address (R493; the CSRs are the family's, log 31). -/
def tookTrap (c d : Core) (cause addr : Word) : Prop :=
  d.csrOf csrMcause = cause ∧ d.csrOf csrMtval = addr ∧ d.pc = c.csrOf csrMtvec &&& 0xFFFFFFFC#32
    ∧ d.x = c.x ∧ d.trig = c.trig

/-- The core of a refused access has taken an access fault, in lockstep both cores; nothing else has changed. An access of the
host or the debugger, or of a checker core whose outputs do not reach the bus, changes nothing at all (R341, R344, R493). -/
def accessFaulted (s t : State) (req : Requester) (cause addr : Word) : Prop :=
  t = { s with tnd := { s.tnd with main := t.tnd.main, chk := t.tnd.chk }, freshIdx := t.freshIdx } ∧
    match req with
    | .host => t = s
    | .debugger => t = s
    | .checker => t.tnd.main = s.tnd.main
        ∧ (if s.inLockstep then t.tnd.chk = s.tnd.chk else tookTrap s.tnd.chk t.tnd.chk cause addr)
    | _ => tookTrap s.tnd.main t.tnd.main cause addr
        ∧ (if s.inLockstep then tookTrap s.tnd.chk t.tnd.chk cause addr else t.tnd.chk = s.tnd.chk)

/-- The main core has taken the interrupt of those pending that comes first, external before software before timer, where it runs and
its mstatus and mie enable it (R346; the order and the CSRs are the family's, log 31). -/
def irqTaken (s : State) (pend : Word) (t : State) : Prop :=
  let m := s.tnd.main
  let p := pend &&& m.csrOf csrMie
  let code : Word := if p.getLsbD 11 then 11 else if p.getLsbD 3 then 3 else 7
  let any : Bool := p.getLsbD 11 || p.getLsbD 3 || p.getLsbD 7
  let on : Bool := !s.tnd.halted && (m.csrOf csrMstatus).getLsbD 3 && any
  (on = false → t.tnd.main.pc = m.pc)
    ∧ (on = true → t.tnd.main.csrOf csrMcause = 0x80000000#32 + code
        ∧ (t.tnd.main.csrOf csrMstatus).getLsbD 3 = false ∧ (t.tnd.main.csrOf csrMstatus).getLsbD 7 = true
        ∧ t.tnd.main.pc = (m.csrOf csrMtvec &&& 0xFFFFFFFC#32)
            + (if (m.csrOf csrMtvec).getLsbD 0 then 4#32 * code else 0#32))
    ∧ t.tnd.main.x = m.x

/-! ### Register writes -/

/-- No trigger of the debug module acts on an access of a requester (R357). -/
def noTrigger (s : State) (req : Requester) (kind : Nat) (a : Word) : Bool := (trigOf s req kind a).isNone

/-- A write reaches the register region: aligned, inside the block spans, from a requester that may write there, and with no
trigger of the debug module on it (R341, R344, R357, R491, R492). -/
def reachesRegs (s : State) (req : Requester) (a : Nat) : Bool :=
  s.mode != .reset && !(req == .checker && s.inLockstep) && a % 4 == 0 && inSpan a && mayWrite s req a
    && noTrigger s req onStore (BitVec.ofNat 32 a)

/-- A write that access codes, ranges and rules let pass (R11 to R14, R492, R493, R537). -/
def writeAccepted (s : State) (req : Requester) (a : Nat) (w : Word) : Bool :=
  reachesRegs s req a &&
    match regDesc a with
    | none => false
    | some d => accessWhy s d a (maskUsed d w) == 0 && rangeOk s a (maskUsed d w) && ruleOk s req d a (maskUsed d w)

/-- A write that reaches a described register and breaks an access code, a range or a rule (R493, R537). -/
def writeRefused (s : State) (req : Requester) (a : Nat) (w : Word) : Bool :=
  reachesRegs s req a &&
    match regDesc a with
    | none => false
    | some d => !(accessWhy s d a (maskUsed d w) == 0 && rangeOk s a (maskUsed d w) && ruleOk s req d a (maskUsed d w))

/-- A request of the host as it is sent, with its CRC over opcode, address, length and data (R500). -/
def sentReq (op : Byte) (a : BitVec 24) (len : BitVec 16) (data : List Byte) : SpiReq :=
  ⟨op, a, len, data, crc16 (spiBytes ⟨op, a, len, data, 0⟩)⟩

/-- A refused write has been recorded and has changed nothing else (R493, R505). -/
def refusedWith (s t : State) (req : Requester) (a why : Nat) : Prop :=
  onlyRegs s t ∧ sameRegsBut s t [R.SYS_REFA, R.SYS_REFI] ∧ t.rget R.SYS_REFA = BitVec.ofNat 32 a
    ∧ t.fget F.SYS_REFI_vld = 1 ∧ t.fget F.SYS_REFI_req = (if isHost req then 1 else 0) ∧ t.fget F.SYS_REFI_why = why
    ∧ t.fget F.SYS_REFI_cnt = min (s.fget F.SYS_REFI_cnt + 1) 65535

/-- The commands that may change a byte of a memory: entry to reset, start-up and loading, writes of registers that
hold commands of the boot ROM or the Cask controller, memory writes, and the work of the Cask controller, the
scrubber, the remap, the merge and the readback with upsets. -/
def mayStore : Instr → Bool
  | .resetNLow _ => true
  | .powerGoodLost => true
  | .restartReset => true
  | .startupBegin _ _ _ => true
  | .sealLatchRead _ _ _ => true
  | .acceptPairAppend => true
  | .configReadbackPass _ _ _ => true
  | .mergePoint => true
  | .hostMailboxWrite _ _ => true
  | .bootFirmwareFromSram => true
  | .memoryWrite _ _ _ _ _ => true
  | .scrubEnd => true
  | .remapComplete _ => true
  | .appendARecord _ _ => true
  | .appendCommit => true
  | .startRacking _ _ => true
  | .retirePage _ _ => true
  | .writeSlotPage _ _ => true
  | .eventAppend => true
  | .rackingTrigger => true
  | .rackingSeal => true
  | .powerFailWarning _ => true
  | .powerFailWarningClear => true
  | .registerWrite _ _ _ => true
  | .accessMemory _ _ _ => true
  | .writeWords _ => true
  | .hcsNAbort _ => true
  | _ => false

/-- The commands that may change a channel's configuration words: reset, loading, register writes, a store to the register region
among them, and SW1_OFF, which puts writes back (R487). -/
def mayConfigure : Instr → Bool
  | .resetNLow _ => true
  | .powerGoodLost => true
  | .restartReset => true
  | .sealLatchRead _ _ _ => true
  | .registerWrite _ _ _ => true
  | .accessMemory _ _ _ => true
  | .memoryWrite _ addr _ _ _ => regionOf addr.toNat == .regs
  | .sw1Off _ => true
  | .writeWords _ => true
  | .hcsNAbort _ => true
  | _ => false

end Sys2Proof.Machine
end

