-- ==== Sys2Proof/Certificates/Slice0/Obligations.lean ====
section
/-! DEFINITION. The statements for the provers. Each docstring names the rule or the section of spec/ that the
statement rests on. -/

section
open Sys2Proof Sys2Proof.Machine

/-! ### The whole block -/

/-- A step takes the command at the front of the queue and runs it with the rest of the queue. Where the spec leaves it
open this rests on the model's choice of log 5. -/
def Obligations.StepTakesFrontCommand : Prop :=
  ∀ (c : Instr) (rest : List Instr) (s : State),
    step { s with pending := c :: rest } = exec c { s with pending := rest }

/-- Every command answers a next state, and leaves the queue of waiting commands alone. Where the spec leaves it open
this rests on the model's choice of log 1. -/
def Obligations.EveryCommandAnswers : Prop :=
  ∀ (c : Instr) (s : State), ∃ t : State, exec c s = .next t ∧ t.pending = s.pending

/-- The module changes its state only as the table of R33 allows: SAFE, HELD and TWIN are left only for reset, IDLE only
for reset or SAFE, and RUN is entered only from STARTUP. Where the spec leaves it open this rests on the model's
choice of log 42. -/
def Obligations.ModeChangesFollowTable : Prop :=
  ∀ (c : Instr) (s t : State), exec c s = .next t → mayFollow s.mode t.mode = true

/-- Every step keeps every byte memory in canonical form and the register table in rising order. Where the spec leaves
it open this rests on the model's choice of log 4. -/
def Obligations.StepKeepsStatesWf : Prop :=
  ∀ s t : State, s.wf = true → step s = .next t → t.wf = true

/-- Every step keeps the event queue, the engine's queue, the address table and the page cache inside their sizes
(R300, R315, R373, R402). -/
def Obligations.StepKeepsQueuesBounded : Prop :=
  ∀ s t : State, s.bounded → step s = .next t → t.bounded

/-- The state after a power-on reset: well formed, bounded, in reset, with no link and every switch open (R465, R467);
both cores in lockstep at address 0 of the boot ROM (R343), FAULT_N low (R484) and every TCM word invalid (R368). Where the spec leaves
it open this rests on the model's choice of log 3 and log 4. -/
def Obligations.ResetIsWellFormed : Prop :=
  State.reset.wf = true ∧ State.reset.bounded ∧ State.reset.mode = .reset ∧ State.reset.pins.faultN = false
    ∧ (∀ n : Nat, (State.reset.fe n).locked = false ∧ (State.reset.fe n).hs = false ∧ (State.reset.fe n).ls = false)
    ∧ State.reset.tnd.main.pc = 0#32 ∧ State.reset.tnd.chk.pc = 0#32 ∧ State.reset.inLockstep = true
    ∧ ∀ i : Nat, State.reset.memc.tcmM.valid.get false i = false ∧ State.reset.memc.tcmC.valid.get false i = false

/-- No step makes a blown fuse read 0 again, at normal or at strict margin (R424, R438). -/
def Obligations.StepKeepsFusesBlown : Prop :=
  ∀ s t : State, step s = .next t → fusesStayBlown s t

/-- A command that is none of those that may store changes no byte of any memory: writes to a memory (R369), journal pages
(R401, R403), load (R474), split and merge (R352), and the work of a scrub, a remap and racking (R383, R385, R411), which in
the model shows at SCRUB_END and REMAP_COMPLETE (log 37) and at RACKING_SEAL (log 39) alone. One other than reset, loading, a
register write, a store to the register region and SW1_OFF, which puts writes back (R487), changes no configuration word of a
channel, but for the mode of a channel that stops with the module (R44, R80). -/
def Obligations.OtherCommandsKeepMemoryAndConfig : Prop :=
  ∀ (c : Instr) (s t : State), exec c s = .next t →
    (mayStore c = false → sameMemories s t) ∧ (mayConfigure c = false → keptChannelConfig s t)

/-! ### Reset and start-up -/

/-- Entry to reset by RESET_N, by loss of power-good, and by the restart reset after its record has committed (R465 to
R467, R483); a RESET_N level below 500 ns has no effect (R466). Where the spec leaves it open this rests on the
model's choice of log 40. -/
def Obligations.ResetEntry : Prop :=
  ∀ (s : State) (ns : Nat),
    (1000 ≤ ns → ∃ t, exec (.resetNLow ns) s = .next t ∧ wentReset s t ∧ t.pins.resetHigh = false
        ∧ t.rget R.SYS_RCAUSE = s.rget R.SYS_RCAUSE ||| 2#32)
    ∧ (ns < 500 → exec (.resetNLow ns) s = .next s)
    ∧ (∃ t, exec .powerGoodLost s = .next t ∧ wentReset s t ∧ t.pins.powerGood = false ∧ t.rget R.SYS_RCAUSE = 1#32)
    ∧ (s.boot.rstAccept = true → s.boot.rstEvent = 0 → s.otp.call = false →
        ∃ t, exec .restartReset s = .next t ∧ wentReset s t ∧ t.rget R.SYS_RCAUSE = s.rget R.SYS_RCAUSE)

/-- STARTUP_BEGIN latches the straps and starts the microtick count at 0 (R83, R468); after a loss of power-good it waits
for VL24 to rise through 17.2 V, of whose tolerance the statement takes the sure sides (R510); a failed clear of the valid pairs
or a failed fuse read ends in HELD with its cause (R445); with the tests passed, the module is in TWIN, or waits for
the host's firmware (R469, R470, R475, R485). Where the spec leaves it open this rests on the model's choice of log
2, log 7, log 42 and log 47. -/
def Obligations.StartupBegins : Prop :=
  ∀ (s : State) (bm0 bm1 : Bool) (obs : StartObs), s.mode = .reset →
    (s.pins.powerGood = false → obs.vl24 < 16900 → exec (.startupBegin bm0 bm1 obs) s = .next s)
    ∧ (s.pins.powerGood = true ∨ 17500 ≤ obs.vl24 → ∃ t, exec (.startupBegin bm0 bm1 obs) s = .next t
      ∧ t.fget F.SYS_STRAP_bm0 = (if bm0 then 1 else 0) ∧ t.fget F.SYS_STRAP_bm1 = (if bm1 then 1 else 0)
      ∧ t.tick = 0#64 ∧ t.pins.resetHigh = true ∧ t.pins.powerGood = true ∧ t.pins.vl24 = obs.vl24
      ∧ (obs.validClear = false → t.mode = .held ∧ t.rget R.SYS_FAULT = 0x80000043#32)
      ∧ (obs.validClear = true → obs.fuseRead = false → t.mode = .held ∧ t.rget R.SYS_FAULT = 0x80000070#32)
      ∧ ((hardwareTests (beginStartup s bm0 bm1 obs.vl24) bm1 obs).1 = true →
          (bm1 = true → t.mode = .twin ∧ t.rget R.TND_PMBX = 0xB0000003#32 ∧ t.fget F.TND_STAT_mode = 3)
          ∧ (bm1 = false → bm0 = true →
              t.mode = .startup ∧ t.boot.phase = .hostWait ∧ t.rget R.TND_PMBX = 0xB0000001#32)))

/-- The init entry's return inside its 10 ms runs tests 4 and 5; a failed test ends in HELD with its cause, and an entry
that has not returned in time ends in HELD with cause 0x27 (R84, R445, R476). Where the spec leaves it open this
rests on the model's choice of log 11, log 47 and log 52: with test 4 failed in both lanes BST_FAIL shows Lane A. -/
def Obligations.InitEntryEnds : Prop :=
  ∀ (s : State) (t0 : Nat) (okB cmpOk : Bool), s.mode = .startup → s.boot.phase = .initCall t0 → s.tnd.halted = false →
    (s.now < t0 + 10000 →
      (∃ t, exec (.initEntryReturn ⟨true, true⟩ true) s = .next t ∧ t.mode = .startup ∧ t.boot.phase = .sealRead 0 none
          ∧ t.boot.lanesOn = true ∧ t.fget F.BST_SU_ok = s.fget F.BST_SU_ok ||| 24 ∧ sameRegsBut s t [R.BST_SU]
          ∧ t = { s with boot := t.boot, regs := t.regs })
      ∧ (∃ t, exec (.initEntryReturn ⟨false, okB⟩ cmpOk) s = .next t ∧ wentHeld s t 0x61 ∧ t.fget F.BST_FAIL_lane = 0)
      ∧ (∃ t, exec (.initEntryReturn ⟨true, false⟩ cmpOk) s = .next t ∧ wentHeld s t 0x61 ∧ t.fget F.BST_FAIL_lane = 1)
      ∧ (∃ t, exec (.initEntryReturn ⟨true, true⟩ false) s = .next t ∧ wentHeld s t 0x62))
    ∧ (t0 + 10000 ≤ s.now → ∃ t, exec .initEntryTimeout s = .next t ∧ wentHeld s t 0x27)

/-- Reading the seal in STARTUP, 1000 µs apart: it is latched when two consecutive good reads agree; a read that does not
complete the latch is counted, and after the fifth the module goes to IDLE with cause 0x28 and reason 0x04 (R479,
R480). A latched SW6 of 4 or more is refused with cause 0x21; a read before it is due has no effect. Where the spec leaves it open this rests on the model's choice
of log 12 and log 16. -/
def Obligations.SealIsLatched : Prop :=
  ∀ (s : State) (n : Nat) (prev : Option (BitVec 20)) (ra rb : SealRead) (obs : LoadObs),
    s.mode = .startup → s.boot.phase = .sealRead n prev → s.tnd.halted = false →
    let v := if sealGood ra rb then some ra.code else none
    (latchDue s n = false → exec (.sealLatchRead ra rb obs) s = .next s)
    ∧ (latchDue s n = true → ¬ (v.isSome ∧ v = prev) → n + 1 < 5 →
      ∃ t, exec (.sealLatchRead ra rb obs) s = .next t ∧ t.mode = .startup ∧ t.boot.phase = .sealRead (n + 1) v
        ∧ t.fget F.SEAL_RAW_code = ra.code.toNat ∧ t.rget R.SEAL_RTS = s.stamp
        ∧ t.fget F.SEAL_NOW_good = (if sealGood ra rb then 1 else 0))
    ∧ (latchDue s n = true → ¬ (v.isSome ∧ v = prev) → 5 ≤ n + 1 →
      ∃ t, exec (.sealLatchRead ra rb obs) s = .next t ∧ t.mode = .idle ∧ t.rget R.SYS_FAULT = 0x80000028#32
        ∧ t.fget F.PRS_VREJ_reason = 4)
    ∧ (latchDue s n = true → v.isSome → v = prev →
      ∃ t, exec (.sealLatchRead ra rb obs) s = .next t ∧ (t.mode = .idle ∨ t.mode = .run ∨ t.mode = .held)
        ∧ t.fget F.SEAL_ACC_vld = 1 ∧ t.fget F.SEAL_ACC_sw6 = ra.code.toNat / 65536
        ∧ t.fget F.SEAL_ACC_fp = ra.code.toNat % 65536
        ∧ (4 ≤ ra.code.toNat / 65536 → t.mode = .idle ∧ t.rget R.SYS_FAULT = 0x80000021#32))

/-! ### Seal and supply -/

/-- SW1 counts as on after 10 000 microticks of readings good and on in both lanes, and as off at once where either lane
reads otherwise, with the calibration requests withdrawn (R80, R478) and an RWS write of the same microtick put back and refused
(R487), which ends a transaction of the host with trailer code 4 at that word (R502, R504); Lane A's contacts are shown, and a pair of either lane that is not complementary is a contact fault (R478, R490).
Reading SW2 to SW6 after the latch: in RUN, a good read that differs from the latched seal
gives cause 0x22 and one that is not good gives cause 0x28 (R481); outside RUN, where the seal is not being latched,
a change is shown every 1000 µs and is no fault (R482). Where the spec leaves it open this rests on the model's choice of log 16 and log 17. -/
def Obligations.SealIsWatched : Prop :=
  ∀ (s : State) (r : Sw1Read) (x : RwsWrite) (ra rb : SealRead), s.mode ≠ .reset →
    let acc := s.fget F.SEAL_ACC_sw6 * 65536 + s.fget F.SEAL_ACC_fp
    (s.sealr.sw1Pair = false →
      ∃ t, exec .sw1On s = .next t ∧ t.sealr.sw1Pair = true ∧ t.sealr.onRun = 0 ∧ t.fget F.SEAL_NOW_sw1 = s.fget F.SEAL_NOW_sw1
        ∧ t.fget F.SEAL_RAW_on1 = 1 ∧ t.fget F.SEAL_RAWN_off1 = 0
        ∧ sameRegsBut s t [R.SEAL_RAW, R.SEAL_RAWN] ∧ t = { s with sealr := t.sealr, regs := t.regs })
    ∧ (s.sealr.sw1Pair = true → 10000 ≤ s.sealr.onRun → s.fget F.SEAL_NOW_sw1 = 0 →
      ∃ t, exec .sw1On s = .next t ∧ t.fget F.SEAL_NOW_sw1 = 1 ∧ t.fget F.SEAL_EV_sw1on = 1
        ∧ sameRegsBut s t [R.SEAL_NOW, R.SEAL_EV] ∧ onlyRegs s t)
    ∧ (r ≠ ⟨2, 2⟩ → ∃ t, exec (.sw1Off r) s = .next t ∧ t.mode = s.mode ∧ t.fget F.SEAL_NOW_sw1 = 0 ∧ t.sealr.sw1Pair = false
        ∧ t.sealr.onRun = 0
        ∧ (s.sw1 = false ∨ s.sealr.rws = [] → t.fget F.SEAL_RAW_on1 = r.a.toNat / 2 ∧ t.fget F.SEAL_RAWN_off1 = r.a.toNat % 2
            ∧ t.fget F.SEAL_EV_cflt = (if r.a.toNat % 3 = 0 ∨ r.b.toNat % 3 = 0 then 1 else s.fget F.SEAL_EV_cflt)
            ∧ keptChannelConfig s t)
        ∧ (s.sw1 = true → s.sealr.rws = [x] → x.at_ = s.now → x.addr ∉ [R.SYS_REFA, R.SYS_REFI, R.SYS_HSTAT, R.SEAL_NOW, R.SEAL_EV, R.CHN_CALQLO, R.CHN_CALQHI] →
            t.rget x.addr = x.old ∧ t.comp.forced = x.forced ∧ t.rget R.SYS_REFA = BitVec.ofNat 32 x.addr ∧ t.fget F.SYS_REFI_vld = 1
            ∧ t.fget F.SYS_REFI_why = 2
            ∧ (x.later = [] → t.fget F.SYS_REFI_cnt = min (s.fget F.SYS_REFI_cnt + 1) 65535)
            ∧ (∀ i, x.req = .host → x.tx = some (i, s.spi.count) → t.spi.code = 4 ∧ t.spi.done = i ∧ t.fget F.SYS_HSTAT_last = 4))
        ∧ (s.fget F.SEAL_NOW_sw1 ≠ 0 → t.fget F.SEAL_EV_sw1off = 1 ∧ t.rget R.CHN_CALQLO = 0#32 ∧ t.rget R.CHN_CALQHI = 0#32
            ∧ ∀ n : Nat, (t.chan n).calQ = false)
        ∧ sameFesBut s t [] ∧ sameMemories s t ∧ sameFuses s t)
    ∧ (s.mode = .run → s.now % 100000 = 0 →
      (sealGood ra rb = true → ra.code.toNat = acc →
        ∃ t, exec (.sealReadInRun ra rb) s = .next t ∧ t.mode = .run ∧ t.fget F.SEAL_RAW_code = acc
          ∧ t.rget R.SEAL_RTS = s.stamp ∧ t = { s with sealr := t.sealr, regs := t.regs })
      ∧ (sealGood ra rb = true → ra.code.toNat ≠ acc →
        ∃ t, exec (.sealReadInRun ra rb) s = .next t ∧ wentSafe s t 0x22)
      ∧ (sealGood ra rb = false → ∃ t, exec (.sealReadInRun ra rb) s = .next t ∧ wentSafe s t 0x28))
    ∧ ((s.mode = .idle ∨ s.mode = .held ∨ s.mode = .twin ∨ s.mode = .startup) → latchReads s = false → s.now % 1000 = 0 →
      ∃ t, exec (.sealReadOutsideRun ra rb) s = .next t ∧ t.mode = s.mode ∧ t.fget F.SEAL_RAW_code = ra.code.toNat
        ∧ t.fget F.SEAL_NOW_good = (if sealGood ra rb then 1 else 0) ∧ t.rget R.SEAL_RTS = s.stamp
        ∧ (sealGood ra rb = true → sealDiffers s ra rb = true → t.fget F.SEAL_EV_chg = 1)
        ∧ t.rget R.SYS_FAULT = s.rget R.SYS_FAULT ∧ t.pins = s.pins)

/-- The logic supply: HOLDUP joins below its connect threshold, and where VL24 has returned above 16.3 V it leaves, from 18 V on to be
charged, once its own voltage is not above VL24, without a reset (R510, R524); VL24 through the rising threshold makes power-good true
again, also in reset (R465, R510); a joined capacitor sinks to VL24 or the falling threshold of power-good, here in reset (R510). The
power-fail warning comes below 17 V and clears after 10 000 microticks at 18 V, which a new fall starts anew (R409).
The thresholds have the tolerances stated, of which the statement takes the sure side; a capacitor under charge has some voltage up
to 41 V. Where the spec leaves it open this rests on the
model's choice of log 7 and log 18. -/
def Obligations.LogicSupplyEvents : Prop :=
  ∀ (s : State) (mv : Int),
    (s.pins.powerGood = true → s.pins.holdupOn = false →
      (mv < 15700 → ∃ t, exec (.holdupConnect mv) s = .next t
          ∧ t = { s with pins := { s.pins with vl24 := mv, holdup := t.pins.holdup, holdupOn := true, charging := false }
                         freshIdx := t.freshIdx }
          ∧ s.pins.holdup ≤ t.pins.holdup ∧ t.pins.holdup ≤ max s.pins.holdup 41000
          ∧ (s.pins.charging = false → t.pins.holdup = s.pins.holdup))
      ∧ (16300 ≤ mv → exec (.holdupConnect mv) s = .next s))
    ∧ (s.pins.powerGood = true → s.pins.holdupOn = true → mv < 15700 → ∃ t, exec (.holdupConnect mv) s = .next t
        ∧ t.pins.vl24 = mv ∧ t.pins.holdupOn = true ∧ (s.pins.charging = false → t.pins.holdup = s.pins.holdup))
    ∧ (s.pins.powerGood = true ∧ 16300 < mv ∨ 17500 ≤ mv →
        ∃ t, exec (.holdupDisconnect mv) s = .next t ∧ t.pins.vl24 = mv ∧ t.pins.powerGood = true ∧ t.pins.holdup = s.pins.holdup
          ∧ (s.pins.holdupOn = false ∨ s.pins.holdup ≤ mv → t.pins.holdupOn = false ∧ t.pins.charging = decide (18000 ≤ mv))
          ∧ (s.pins.holdupOn = true → mv < s.pins.holdup → t.pins.holdupOn = true ∧ t.pins.charging = false)
          ∧ t = { s with pins := t.pins })
    ∧ (mv ≤ 16300 ∨ s.pins.powerGood = false ∧ mv < 16900 → exec (.holdupDisconnect mv) s = .next s)
    ∧ (∀ ca cb : LaneTick, s.mode = .reset → ∃ t, exec (.microtick ca cb) s = .next t
        ∧ min s.pins.holdup (max s.pins.vl24 11700) ≤ t.pins.holdup ∧ t.pins.holdup ≤ s.pins.holdup
        ∧ (s.pins.powerGood = false ∨ s.pins.holdupOn = false ∨ s.pins.holdup ≤ s.pins.vl24 → t.pins = s.pins)
        ∧ t = { s with fieldOff := s.fieldOff + 1, pins := { s.pins with holdup := t.pins.holdup }, freshIdx := t.freshIdx })
    ∧ (s.mode ≠ .reset → s.fget F.CSK_STAT_pfw = 0 → mv < 16700 →
        ∃ t, exec (.powerFailWarning mv) s = .next t ∧ t.fget F.CSK_STAT_pfw = 1 ∧ t.fget F.CSK_EV_pfw = 1
          ∧ t.pins.vl24 = mv ∧ t.mode = s.mode ∧ (s.fget F.CSK_STAT_rdy = 0 → t.cask = s.cask) ∧ sameFuses s t
          ∧ sameFesBut s t [])
    ∧ (s.mode ≠ .reset → s.fget F.CSK_STAT_pfw = 1 → mv < 16700 → exec (.powerFailWarning mv) s
        = .next { s with pins := { s.pins with vl24 := mv, pfwClear := 0, charging := false } })
    ∧ (s.fget F.CSK_STAT_pfw = 1 → s.pins.pfwClear < 10000 → exec .powerFailWarningClear s = .next s)
    ∧ (s.fget F.CSK_STAT_pfw = 1 → 10000 ≤ s.pins.pfwClear → s.cask.job = none →
        ∃ t, exec .powerFailWarningClear s = .next t ∧ t.fget F.CSK_STAT_pfw = 0
          ∧ sameRegsBut s t [R.CSK_STAT] ∧ onlyRegs s t)

/-! ### Device faults in RUN -/

/-- The watchers take the module from RUN to SAFE. Of the lanes: microtick counts (causes 0x50 and 0x51, R84), enables
(0x13, R218), evaluation overrun (0x24, R136), slice overrun (0x66, R450) and the coverage deadline (0x67, R454). Of
the pair, the memories, the fuses and the rails: lockstep mismatch (0x30, R342), split budget (0x31, R354),
diagnostic deadline (0x32, R356), a merge past 1 ms (0x34, R353), a deadline window that closes (0x41, stamped with its end, R379), an
internal rail (0x52, R506), and the fuse shadows (0x74, R435). Where the spec leaves it open this rests on the
model's choice of log 23. -/
def Obligations.WatchersGoSafe : Prop :=
  ∀ (s : State) (l : Lane) (clocks : Nat) (st : Fin 4) (y : Slice) (d : LockDiff) (e : Fin 16) (x : LogEnt) (t0 : Nat) (rail : Fin 6)
    (mv : Int), s.mode = .run →
    (s.boot.lanesOn = true → ∃ t, exec (.laneTickTimeout l) s = .next t
        ∧ wentSafe s t (match l with | .a => 0x50 | .b => 0x51) ∧ sameMemories s t)
    ∧ (∃ t, exec (.enableMonitorTimeout l) s = .next t ∧ wentSafe s t 0x13 ∧ sameMemories s t
        ∧ (match l with | .a => t.enA.laneFlt = true | .b => t.enB.laneFlt = true))
    ∧ (288 < clocks → ∃ t, exec (.evaluationOverrun l clocks) s = .next t ∧ wentSafe s t 0x24 ∧ (t.lane l).evaled = false)
    ∧ ((s.lane l).slice = some y →
      (y.begun = true → sliceOver s y = true → sliceAt l y (boxClocks s l) ≤ s.now →
        ∃ t, exec (.sliceOverrun l st) s = .next t ∧ wentSafe s t (if y.obs.restoreOk then 0x66 else 0x65) ∧ (t.lane l).slice = none
          ∧ (t.lane l).sstep = (s.lane l).sstep
          ∧ (s.fget F.BST_FAIL_vld = 0 → t.rget R.BST_FTS = s.stamp
              ∧ (t.rget R.BST_FAIL).toNat / 65536 % 256 = (if y.obs.restoreOk then 0x66 else 0x65)))
      ∧ (y.begun = false ∨ sliceOver s y = false ∨ s.now < sliceAt l y (boxClocks s l) → exec (.sliceOverrun l st) s = .next s))
    ∧ (s.taste.running = true → s.taste.passAt + s.taste.tdl + 1000 ≤ s.now →
        ∃ t, exec .coverageDeadline s = .next t ∧ wentSafe s t 0x67
          ∧ (s.fget F.BST_FAIL_vld = 0 → t.rget R.BST_FTS = s.stamp ∧ (t.rget R.BST_FAIL).toNat / 65536 % 256 = 0x67))
    ∧ (s.fget F.TND_STAT_mode = 0 → d ≠ .mirror → ∃ t, exec (.lockstepMismatch d) s = .next t ∧ wentSafe s t 0x30
        ∧ t.fget F.TND_LSE_vld = 1 ∧ (s.fget F.TND_LSE_vld = 0 → t.fget F.TND_LSE_cls = lockCode d ∧ t.rget R.TND_LSTS = s.stamp))
    ∧ (s.isSplit = true → s.tnd.expired = false → budgetEnd s ≤ s.now →
        ∃ t, exec .splitBudgetExpired s = .next t ∧ wentSafe s t 0x31)
    ∧ (s.fget F.TND_STAT_ddlarm = 1 → s.tnd.halted = false → s.tnd.ddlEnd ≤ s.now →
        ∃ t, exec .diagnosticDeadline s = .next t ∧ wentSafe s t 0x32 ∧ t.fget F.TND_STAT_ddlarm = 0)
    ∧ (s.fget F.TND_STAT_mode = 2 → s.tnd.mlate = false → s.tnd.mergeAt + 1000 ≤ s.now →
        ∃ t, exec .mergeTimeout s = .next t ∧ wentSafe s t 0x34)
    ∧ (s.memc.log.find e = some x → x.dl = some t0 → t0 ≤ s.now →
        ∃ t, exec (.deadlineWindowClose e) s = .next t ∧ wentSafe { s with tick := BitVec.ofNat 64 t0 } { t with tick := BitVec.ofNat 64 t0 } 0x41
          ∧ t.tick = s.tick)
    ∧ (s.pins.powerGood = true → (mv < (railBand rail).1 ∨ (railBand rail).2 < mv) →
        ∃ t, exec (.internalRailOutOfBand rail mv) s = .next t ∧ wentSafe s t 0x52 ∧ sameMemories s t)
    ∧ (s.fget F.OTP_STAT_rd = 1 →
        (s.otp.shadowN ≠ s.otp.shadow.cpl →
          ∃ t, exec .fuseShadowMismatch s = .next t ∧ wentSafe s t 0x74 ∧ sameMemories s t ∧ t.otp = s.otp)
        ∧ (s.otp.shadowN = s.otp.shadow.cpl → exec .fuseShadowMismatch s = .next s))

/-! ### The link hub -/

/-- A microtick counts (R83); in reset the field sides' own time goes on (R467), and where no capacitor is joined nothing else does. In SAFE no downlink frame is sent (R226). In RUN,
with health showing and nothing wrong
with either lane, ENA_A takes the phase of the odd microticks and ENA_B that of the even ones (R25, R215, R216); a
device-fault line that shows anything but 0b01 stops its lane's enable (R217); and a count of Lane A outside its band
takes the module to SAFE (R84), with cause 0x50 where health shows. A fault in Lane A's half of the session of the microtick that makes
it differ from the other takes RUN to SAFE (R298), and one in a form of the fuse shadows changes that form alone (R435).
Where the spec leaves it open this rests on the model's choice of log 47 and log 53. -/
def Obligations.MicrotickRuns : Prop :=
  ∀ (s : State) (ca cb : LaneTick),
    let health : Prop := s.mode = .run ∧ s.comp.bad = false ∧ s.comp.made = true ∧ s.now + 1 < 2 ^ 64 ∧ s.comp.since ≤ s.now + 1
      ∧ s.now + 1 ≤ s.comp.through ∧ ca.wires.pair.getD (healthCode (s.now + 1)) = healthCode (s.now + 1)
      ∧ cb.wires.pair.getD (healthCode (s.now + 1)) = healthCode (s.now + 1)
      ∧ (∀ x ∈ ca.wires.lines ++ cb.wires.lines, x.2 = 0b01#2)
      ∧ s.enA.laneFlt = false ∧ s.enA.line = false ∧ s.enB.laneFlt = false ∧ s.enB.line = false
    (s.mode = .reset → s.pins.holdupOn = false → exec (.microtick ca cb) s = .next { s with fieldOff := s.fieldOff + 1 })
    ∧ (s.mode ≠ .reset → ∃ t, exec (.microtick ca cb) s = .next t ∧ t.tick = s.tick + 1 ∧ t.fieldOff = s.fieldOff
      ∧ sameMemories s t ∧ sameFuses s t ∧ keptChannelConfig s t ∧ (t.mode = s.mode → sameFesBut s t [])
      ∧ (s.mode = .safe → ∀ n : Nat, (t.chan n).down = none)
      ∧ (ca.shadow = none → cb.shadow = none → t.otp = s.otp)
      ∧ (∀ u, s.fget F.OTP_STAT_rd = 1 → ca.shadow = some u → cb.shadow = none → t.otp = s.otp.upset .a u)
      ∧ (∀ u, s.mode = .run → ca.half = some u → cb.half = none → (s.sess u.sid).split = false → u.sid.val = (s.tick + 1).toNat % 160 →
          (s.sess u.sid).hb ≠ ((s.sess u.sid).ha.upset u.field u.bits).cpl → t.mode = .safe)
      ∧ ((∃ x ∈ ca.wires.lines, x.2 ≠ 0b01#2) → t.enA.conds = false)
      ∧ ((∃ x ∈ cb.wires.lines, x.2 ≠ 0b01#2) → t.enB.conds = false)
      ∧ (s.mode = .run → s.boot.lanesOn = true → tickOkA ca.clocks = false →
          t.mode = .safe ∧ (health → ca.half = none → cb.half = none → (∀ i : Nat, (s.sess i).hb = (s.sess i).ha.cpl) →
            t.rget R.SYS_FAULT = 0xC0000050#32))
      ∧ (health → t.enA.phase = ((s.now + 1) % 2 == 1) ∧ t.enB.phase = ((s.now + 1) % 2 == 0) ∧ t.enA.conds = true
            ∧ t.enB.conds = true))

/-- SYNC_IN: an edge of at least 200 ns is taken (03, Moving the cycle boundary); two less than one period apart make the source
invalid in RUN, whose vintage gives the period (R104); without an edge for two periods the source is invalid and
sync is lost with φ kept, and a rearm on a valid source sets φ to 0 and clears `lost`, each lane short of the steps that it has yet to
receive (R109, R110). That before the first edge the time runs from the entry to RUN, that a loss of sync keeps what is settled,
and that only an edge one period after the last makes the source valid again, are the model's choices of log 52. -/
def Obligations.SyncIsLostAndRearmed : Prop :=
  ∀ (s : State) (width : Nat) (req : Requester) (w : Word),
    (width < 200 → exec (.syncInEdge width) s = .next s)
    ∧ (200 ≤ width → s.mode ≠ .reset → ∃ t, exec (.syncInEdge width) s = .next t
        ∧ t.hub.lastEdge = some s.now ∧ t.hub.phi = s.hub.phi ∧ t.hub.next = s.hub.next
        ∧ (∀ t0, s.hub.lastEdge = some t0 → s.now < t0 + (s.fget F.PRS_SYNC_pdiv + 1) * s.cyc →
            (s.mode = .run → t.hub.srcBad = true
              ∧ (s.fget F.PRS_SYNC_src = 1 → s.hub.lost = false → t.hub.lost = true ∧ t.fget F.PRS_SSTAT_lcause = 1))
            ∧ (s.mode ≠ .run → t.hub.srcBad = false ∧ t.hub.lost = s.hub.lost))
        ∧ ((∀ t0, s.hub.lastEdge = some t0 → t0 + (s.fget F.PRS_SYNC_pdiv + 1) * s.cyc ≤ s.now) →
            t.hub.srcBad = false ∧ t.hub.lost = s.hub.lost)
        ∧ sameRegsBut s t [R.PRS_SSTAT] ∧ t = { s with hub := t.hub, regs := t.regs })
    ∧ (s.mode = .run → s.fget F.PRS_SYNC_src = 1 → s.hub.lost = false →
        (match s.hub.lastEdge with | some t => t | none => s.runFrom) + 2 * ((s.fget F.PRS_SYNC_pdiv + 1) * s.cyc) ≤ s.now →
        ∃ t, exec .syncSourceTimeout s = .next t ∧ t.hub.lost = true ∧ t.fget F.PRS_SSTAT_lost = 1
          ∧ t.fget F.PRS_SSTAT_lostev = 1 ∧ t.fget F.PRS_SSTAT_lcause = 1 ∧ t.hub.phi = s.hub.phi ∧ t.hub.next = s.hub.next
          ∧ sameRegsBut s t [R.PRS_SSTAT] ∧ t = { s with hub := t.hub, regs := t.regs })
    ∧ (writeAccepted s req R.PRS_SYNC (withBit w 31) = true → s.fget F.PRS_SYNC_src = 1 → s.hub.srcBad = false →
        s.hub.lastEdge.isSome = true → w.toNat % 4 = 1 →
        ∃ t, exec (.syncRearm req w) s = .next t ∧ t.hub.lost = false ∧ t.hub.phi = 0 ∧ t.hub.next = s.hub.next
          ∧ t.la.phi + s.hub.bounds.foldl (fun d e => d + e.2.2) s.hub.taken = 0
          ∧ t.fget F.PRS_SSTAT_lost = 0 ∧ t.fget F.PRS_SSTAT_phi = 0 ∧ sameRegsBut s t [R.PRS_SYNC, R.PRS_SSTAT])

/-! ### Front ends -/

/-- FIELD_SAMPLE and the integrating counter: in an input mode with it, each microtick counts up to N while RAW is 1 and
down to 0 otherwise, and IN follows at N and at 0; the hold of R60 suspends both (R93). The counter stays from 0 to N. -/
def Obligations.IntegratingCounterCounts : Prop :=
  ∀ (ch : Fin 48) (o : FieldObs) (s : State),
    let f := s.fe ch
    f.powered = true → f.live = true → (f.mode = 1 ∨ f.mode = 2) →
    ∃ t, exec (.fieldSample ch o) s = .next t ∧ t = { s with fes := t.fes, chans := t.chans } ∧ sameFesBut s t [ch.val]
      ∧ (f.src.latched = false → t.chans = s.chans)
      ∧ (f.count ≤ f.nLim → (t.fe ch).count ≤ f.nLim)
      ∧ (s.fieldNow < f.holdEnd → (t.fe ch).count = f.count ∧ (t.fe ch).inn = f.inn)
      ∧ (f.holdEnd ≤ s.fieldNow →
          (t.fe ch).count = (if (t.fe ch).raw then min (f.count + 1) f.nLim else f.count - 1)
          ∧ (t.fe ch).inn = (if (t.fe ch).count = 0 then false else if (t.fe ch).count = f.nLim then true else f.inn))

/-- FIELD_SAMPLE and the debounce filter, which the modes of a standard input and of a counter track have: each microtick takes RAW
into it, and without a configuration in force it starts again; after T_d consecutive microticks with one value of RAW, IN has it; a
change of RAW starts the run again and, with T_d above 1, leaves IN as it is; a start of the filter puts IN to 0 with no run (R97). -/
def Obligations.DebounceNeedsWholeRun : Prop :=
  (∀ (ch : Fin 48) (o : FieldObs) (s : State), (s.fe ch).powered = true →
      ∃ t, exec (.fieldSample ch o) s = .next t ∧ t = { s with fes := t.fes, chans := t.chans } ∧ sameFesBut s t [ch.val]
        ∧ ((s.fe ch).live = true → ((s.fe ch).mode = 3 ∨ (s.fe ch).mode = 7) →
            let g := debounce (s.fe ch) (t.fe ch).raw
            (t.fe ch).inn = g.inn ∧ (t.fe ch).run = g.run ∧ (t.fe ch).lastRaw = g.lastRaw)
        ∧ ((s.fe ch).live = false → (t.fe ch).inn = false ∧ (t.fe ch).run = 0))
    ∧ (∀ (f : Fe) (v : Bool) (n : Nat), 1 ≤ f.deb → f.deb ≤ n → ((List.replicate n v).foldl debounce f).inn = v)
    ∧ (∀ (f : Fe) (v : Bool), v ≠ f.lastRaw → (debounce f v).run = 1 ∧ (1 < f.deb → (debounce f v).inn = f.inn))
    ∧ (∀ f : Fe, (restartFilter f).inn = false ∧ (restartFilter f).run = 0)

/-- DOWNLINK_FRAME_RECEIVED: an accepted frame is noted with its requests and counts as contact; a front end that may not
drive keeps every switch open whatever the frame asks, but for the steps of its output-stage test, which no frame changes (R458),
and DTS opens the side it names (R26, R72, R235, R246). A frame that is not accepted changes no switch (R72). -/
def Obligations.DownlinkFrameDrives : Prop :=
  ∀ (ch : Fin 48) (w : BitVec 64) (s : State),
    let f := s.fe ch
    f.locked = true → f.powered = true → linkLost (addErr f.errHist false) = false →
    (downOk f ch w = true →
      ∃ t, exec (.downlinkFrameReceived ch (some w) false) s = .next t ∧ t = { s with fes := t.fes } ∧ sameFesBut s t [ch.val]
        ∧ (t.fe ch).lastAcc = s.fieldNow ∧ (t.fe ch).lastSeq = some (w.toNat / 2 ^ 60 % 16)
        ∧ (t.fe ch).reqA = w.getLsbD 59 ∧ (t.fe ch).reqB = !w.getLsbD 57
        ∧ (f.mayDrive = false → f.stRun = none → (t.fe ch).hs = false ∧ (t.fe ch).ls = false)
        ∧ (f.stRun.isSome = true → (t.fe ch).hs = f.hs ∧ (t.fe ch).ls = f.ls)
        ∧ (f.mode = 4 → f.stRun = none → w.toNat / 2 ^ 53 % 4 = 1 → (t.fe ch).hs = false)
        ∧ (f.mode = 4 → f.stRun = none → w.toNat / 2 ^ 53 % 4 = 2 → (t.fe ch).ls = false))
    ∧ (downOk f ch w = false →
      ∃ t, exec (.downlinkFrameReceived ch (some w) false) s = .next t ∧ t = { s with fes := t.fes } ∧ sameFesBut s t [ch.val]
        ∧ (t.fe ch).hs = f.hs ∧ (t.fe ch).ls = f.ls ∧ (t.fe ch).lastAcc = f.lastAcc)

/-- A safety-output switch conducts after an accepted frame only with its request at 1, its enable's phase changed at most
4 µs ago, no latch and a committed configuration (R26, R27, R234, R235), but for the steps of its output-stage test (R458). -/
def Obligations.SwitchNeedsRequestAndEnable : Prop :=
  ∀ (ch : Fin 48) (w : BitVec 64) (s t : State), (s.fe ch).mode = 4 → (s.fe ch).locked = true → downOk (s.fe ch) ch w = true →
    linkLost (addErr (s.fe ch).errHist false) = false → (s.fe ch).powered = true → (s.fe ch).stRun = none →
    exec (.downlinkFrameReceived ch (some w) false) s = .next t →
    ((t.fe ch).hs = true → (t.fe ch).mayDrive = true
        ∧ (((s.fe ch).otype = 1 ∨ (s.fe ch).lead = ch.val) → w.getLsbD 59 = true ∧ freshPhase (t.fe ch).chgA s.fieldNow = true)
        ∧ ((s.fe ch).otype ≠ 1 → (s.fe ch).lead ≠ ch.val → w.getLsbD 57 = false ∧ freshPhase (t.fe ch).chgB s.fieldNow = true))
    ∧ ((t.fe ch).ls = true → (t.fe ch).mayDrive = true ∧ (s.fe ch).otype = 1 ∧ w.getLsbD 57 = false
        ∧ freshPhase (t.fe ch).chgB s.fieldNow = true)

/-- LINK_ACQUISITION: the front end starts without a configuration, every switch open and the filter at 0, and the hub
writes its configuration anew (R67, R73, R94, R257). Where the spec leaves it open this rests on the model's choice
of log 19. -/
def Obligations.LinkAcquisitionStartsAnew : Prop :=
  ∀ (ch : Fin 48) (s : State), (s.fe ch).powered = true → s.mode ≠ .reset → s.mode ≠ .safe →
    ¬ ((s.fe ch).locked = true ∧ (s.chan ch).locked = true) →
    ∃ t, exec (.linkAcquisition ch) s = .next t ∧ onlyField s t ∧ sameFesBut s t [ch.val] ∧ sameChansBut s t [ch.val]
      ∧ sameRegsBut s t [R.CHN_STAT ch] ∧ t.fget (F.CHN_STAT_lnk ch) = 1
      ∧ (t.fe ch).locked = true ∧ (t.fe ch).committed = false ∧ (t.fe ch).hs = false ∧ (t.fe ch).ls = false
      ∧ (t.fe ch).count = 0 ∧ (t.fe ch).inn = false ∧ (t.fe ch).src.on = false ∧ (t.fe ch).errHist = []
      ∧ (t.chan ch).locked = true ∧ (t.chan ch).good = 0 ∧ (t.chan ch).reopen = true
      ∧ (t.chan ch).causes.contains .source = false

/-- Configuration words (R73): two identical words apply before a commit; afterwards a differing rewrite is a front-end
fault with outputs and sources off, an equal one has no effect. The commit puts the words in force with the filter
started again and every switch open (R94, R459); the reopen takes the channel to the safe state without a fault.
Where the spec leaves it open this rests on the model's choice of log 19. -/
def Obligations.ConfigurationWords : Prop :=
  ∀ (ch : Fin 48) (r : Byte) (v : Word) (s : State),
    let f := s.fe ch
    f.aux0 = some (r, v) → f.aux1 = some (r, v) →
    (r.toNat < 12 → f.committed = false → ∃ t, exec (.auxWordApply ch) s = .next t ∧ t = { s with fes := t.fes }
        ∧ sameFesBut s t [ch.val] ∧ (t.fe ch).staged.find r.toNat = some v ∧ (t.fe ch).held = f.held)
    ∧ (r.toNat < 12 → f.committed = true → f.reg r.toNat = v → exec (.auxWordApply ch) s = .next s)
    ∧ (r.toNat < 12 → f.committed = true → f.reg r.toNat ≠ v → ∃ t, exec (.auxWordApply ch) s = .next t
        ∧ t = { s with fes := t.fes } ∧ sameFesBut s t [ch.val] ∧ (t.fe ch).cfgFlt = true ∧ (t.fe ch).fltBit = true
        ∧ (t.fe ch).hs = false ∧ (t.fe ch).ls = false ∧ (t.fe ch).src.on = false ∧ (t.fe ch).inn = false)
    ∧ (r = 0x0F#8 → v = 0xA5#32 → f.locked = true → f.committed = false → ∃ t, exec (.feCommit ch) s = .next t
        ∧ onlyField s t ∧ sameRegsBut s t [(odefFld ch).addr] ∧ sameFesBut s t [ch.val] ∧ sameChansBut s t [ch.val]
        ∧ (s.mode = .run → (t.fe ch).stPend = true → t.fget (odefFld ch) = 1)
        ∧ ((t.fe ch).stPend = false → t.regs = s.regs)
        ∧ (t.fe ch).committed = true ∧ (t.fe ch).hs = false ∧ (t.fe ch).ls = false ∧ (t.fe ch).inn = false
        ∧ (t.fe ch).count = 0 ∧ (t.fe ch).exAt = s.fieldNow + 100000
        ∧ (∀ k : Fin 12, (t.fe ch).reg k = f.staged.get (f.reg k) k)
        ∧ (t.fe ch).stPend = isOutputMode (t.fe ch).mode)
    ∧ (r = 0x0F#8 → v = 0x5A#32 → f.locked = true → f.committed = true → ∃ t, exec (.feReopen ch) s = .next t
        ∧ t = { s with fes := t.fes } ∧ sameFesBut s t [ch.val] ∧ (t.fe ch).committed = false ∧ (t.fe ch).cfgFlt = false
        ∧ (t.fe ch).hs = false ∧ (t.fe ch).ls = false ∧ (t.fe ch).src.on = false)

/-- A source that stays in its limit for 5 ms opens and latches with a channel fault; once every 1 000 000 µs it is
switched on again where its mode has one and the front end is not in its safe state; a sample out of the limit then
clears the latch and the cause, and 5 ms in the limit open it again (R43, R45, R73). A dip switches a pulsed source's
terminal in its own slot, and outside that slot none starts (R53). Where the spec leaves it open this rests on the model's choice of log 24. -/
def Obligations.SourcesLatchAndRetry : Prop :=
  ∀ (ch : Fin 48) (lim : Bool) (t0 : Nat) (o : FieldObs) (s : State),
    let f := s.fe ch
    (f.src.limSince = some t0 → f.src.on = true → f.src.latched = false → t0 + 5000 ≤ s.fieldNow →
      ∃ t, exec (.sourceLimitTrip ch) s = .next t ∧ onlyField s t ∧ sameFesBut s t [ch.val] ∧ sameChansBut s t [ch.val]
        ∧ sameRegsBut s t [R.CHN_FAULT ch, R.CHN_FTS ch, R.CHN_STAT ch]
        ∧ (t.fe ch).src.on = false ∧ (t.fe ch).src.latched = true ∧ (t.fe ch).src.tripAt = s.fieldNow ∧ faulted t ch .source)
    ∧ (f.src.limSince = some t0 → f.src.on = true → f.src.latched = true → t0 + 5000 ≤ s.fieldNow →
      ∃ t, exec (.sourceLimitTrip ch) s = .next t ∧ t = { s with fes := t.fes } ∧ sameFesBut s t [ch.val]
        ∧ t.fe ch = { f with src := { f.src with on := false, limSince := none } })
    ∧ (f.src.latched = true → f.src.on = false → f.src.tripAt < s.fieldNow → (s.fieldNow - f.src.tripAt) % 1000000 = 0 →
      (f.live = true → f.powered = true → f.hasSource = true →
        ∃ t, exec (.sourceRetry ch lim) s = .next t ∧ t = { s with fes := t.fes } ∧ sameFesBut s t [ch.val]
          ∧ t.fe ch = { f with src := { f.src with on := true, limSince := if lim then some s.fieldNow else none } })
      ∧ (f.live = false ∨ f.hasSource = false → exec (.sourceRetry ch lim) s = .next s))
    ∧ (f.powered = true → f.src.on = true → f.dipStart = none → f.src.latched = true → o.limSrc = false →
      ∃ t, exec (.fieldSample ch o) s = .next t ∧ sameFesBut s t [ch.val] ∧ sameChansBut s t [ch.val] ∧ t.regs = s.regs
        ∧ (t.fe ch).src.on = true ∧ (t.fe ch).src.latched = false ∧ (t.chan ch).causes.contains .source = false)
    ∧ (tpdNow s ch s.now = true → f.locked = true → f.live = true → f.pulsed = true → f.src.on = true → f.dipStart = none →
      ∃ t, exec (.dipStart ch) s = .next t ∧ t = { s with fes := t.fes } ∧ sameFesBut s t [ch.val]
        ∧ (t.fe ch).dipStart = some s.fieldNow
        ∧ (f.mode ≠ 6 → f.srcsel = 0 → f.holdEnd = 0 → (t.fe ch).holdEnd = s.fieldNow + f.dip + 10))
    ∧ (tpdNow s ch s.now = false → exec (.dipStart ch) s = .next s)

/-- Silence of the logic side: 4 µs without a phase change of an enable open the switch that it gates, the partner's
high side in a PP pair, but for the steps of an output-stage test (R27, R255, R458); a standard output takes its programmed state (R256). -/
def Obligations.SilenceOpensSwitches : Prop :=
  ∀ (ch : Fin 48) (s : State),
    let f := s.fe ch
    (f.mode = 4 → f.stRun = none → freshPhase f.chgA s.fieldNow = false → (f.otype = 1 ∨ f.lead = ch.val) →
      ∃ t, exec (.logicSilentTimeout ch .a) s = .next t ∧ t = { s with fes := t.fes } ∧ sameFesBut s t [ch.val]
        ∧ t.fe ch = { f with hs := false })
    ∧ (f.mode = 4 → f.stRun = none → freshPhase f.chgB s.fieldNow = false →
      (f.otype = 1 → ∃ t, exec (.logicSilentTimeout ch .b) s = .next t ∧ t = { s with fes := t.fes }
        ∧ sameFesBut s t [ch.val] ∧ t.fe ch = { f with ls := false })
      ∧ (f.otype ≠ 1 → f.lead ≠ ch.val → ∃ t, exec (.logicSilentTimeout ch .b) s = .next t ∧ t = { s with fes := t.fes }
        ∧ sameFesBut s t [ch.val] ∧ t.fe ch = { f with hs := false }))
    ∧ (f.mode = 5 → f.live = true → f.prog = false → f.lsto ≤ s.fieldNow - f.lastAcc →
      ∃ t, exec (.programmedStateTimeout ch) s = .next t ∧ t = { s with fes := t.fes } ∧ sameFesBut s t [ch.val]
        ∧ (t.fe ch).prog = true ∧ (t.fe ch).ls = false
        ∧ (f.lsst = 0 → (t.fe ch).hs = false)
        ∧ (f.lsst = 1 → f.mayDrive = true → f.band = .normal → (t.fe ch).hs = f.stdq)
        ∧ (f.lsst = 2 → f.mayDrive = true → f.band = .normal → (t.fe ch).hs = true))

/-- The exercise of the comparators swaps the banks in its 100th microtick, counts at its end, and reports a failed check (R456,
R457). The logic side
takes an exercise count that stands still for 102 000 microticks, of which the last frame comes 9 microticks later (R68), and an echo
missing for more than 512 µs, as channel faults (R74, R457), and no sooner. Where the spec leaves it open this rests on the model's choice of log 47. -/
def Obligations.ExerciseAndEchoWatched : Prop :=
  ∀ (ch : Fin 48) (o : ExerciseObs) (v : FieldObs) (t0 : Nat) (reg : Fin 12) (s : State),
    let f := s.fe ch
    (f.powered = true → f.committed = true → f.exAt = s.fieldNow →
      ∃ t, exec (.feExercise ch o) s = .next t ∧ t = { s with fes := t.fes } ∧ sameFesBut s t [ch.val]
        ∧ t.fe ch = { f with exAt := s.fieldNow + 100000, exRun := some ⟨s.fieldNow, exerciseBits o, false⟩ })
    ∧ (f.powered = true → f.exRun = some ⟨t0, exerciseBits o, false⟩ →
      ∃ t, exec (.fieldSample ch v) s = .next t ∧ sameFesBut s t [ch.val]
        ∧ (s.fieldNow < t0 + 99 → (t.fe ch).liveB = f.liveB ∧ (t.fe ch).selfReg = f.selfReg ∧ (t.fe ch).exRun = f.exRun)
        ∧ (t0 + 99 ≤ s.fieldNow → (t.fe ch).liveB = !f.liveB ∧ (t.fe ch).selfReg.toNat / 2 ^ 24 = f.selfReg.toNat / 2 ^ 24
            ∧ ∃ bad, (t.fe ch).exRun = some ⟨t0, bad, true⟩
              ∧ bad = exerciseBits o ||| (if banksDiffer f ch (f.readV ch v) (f.readI ch v) then 16 else 0)))
    ∧ (f.powered = true → f.exRun = some ⟨t0, exerciseBits o, true⟩ →
      ∃ t, exec (.fieldSample ch v) s = .next t ∧ sameFesBut s t [ch.val] ∧ (t.fe ch).liveB = f.liveB
        ∧ (s.fieldNow < t0 + 200 → (t.fe ch).selfReg = f.selfReg ∧ (t.fe ch).exRun = f.exRun)
        ∧ (t0 + 200 ≤ s.fieldNow → (t.fe ch).exRun = none
            ∧ (t.fe ch).selfReg.toNat / 2 ^ 24 = (f.selfReg.toNat / 2 ^ 24 + 1) % 256
            ∧ ((t.fe ch).selfBad = true ↔ exerciseBits o ≠ 0)))
    ∧ ((s.chan ch).locked = true → f.committed = true → (s.chan ch).selfAt + 102009 ≤ s.now →
      ∃ t, exec (.feSelfTimeout ch) s = .next t ∧ onlyChans s t ∧ sameChansBut s t [ch.val] ∧ faulted t ch .self
        ∧ sameRegsBut s t [R.CHN_FAULT ch, R.CHN_FTS ch, R.CHN_STAT ch])
    ∧ (s.now < (s.chan ch).selfAt + 102009 → exec (.feSelfTimeout ch) s = .next s)
    ∧ (s.now ≤ (s.chan ch).echoAt.get 0 reg + 521 → exec (.configEchoTimeout ch reg) s = .next s)
    ∧ ((s.chan ch).locked = true → quiet s (s.chan ch) = false → (s.chan ch).echoAt.get 0 reg + 521 < s.now →
      ∃ t, exec (.configEchoTimeout ch reg) s = .next t ∧ onlyChans s t ∧ sameChansBut s t [ch.val] ∧ faulted t ch .echo
        ∧ sameRegsBut s t [R.CHN_FAULT ch, R.CHN_FTS ch, R.CHN_STAT ch])

/-- The output-stage test starts in Normal after a commit, and again 100 ms after a failure while every request is 0 (R459, R460); in
it a PN output closes its high side alone for 200 µs and then its low side alone for 200 µs, and the others keep every switch open
(R458). Within its 2 ms it passes where the samples and the checks without one agree with the conditions of the kind: a pass leaves the
switches to the lanes and clears a deferral, a failure in RUN is an output fault of code 0x1D on every channel of the unit (R458 to
R460). Where the spec leaves it open this rests on the model's choice of log 47. -/
def Obligations.OutputStageTests : Prop :=
  ∀ (ch : Fin 48) (t0 : Nat) (o : FieldObs) (pass : Bool) (s : State),
    let f := s.fe ch
    let pn : Prop := f.mode = 4 ∧ f.otype = 1 ∧ f.climLatch = none ∧ f.supLatch = none
    let stays : Prop := f.stPend = true
      ∨ (f.stFail = true ∧ f.stAgain ≤ s.fieldNow ∧ f.reqA = false ∧ f.reqB = false ∧ f.stdq = false)
    (isOutputMode f.mode = true → f.live = true → f.locked = true → f.band = .normal → f.stRun = none → stays →
      ∃ t, exec (.outputStageTest ch) s = .next t ∧ t = { s with fes := t.fes } ∧ sameFesBut s t [ch.val]
        ∧ (t.fe ch).stRun = some s.fieldNow ∧ (t.fe ch).stPend = false ∧ (t.fe ch).ls = false ∧ ((t.fe ch).hs = true ↔ pn))
    ∧ (¬ stays → exec (.outputStageTest ch) s = .next s)
    ∧ (f.stRun = some t0 → f.powered = true →
      ∃ t, exec (.fieldSample ch o) s = .next t ∧ sameFesBut s t [ch.val]
        ∧ ((t.fe ch).hs = true ↔ pn ∧ s.fieldNow - t0 + 1 < 200)
        ∧ ((t.fe ch).ls = true ↔ pn ∧ 200 ≤ s.fieldNow - t0 + 1 ∧ s.fieldNow - t0 + 1 < 400))
    ∧ (f.stRun = some t0 →
      (s.fieldNow < t0 + f.stageTime ∨ t0 + 2000 < s.fieldNow → exec (.outputStageTestDone ch pass) s = .next s)
      ∧ (t0 + f.stageTime ≤ s.fieldNow → s.fieldNow ≤ t0 + 2000 →
        ((pass && f.stageSeen) = true →
          ∃ t, exec (.outputStageTestDone ch pass) s = .next t ∧ onlyField s t ∧ sameFesBut s t [ch.val]
            ∧ (t.fe ch).stRun = none ∧ (t.fe ch).stFail = false ∧ (t.fe ch).ls = false
            ∧ (s.mode = .run → t.fget (odefFld ch) = 0)
            ∧ (s.mode = .run → s.fget (odefFld ch) ≠ 0 → t.fget F.BST_EV_odone = 1)
            ∧ (s.mode = .safe → t.regs = s.regs))
        ∧ ((pass && f.stageSeen) = false →
          ∃ t, exec (.outputStageTestDone ch pass) s = .next t ∧ onlyField s t ∧ sameFesBut s t [ch.val]
            ∧ (t.fe ch).stRun = none ∧ (t.fe ch).stFail = true ∧ (t.fe ch).hs = false ∧ (t.fe ch).ls = false
            ∧ (t.fe ch).fltBit = true ∧ (t.fe ch).stAgain = s.fieldNow + 100000
            ∧ (s.mode = .run → ∀ k : Fin 48, k.val ∈ s.unitOf ch → faulted t k (.out 0x1D)))))

/-- A switch that limits for the limiting time opens with every other switch of its channel and latches, with code 0x10
for the high side and 0x11 for the low side; the latch clears after 1000 accepted frames with every request 0
(R239), and a programmed state that it has held back is then applied (R256). Outside the guaranteed supply limits a front end opens and latches every output switch (R258), and so does
the bridging time run out in Sag (R260); the timer returns to 0 after 1000 microticks in Normal (R260), and a supply
latch clears after 10 000 with every safety request 0 (R262). Where the spec leaves it open this rests on the
model's choice of log 8. -/
def Obligations.OutputLatches : Prop :=
  ∀ (ch : Fin 48) (high : Bool) (t0 : Nat) (mv : Int) (s : State),
    let f := s.fe ch
    let g := groupOf ch
    ((if high then f.limHs else f.limLs) = some t0 → t0 + 18 ≤ s.fieldNow → f.climLatch = none →
      (high = false → ∀ t1, f.limHs = some t1 → s.fieldNow < t1 + 18) →
      ∃ t, exec (.currentLimitTrip ch) s = .next t ∧ t = { s with fes := t.fes } ∧ sameFesBut s t [ch.val]
        ∧ (t.fe ch).hs = false ∧ (t.fe ch).ls = false ∧ (t.fe ch).climLatch = some (if high then 0x10#8 else 0x11#8)
        ∧ (t.fe ch).fltBit = true ∧ (t.fe ch).mayDrive = false
        ∧ (f.fault = 0#8 → (t.fe ch).fault = (if high then 0x10#8 else 0x11#8)))
    ∧ (f.climLatch.isSome = true → 1000 ≤ f.zeroFrames →
      ∃ t, exec (.currentLimitLatchClear ch) s = .next t ∧ t = { s with fes := t.fes } ∧ sameFesBut s t [ch.val]
        ∧ (t.fe ch).climLatch = none ∧ (t.fe ch).ls = f.ls ∧ keptOrProgrammed f (t.fe ch))
    ∧ (f.climLatch.isSome = true → f.zeroFrames < 1000 → exec (.currentLimitLatchClear ch) s = .next s)
    ∧ (f.band = .normal → 10000 ≤ mv → mv < 15100 →
      ∃ t, exec (.supplyBandChange ch mv) s = .next t ∧ onlySupply s t ∧ sameFesBut s t [ch.val] ∧ (t.fe ch).band = .under
        ∧ (t.fe ch).hs = false ∧ (t.fe ch).ls = false ∧ (t.fe ch).supLatch.isSome = true ∧ t.fget (F.FSG_FLT_under g) = 1)
    ∧ (f.band = .normal → 31800 < mv →
      ∃ t, exec (.supplyBandChange ch mv) s = .next t ∧ onlySupply s t ∧ sameFesBut s t [ch.val] ∧ (t.fe ch).band = .over
        ∧ (t.fe ch).hs = false ∧ (t.fe ch).ls = false ∧ (t.fe ch).supLatch.isSome = true ∧ t.fget (F.FSG_FLT_over g) = 1)
    ∧ (f.band = .normal → 19200 ≤ mv → mv ≤ 31200 → exec (.supplyBandChange ch mv) s = .next s)
    ∧ (f.band = .sag → f.sagTrip = false → s.fget (F.FSG_CFG_brg g) * 1000 ≤ f.brt →
      ∃ t, exec (.bridgingTimeout ch) s = .next t ∧ onlySupply s t ∧ sameFesBut s t [ch.val]
        ∧ sameRegsBut s t [R.FSG_FLT g, R.FSG_FTS g] ∧ (t.fe ch).supLatch = some (f.supLatch.getD 0x19#8) ∧ (t.fe ch).hs = false
        ∧ (t.fe ch).ls = false ∧ t.fget (F.FSG_FLT_sagx g) = 1)
    ∧ (f.band = .normal → 1000 ≤ f.normRun →
      ∃ t, exec (.bridgingTimerReset ch) s = .next t ∧ t = { s with fes := t.fes } ∧ sameFesBut s t [ch.val]
        ∧ t.fe ch = { f with brt := 0 })
    ∧ (f.supLatch.isSome = true → f.band = .normal → 10000 ≤ f.zeroNorm →
      ∃ t, exec (.supplyLatchClear ch) s = .next t ∧ t = { s with fes := t.fes } ∧ sameFesBut s t [ch.val]
        ∧ (t.fe ch).supLatch = none ∧ (t.fe ch).ls = f.ls ∧ keptOrProgrammed f (t.fe ch))

/-! ### Channels on the logic side -/

/-- A monitored input's bands have the limits of R49, each with its lower limit and without its upper one, and RAW is 1 in
Closed alone; the current is the one that the front end reads (R65, R66, R426). Flags and faults of a channel, each at its count
and not before: Indeterminate for 10 000 microticks sets `ind` and is no fault (R50), Wire-break for
1000 is a channel fault (R51), a feed on an output that is off for 1000 frames is an output fault of code 0x15 on
terminal A and 0x16 on terminal B (R252), and an open load
for 100 000 sets `ol` and is no fault (R269). -/
def Obligations.ChannelMonitors : Prop :=
  (∀ i : Int, (bandOf i = 1 ↔ 2500 ≤ i) ∧ (bandOf i = 0 ↔ 750 ≤ i ∧ i < 1750) ∧ (bandOf i = 2 ↔ i < 400)
    ∧ (bandOf i = 3 ↔ (400 ≤ i ∧ i < 750) ∨ (1750 ≤ i ∧ i < 2500)))
  ∧ ∀ (ch : Fin 48) (o : FieldObs) (s : State),
    ((s.fe ch).powered = true → (s.fe ch).live = true → (s.fe ch).mode = 2 →
        ∃ t, exec (.fieldSample ch o) s = .next t ∧ t = { s with fes := t.fes, chans := t.chans } ∧ sameFesBut s t [ch.val]
          ∧ (t.fe ch).mband = bandOf ((s.fe ch).readI ch o) ∧ (t.fe ch).raw = (bandOf ((s.fe ch).readI ch o) == 1))
    ∧ ((s.fe ch).ind < 10000 → exec (.indeterminateFlag ch) s = .next s)
    ∧ ((s.fe ch).wbrk < 1000 → exec (.wireBreakFault ch) s = .next s)
    ∧ ((s.chan ch).feedA < 1000 → (s.chan ch).feedB < 1000 → exec (.offStateFeedDetect ch) s = .next s)
    ∧ ((s.chan ch).olRun < 100000 → exec (.openLoadFlag ch) s = .next s)
    ∧ ((s.fe ch).mode = 2 → 10000 ≤ (s.fe ch).ind → ∃ t, exec (.indeterminateFlag ch) s = .next t ∧ onlyRegs s t
        ∧ sameRegsBut s t [R.CHN_STAT ch] ∧ t.fget (F.CHN_STAT_ind ch) = 1
        ∧ t.fget (F.CHN_STAT_valid ch) = s.fget (F.CHN_STAT_valid ch))
    ∧ ((s.fe ch).mode = 2 → 1000 ≤ (s.fe ch).wbrk → ∃ t, exec (.wireBreakFault ch) s = .next t ∧ onlyChans s t
        ∧ sameChansBut s t [ch.val] ∧ sameRegsBut s t [R.CHN_FAULT ch, R.CHN_FTS ch, R.CHN_STAT ch]
        ∧ faulted t ch .wire)
    ∧ (1000 ≤ (s.chan ch).feedA → (s.chan ch).causes.contains (.out 0x15) = false →
        ∃ t, exec (.offStateFeedDetect ch) s = .next t ∧ onlyChans s t
          ∧ sameChansBut s t (s.unitOf ch) ∧ ∀ k : Fin 48, k.val ∈ s.unitOf ch → faulted t k (.out 0x15))
    ∧ (1000 ≤ (s.chan ch).feedB → (s.chan ch).feedA < 1000 → (s.chan ch).causes.contains (.out 0x16) = false →
        ∃ t, exec (.offStateFeedDetect ch) s = .next t ∧ onlyChans s t
          ∧ sameChansBut s t (s.unitOf ch) ∧ ∀ k : Fin 48, k.val ∈ s.unitOf ch → faulted t k (.out 0x16))
    ∧ (s.fget (F.CHN_OCFG_ol ch) = 1 → 100000 ≤ (s.chan ch).olRun → ∃ t, exec (.openLoadFlag ch) s = .next t ∧ onlyRegs s t
        ∧ sameRegsBut s t [R.CHN_ODET ch] ∧ t.fget (F.CHN_ODET_ol ch) = 1)

/-- UPLINK_FRAME_RECEIVED: a frame that passes shows its status and counts; a frame that fails its check value or its
sequence counts, is a channel fault and makes the channel invalid (R71, R81, R82). A frame with the index k arrives
nine microticks after its sample (R68). In RUN a used channel whose link is not locked has a channel fault (R71, R75, R484). Where the spec leaves it open this rests on the model's choice of log 19. -/
def Obligations.UplinkFramesJudged : Prop :=
  ∀ (ch : Fin 48) (w : BitVec 64) (o : Option (BitVec 64)) (s : State), s.mode ≠ .reset → 9 ≤ s.now →
    ((s.chan ch).locked = false → s.mode = .run → s.fget (F.FSG_CFG_use (groupOf ch)) = 1 → (s.chan ch).causes.contains .link = false →
      ∃ t, exec (.uplinkFrameReceived ch o false) s = .next t ∧ onlyChans s t ∧ sameChansBut s t [ch.val] ∧ faulted t ch .link
        ∧ sameRegsBut s t [R.CHN_FAULT ch, R.CHN_FTS ch, R.CHN_STAT ch])
    ∧ ((s.chan ch).locked = true → linkLost (addErr (s.chan ch).errHist false) = false →
    let idx := s.now - 9
    (upCheck ch idx (some w) false = none →
      ∃ t, exec (.uplinkFrameReceived ch (some w) false) s = .next t
        ∧ (t.chan ch).good = (s.chan ch).good + 1 ∧ t.fget (F.CHN_STAT_seq ch) = idx % 16
        ∧ t.fget (F.CHN_STAT_raw ch) = w.toNat / 2 ^ 58 % 2 ∧ t.fget (F.CHN_STAT_in ch) = w.toNat / 2 ^ 59 % 2
        ∧ ((t.chan ch).hist.head?.map (fun x => x.idx)) = some idx ∧ t.mode = s.mode)
    ∧ (upCheck ch idx (some w) false = some .crc → linkMatters s ch = true → s.fget (F.CHN_ERRC_crcc ch) < 65535 →
      ∃ t, exec (.uplinkFrameReceived ch (some w) false) s = .next t ∧ (t.chan ch).good = 0
        ∧ t.fget (F.CHN_ERRC_crcc ch) = s.fget (F.CHN_ERRC_crcc ch) + 1 ∧ t.fget (F.CHN_FAULT_crce ch) = 1
        ∧ faulted t ch .frame ∧ sameFesBut s t [] ∧ sameMemories s t)
    ∧ (upCheck ch idx (some w) false = some .seq → linkMatters s ch = true → s.fget (F.CHN_ERRC_seqc ch) < 65535 →
      ∃ t, exec (.uplinkFrameReceived ch (some w) false) s = .next t ∧ (t.chan ch).good = 0
        ∧ t.fget (F.CHN_ERRC_seqc ch) = s.fget (F.CHN_ERRC_seqc ch) + 1 ∧ t.fget (F.CHN_FAULT_seqe ch) = 1
        ∧ t.fget (F.CHN_STAT_valid ch) = 0 ∧ sameFesBut s t [] ∧ sameMemories s t))

/-- A coupler frame that a side builds passes the other side's check value and carries its fields whole (R69, R70). -/
def Obligations.DownlinkFrameRoundTrip : Prop :=
  ∀ (n : Fin 48) (seq : Fin 16) (ra ea rb eb tpd q : Bool) (dts : Fin 4) (aux : Fin 16),
    let w := downFrame n seq ra ea rb eb tpd dts q aux
    frameOk true n w = true ∧ w.toNat / 2 ^ 60 = seq ∧ w.getLsbD 59 = ra ∧ w.getLsbD 58 = ea ∧ w.getLsbD 57 = !rb
      ∧ w.getLsbD 56 = eb ∧ w.getLsbD 55 = tpd ∧ w.toNat / 2 ^ 53 % 4 = dts ∧ w.getLsbD 52 = q
      ∧ w.toNat / 2 ^ 48 % 16 = aux ∧ w.toNat / 2 ^ 16 % 2 ^ 32 = 0

/-- DIP_WINDOW_CLOSE at the end of an input's own slot: an input that was closed before the dip and did not follow it dark
has an external feed (R56, R58). -/
def Obligations.DipFindsExternalFeed : Prop :=
  ∀ (slot n : Fin 48) (p : Nat) (s : State), 9 ≤ s.now → slotAt s (s.now - 9) = some (slot.val, p) → tpDip s ≤ p + 1 →
    s.pulsed slot = true → ownSlot s n = some slot.val → (s.chan n).preRaw = true → (s.chan n).winBad = false →
    (s.chan n).winAll = false →
    ∃ t, exec (.dipWindowClose slot) s = .next t ∧ onlyChans s t ∧ faulted t n .extFeed

/-- Dark tests: a slot starts the test of a unit that both lanes requested on, in Normal, in the microtick before (R247),
with DTS for its channels (R246), and no test of another unit. At the close of the observation window a test that saw
its terminals goes on, and one that did not is an output fault of code 0x12 or 0x13 on every channel of the unit; at
the close of the restore window a test that was restored has passed and is counted, one that was not is code 0x14, and
a discarded one is forgotten (R247 to R249). -/
def Obligations.DarkTestsJudged : Prop :=
  ∀ (k : Fin 96) (n : Fin 48) (high : Bool) (s : State), (dtSlots s)[k.val]? = some (n.val, high) →
    let w := dtWidth s
    let ms := dtMembers s n
    (s.mode = .run → k.val * (w + 50) ≤ s.now → (s.now - k.val * (w + 50)) % dtRound s = 0 →
      ((∀ m ∈ s.unitOf n, (s.chan m).prevOn = true ∧ (s.chan m).prevSlow = false) →
        ∃ t, exec (.darkTestSlotStart k) s = .next t ∧ onlyChans s t ∧ sameChansBut s t ms ∧ t.pins = s.pins
          ∧ sameRegsBut s t (ms.map R.CHN_ODET)
          ∧ (∀ m ∈ ms, t.fget (F.CHN_ODET_dtrun m) = 1 ∧ (t.chan m).test high = some ⟨s.now, true, false, true, true⟩)
          ∧ (1 ≤ s.fget (F.FSG_CFG_dtw (groupOf n)) → dtsNow s n s.now = 0 → dtsNow t n s.now = (if high then 1 else 2)))
      ∧ ((∃ m ∈ s.unitOf n, (s.chan m).prevOn = false ∨ (s.chan m).prevSlow = true) →
          exec (.darkTestSlotStart k) s = .next s))
    ∧ (∀ d : DarkTest, (s.chan n).test high = some d → d.live = true → d.obsDone = false → d.start + w + 8 ≤ s.now →
      ((∀ m ∈ ms, ∃ x, (s.chan m).test high = some x ∧ x.obs = true) →
        ∃ t, exec (.darkTestObservationClose k) s = .next t ∧ t = { s with chans := t.chans } ∧ sameChansBut s t ms
          ∧ (t.chan n).test high = some { d with obsDone := true })
      ∧ (¬ (∀ m ∈ ms, ∃ x, (s.chan m).test high = some x ∧ x.obs = true) → ∃ t, exec (.darkTestObservationClose k) s = .next t ∧ onlyChans s t
          ∧ (∀ m : Fin 48, m.val ∈ s.unitOf n → faulted t m (.out (if high then 0x12 else 0x13)))
          ∧ (t.chan n).test high = some { d with obsDone := true, live := false } ∧ t.fget (F.CHN_ODET_dtrun n) = 0))
    ∧ (∀ d : DarkTest, (s.chan n).test high = some d → d.start + w + 58 ≤ s.now →
      (d.live = true → d.obsDone = true → (∀ m ∈ ms, ∃ x, (s.chan m).test high = some x ∧ x.res = true) →
        ∃ t, exec (.darkTestRestoreClose k) s = .next t ∧ onlyChans s t ∧ sameChansBut s t ms ∧ t.pins = s.pins
          ∧ sameRegsBut s t (ms.map R.CHN_ODET ++ ms.map R.CHN_DTR) ∧ (t.chan n).test high = none
          ∧ ((s.chan n).test (!high) = none → t.fget (F.CHN_ODET_dtrun n) = 0)
          ∧ (high = true → (t.chan n).passHs = s.now
              ∧ t.fget (F.CHN_DTR_hsc n) = (s.fget (F.CHN_DTR_hsc n) + 1) % 65536)
          ∧ (high = false → (t.chan n).passLs = s.now
              ∧ t.fget (F.CHN_DTR_lsc n) = (s.fget (F.CHN_DTR_lsc n) + 1) % 65536))
      ∧ (d.live = true → d.obsDone = true → ¬ (∀ m ∈ ms, ∃ x, (s.chan m).test high = some x ∧ x.res = true) →
        ∃ t, exec (.darkTestRestoreClose k) s = .next t ∧ onlyChans s t ∧ (t.chan n).test high = none
          ∧ ∀ m : Fin 48, m.val ∈ s.unitOf n → faulted t m (.out 0x14))
      ∧ (d.live = false →
        ∃ t, exec (.darkTestRestoreClose k) s = .next t ∧ onlyChans s t ∧ sameChansBut s t ms ∧ t.pins = s.pins
          ∧ sameRegsBut s t (ms.map R.CHN_ODET) ∧ (t.chan n).test high = none
          ∧ (t.chan n).passHs = (s.chan n).passHs ∧ (t.chan n).passLs = (s.chan n).passLs))

/-- Current blocks: at the end of each block of 1000 microticks every channel's mean is shown and its sum starts again
(R244); at the end of each block of 10 000 a group whose mean is above its limit trips every output of it (R263), and the
hold of its standard outputs ends 1 000 000 microticks after the trip (R265). -/
def Obligations.CurrentBlocks : Prop :=
  ∀ (s : State) (ch : Fin 48) (g : Fin 6) (t0 : Nat),
    (s.mode ≠ .reset → 1008 ≤ s.now → (s.now - 8) % 1000 = 0 →
      ∃ t, exec .sharingBlockEnd s = .next t ∧ onlyChans s t ∧ (t.chan ch).sumI = 0
        ∧ (t.chan ch).mean = blockMa s ch (s.chan ch).sumI)
    ∧ (s.mode ≠ .reset → 10008 ≤ s.now → (s.now - 8) % 10000 = 0 →
      ∃ t, exec .groupCurrentBlockEnd s = .next t ∧ t = { s with regs := t.regs, chans := t.chans, pins := t.pins, groups := t.groups }
        ∧ (t.chan ch).sumG = 0
        ∧ (210000000 < (groupChans g).foldl (fun a k => a + (s.chan k).sumG) 0 →
            t.fget (F.FSG_FLT_ovl g) = 1 ∧ (t.group g).stdHold = true ∧ (t.group g).tripAt = some s.now
            ∧ (isOutputMode (s.chMode ch) = true → groupOf ch = g.val → faulted t ch (.out 0x1B))))
    ∧ ((s.group g).tripAt = some t0 → t0 + 1000000 ≤ s.now →
      ∃ t, exec (.overloadStdqRelease g) s = .next t ∧ t = { s with groups := t.groups } ∧ (t.group g).stdHold = false
        ∧ ∀ k : Nat, k ≠ g.val → t.group k = s.group k)

/-! ### Lanes and comparator -/

/-- Lane A starts a cycle on the snapshot of the hub's oldest boundary, and Lane B half a cycle later on the same
snapshot (R21, R22); each counts its boundaries from the step commands that it receives, and ignores one of more than
1 µs, with a loss of sync (R112); a lane that needs more than 288 clocks stops the module with cause 0x24 (R136); a
release ends the lane's evaluation (R22). A window that has ended at the boundary raises an on-delay's output with
the stamp of its end (R89, R174) and sets the trip latch of a closing or opening dual-channel cell with code 1 or 2
(R177); no other cell changes. Where the spec leaves it open this rests on the model's choice of log 21. -/
def Obligations.LaneCyclesRun : Prop :=
  ∀ (s : State) (k b : Nat) (d : Int) (rest : List (Nat × Nat × Int)) (o : SliceObs)
    (up : List NetUpset) (cy : CycleObs) (sn : Snap) (f : SetFault)
    (parity : List (Nat × BitVec 64)) (l : Lane) (slot : Fin 2048) (w : Win), s.mode = .run →
    (s.hub.bounds = (k, b, d) :: rest → b + 12 ≤ s.now →
      let y := cy.step.getD d
      ∃ t, exec (.laneACycleStart cy o up) s = .next t ∧ t.hub.bounds = rest
        ∧ (∃ x, t.lb.nextSnap = some x ∧ x.boundary = b ∧ x.cycle = k ∧ x.step = d)
        ∧ (cy.clocks ≤ 288 → t.la.startAt = s.now ∧ ∃ x, t.la.snap = some x ∧ x.boundary = b ∧ x.cycle = k)
        ∧ (288 < cy.clocks → t.mode = .safe ∧ t.rget R.SYS_FAULT = 0xC0000024#32)
        ∧ (k = s.hub.first → t.la.bnd = b ∧ t.la.phi = 0)
        ∧ (k ≠ s.hub.first → y.natAbs ≤ 1 → (s.la.phi + y).natAbs ≤ s.cyc / 2 →
            t.la.bnd = (((s.la.bnd + s.cyc : Nat) : Int) + y).toNat ∧ t.la.phi = s.la.phi + y)
        ∧ (k ≠ s.hub.first → 1 < y.natAbs →
            t.la.bnd = s.la.bnd + s.cyc ∧ t.la.phi = s.la.phi ∧ t.hub.lost = true)
        ∧ (t.mode = .run → sameFesBut s t []) ∧ sameMemories s t ∧ sameFuses s t ∧ keptChannelConfig s t)
    ∧ (s.lb.nextSnap = some sn → sn.boundary + 12 + s.cyc / 2 ≤ s.now →
      let y := cy.step.getD sn.step
      ∃ t, exec (.laneBCycleStart cy o up) s = .next t ∧ t.lb.nextSnap = none
        ∧ t.hub.bounds = s.hub.bounds ∧ t.hub.next = s.hub.next
        ∧ (cy.clocks ≤ 288 → t.lb.startAt = s.now ∧ t.lb.snap = some sn)
        ∧ (288 < cy.clocks → t.mode = .safe ∧ t.rget R.SYS_FAULT = 0xC0000024#32)
        ∧ (sn.first = true → t.lb.bnd = sn.boundary + s.cyc / 2 ∧ t.lb.phi = 0)
        ∧ (sn.first = false → y.natAbs ≤ 1 → (s.lb.phi + y).natAbs ≤ s.cyc / 2 →
            t.lb.bnd = (((s.lb.bnd + s.cyc : Nat) : Int) + y).toNat ∧ t.lb.phi = s.lb.phi + y)
        ∧ (sn.first = false → 1 < y.natAbs →
            t.lb.bnd = s.lb.bnd + s.cyc ∧ t.lb.phi = s.lb.phi ∧ t.hub.lost = true)
        ∧ (t.mode = .run → sameFesBut s t []) ∧ sameMemories s t ∧ sameFuses s t ∧ keptChannelConfig s t)
    ∧ (s.la.snap = some sn → s.la.evaled = true → s.la.startAt + s.cyc ≤ s.now →
      ∃ t, exec (.laneRelease .a f parity) s = .next t ∧ t.la.evaled = false ∧ t.comp.epoch = !s.comp.epoch
        ∧ (∃ r, r.cyc = sn.cycle ∧ (∀ n, f.cut = some n → r.words.length ≤ n)
            ∧ (s.comp.delay = none → t.comp.delay = some r)
            ∧ (s.comp.delay.isSome = true → t.comp.delay = s.comp.delay ∧ t.la.release = some r))
        ∧ (parity = [] → t = { s with la := t.la, comp := t.comp })
        ∧ (t.mode = .run → sameFesBut s t []) ∧ sameMemories s t ∧ sameFuses s t ∧ keptChannelConfig s t)
    ∧ (s.lb.snap = some sn → s.lb.evaled = true → s.lb.startAt + s.cyc ≤ s.now →
      ∃ t, exec (.laneRelease .b f parity) s = .next t ∧ t.lb.evaled = false
        ∧ (∃ r, t.lb.release = some r ∧ r.cyc = sn.cycle ∧ ∀ n, f.cut = some n → r.words.length ≤ n)
        ∧ t = { s with lb := t.lb, comp := t.comp })
    ∧ (
      let typ := ((s.img l).cell slot).typ
      let c := cellOf l (s.lane l).cells typ slot
      (s.lane l).snap = some sn → (s.lane l).evaled = true → c.seen = true → c.w1 = some w →
      winDone w (BitVec.ofNat 32 (laneBound s l (s.lane l))) = true → (typ = 3 ∨ isDual typ = true) →
      ∃ t, exec (.windowClose l slot) s = .next t ∧ t.mode = .run ∧
        let c' := cellOf l (t.lane l).cells typ slot
        (typ = 3 → c'.w1 = none ∧ c'.o0 = (if c.o0.v then c.o0 else ⟨true, true, winEnd w⟩))
        ∧ (isDual typ = true → c.st = 1 → c'.trip = true ∧ bitAt c'.own 1 = true ∧ c'.o0.v = false)
        ∧ (isDual typ = true → c.st = 4 → c'.trip = true ∧ bitAt c'.own 2 = true ∧ c'.o0.v = false)
        ∧ (∀ j : Nat, j ≠ slot.val → (t.lane l).cells.find j = (s.lane l).cells.find j)
        ∧ sameRegsBut s t eventRegs ∧ t = { s with regs := t.regs, cask := t.cask, la := t.la, lb := t.lb })

/-- OUTPUT_UPDATE_POINT compares the two sets of the cycle that is due with each other and with the length that the vintage gives
them (R24, R210 to R215): a missing set stops the
module with cause 0x15, a difference in a column that works, or a set of another length, with cause 0x10, and a delay-register error
with 0x12; a fault of the tree that drops a word out of the code stops the health pairs and reports no mismatch (R214, R228); a
healthy comparison counts, and shows the healthy code through two microticks after the next update point. Where the
spec leaves it open this rests on the model's choice of log 21. -/
def Obligations.UpdatePointCompares : Prop :=
  ∀ (s : State) (k u : Nat) (rest : List (Nat × Nat)) (a b : Rel) (f : CompareFault), s.mode = .run → s.comp.dues = (k, u) :: rest → u ≤ s.now →
    let epoch := if s.la.release.isSome then !s.comp.epoch else s.comp.epoch
    let ws := flipWords a.words f.flips
    let n := match s.la.snap with | some sn => (laneSet s .a s.la sn).length | none => 0
    ((∀ r, s.comp.delay = some r → r.cyc ≠ k) →
      ∃ t, exec (.outputUpdatePoint f) s = .next t ∧ wentSafe s t 0x15 ∧ sameMemories s t ∧ t.comp.bad = true)
    ∧ (s.comp.delay = some a → a.cyc = k → (∀ r, s.lb.release = some r → r.cyc ≠ k) →
      ∃ t, exec (.outputUpdatePoint f) s = .next t ∧ wentSafe s t (if badWords epoch ws then 0x12 else 0x15) ∧ sameMemories s t
        ∧ t.comp.bad = true)
    ∧ (s.comp.delay = some a → a.cyc = k → s.lb.release = some b → b.cyc = k →
      ((ws.length ≠ n ∨ b.words.length ≠ n) → (firstDiff n ws b.words f.mask).isSome = true)
      ∧ (badWords epoch ws = false → firstDiff n ws b.words f.mask = none → netsAgree a b (k - s.hub.first) = true →
        (∀ i, f.drop = some i → i < n → ∃ t, exec (.outputUpdatePoint f) s = .next t ∧ t.mode = .run ∧ t.comp.bad = true
          ∧ t.regs = s.regs ∧ t.comp.dues = rest ∧ sameFesBut s t [] ∧ sameMemories s t ∧ sameFuses s t)
        ∧ ((∀ i, f.drop = some i → n ≤ i) → ∃ t, exec (.outputUpdatePoint f) s = .next t ∧ t.mode = .run
          ∧ t.fget F.CMP_CNT_cnt = (s.fget F.CMP_CNT_cnt + 1) % 2 ^ 32 ∧ t.comp.through = u + s.cyc + 2 ∧ t.comp.made = true
          ∧ t.comp.dues = rest ∧ t.comp.delay = s.la.release ∧ t.la.release = none ∧ t.lb.release = none
          ∧ t.rget R.SYS_FAULT = s.rget R.SYS_FAULT ∧ sameFesBut s t [] ∧ sameMemories s t ∧ sameFuses s t
          ∧ sameChannelConfig s t))
      ∧ (∀ i, badWords epoch ws = false → firstDiff n ws b.words f.mask = some i →
        ∃ t, exec (.outputUpdatePoint f) s = .next t ∧ wentSafe s t 0x10 ∧ t.fget F.CMP_MLOC_vld = 1
          ∧ t.comp.bad = true ∧ (s.fget F.CMP_MLOC_vld = 0 → t.rget R.CMP_MTS = BitVec.ofNat 32 u))
      ∧ (badWords epoch ws = true →
        ∃ t, exec (.outputUpdatePoint f) s = .next t ∧ wentSafe s t 0x12 ∧ t.comp.bad = true))

/-- SHADOW_SLOT_CHECK: flags that show the injected step pass and count; any other pattern stops the module with cause
0x14 (R219, R220). CONFIG_READBACK_PASS: two equal configurations that match their references count a pass; a
difference stops the module with cause 0x20 (R153). Where the spec leaves it open this rests on the model's choice
of log 47. -/
def Obligations.ShadowAndReadbackChecked : Prop :=
  ∀ (s : State) (fa fb : Option ShadowFlag) (flag : ShadowFlag) (us : Nat) (xa xb : List (Nat × Byte)), s.mode = .run →
    (s.comp.flag = none → exec (.shadowSlotCheck fa fb) s = .next s)
    ∧ (s.comp.flag = some flag → s.comp.shadowAt + 1 ≤ s.now →
      let want := shadowWant s.comp.shadow
      (fa.getD flag = want → fb.getD flag = want →
        (∀ j, s.comp.shadow = some j →
          ∃ t, exec (.shadowSlotCheck fa fb) s = .next t
            ∧ t = { s with regs := t.regs, comp := { s.comp with shadow := none, flag := none } }
            ∧ sameRegsBut s t [R.CMP_STAT, R.CMP_INJ] ∧ t.fget F.CMP_INJ_pass = (s.fget F.CMP_INJ_pass + 1) % 65536
            ∧ t.fget F.CMP_INJ_step = (j + 1) % 66 ∧ t.fget F.CMP_STAT_injok = 1)
        ∧ (s.comp.shadow = none →
          exec (.shadowSlotCheck fa fb) s = .next { s with comp := { s.comp with shadow := none, flag := none } }))
      ∧ (fa.getD flag ≠ want ∨ fb.getD flag ≠ want →
        ∃ t, exec (.shadowSlotCheck fa fb) s = .next t ∧ wentSafe s t 0x14
          ∧ t.fget F.CMP_STAT_injok = (if s.comp.shadow.isSome then 0 else s.fget F.CMP_STAT_injok)))
    ∧ (us ≤ 10000 →
      let ca := flipMem 0 s.la.cfg (cfgFlips s.la xa)
      let cb := flipMem 0xFF s.lb.cfg (cfgFlips s.lb xb)
      (configOk { s with la := { s.la with cfg := ca }, lb := { s.lb with cfg := cb } } = true →
        ∃ t, exec (.configReadbackPass us xa xb) s = .next t ∧ sameRegsBut s t [R.PRS_RBK]
          ∧ t = { s with regs := t.regs, la := { s.la with cfg := ca }, lb := { s.lb with cfg := cb } }
          ∧ t.fget F.PRS_RBK_passes = (s.fget F.PRS_RBK_passes + 1) % 65536 ∧ t.fget F.PRS_RBK_ptime = us)
      ∧ (configOk { s with la := { s.la with cfg := ca }, lb := { s.lb with cfg := cb } } = false →
        ∃ t, exec (.configReadbackPass us xa xb) s = .next t ∧ wentSafe s t 0x20 ∧ t.la.cfg = ca ∧ t.lb.cfg = cb))

/-! ### Register writes -/

/-- REGISTER_WRITE takes a word whole or not at all (R537): a refused word is recorded and changes nothing else, with
the event of BST_ORD0 and BST_ORD1 alone (R455, R493); a word at an address without a register changes nothing (R492),
and one outside the block spans or not aligned is an access fault of the core that writes it (R344, R493); an
accepted word of SYS, SEAL, FSG, SES and BST replaces each writable field, clears the event bits written as 1 but for
those that hardware sets in the same clock, and leaves read-only fields (R12, R13). Of two writes in the same clock the
pair's comes before the host's (R14); of two Cask commands in the same clock the second finds the controller busy (R421). The
accesses are those on which no trigger of the debug module acts (R357). Where the spec leaves it open this rests on the model's choice of log 26 and log
31. -/
def Obligations.RegisterWritesAreWhole : Prop :=
  ∀ (s : State) (req r2 : Requester) (addr v w2 : Word) (w : WriteWord),
    (writeRefused s req addr.toNat v = true →
      ∃ t, exec (.registerWrite req addr ⟨v, 0#32, none⟩) s = .next t ∧ onlyRegs s t
        ∧ sameRegsBut s t [R.SYS_REFA, R.SYS_REFI, R.BST_EV]
        ∧ t.rget R.SYS_REFA = addr ∧ t.fget F.SYS_REFI_vld = 1 ∧ t.fget F.SYS_REFI_req = (if isHost req then 1 else 0)
        ∧ t.fget F.SYS_REFI_cnt = min (s.fget F.SYS_REFI_cnt + 1) 65535
        ∧ (addr.toNat ≠ R.BST_ORD0 → addr.toNat ≠ R.BST_ORD1 → t.rget R.BST_EV = s.rget R.BST_EV)
        ∧ (addr.toNat = R.BST_ORD0 ∨ addr.toNat = R.BST_ORD1 → t.fget F.BST_EV_ordrej = 1))
    ∧ (s.mode = .reset ∨ (reachesRegs s req addr.toNat = true ∧ regDesc addr.toNat = none) →
      exec (.registerWrite req addr { w with tie := none }) s = .next s)
    ∧ (s.mode ≠ .reset → noTrigger s req onStore addr = true →
      inSpan addr.toNat = false ∨ addr.toNat % 4 ≠ 0 ∨ mayWrite s req addr.toNat = false →
      ∃ t, exec (.registerWrite req addr ⟨v, 0#32, none⟩) s = .next t ∧ accessFaulted s t req 7#32 addr)
    ∧ (writeAccepted s req addr.toNat w.word = true → w.tie = none →
      addr.toNat / 0x10000 ∈ [0x4000, 0x4002, 0x4005, 0x400c] → addr.toNat ≠ R.SYS_RST →
      ∃ t, exec (.registerWrite req addr w) s = .next t ∧ onlyRegs s t ∧ sameRegsBut s t [addr.toNat]
        ∧ ∀ d, regDesc addr.toNat = some d → ∀ f, f ∈ d.fields →
            let old := bits (s.rget addr.toNat).toNat f.hi f.lo
            let new := bits (t.rget addr.toNat).toNat f.hi f.lo
            match f.acc with
            | .ro => new = old
            | .wo => new = old
            | .w1c => ∀ i : Nat, i ≤ f.hi - f.lo →
                new.testBit i = ((old.testBit i && !w.word.getLsbD (f.lo + i)) || w.set.getLsbD (f.lo + i))
            | _ => new = bits w.word.toNat f.hi f.lo)
    ∧ (isHost req = true → isHost r2 = false → ∀ t, exec (.registerWrite r2 addr ⟨w2, 0#32, none⟩) s = .next t →
      (addr.toNat ≠ R.CSK_CMD →
        exec (.registerWrite req addr ⟨v, 0#32, some (r2, w2)⟩) s = exec (.registerWrite req addr ⟨v, 0#32, none⟩) t)
      ∧ (addr.toNat = R.CSK_CMD → writeAccepted s r2 addr.toNat w2 = true → w2.getLsbD 31 = true → v.getLsbD 31 = true →
        s.fget F.CSK_CMD_busy = 0 → t.mode ≠ .reset →
        ∃ u, exec (.registerWrite req addr ⟨v, 0#32, some (r2, w2)⟩) s = .next u ∧ refusedWith t u req addr.toNat 5))

/-- The registers that give commands to Press, comparator, tasting, switch and reset: a host request is captured with
its microtick (R123); a forced mismatch is set for an OUTP slot alone (R233), and kept for its microtick, in which SW1 may still go
off (R487); a region order is taken (R455); a gate
list is committed with a cycle time in range (R325); forwarding is switched on (R314); and the restart sequence is
0xA5 then 0x5A from the same side within 1000 microticks (R483). Where the spec leaves it open this rests on the
model's choice of log 1 and log 26. -/
def Obligations.BlockCommandWrites : Prop :=
  ∀ (s : State) (req : Requester) (w : Word) (hi : Bool) (p : Fin 5) (r : Requester) (t0 : Nat),
    (writeAccepted s req R.PRS_HREQ w = true →
      ∃ t, exec (.hostRequestWrite req w) s = .next t ∧ t.hreq.head? = some (s.now, w.setWidth 16)
        ∧ t.fget F.PRS_HREQ_req = w.toNat % 65536 ∧ sameRegsBut s t [R.PRS_HREQ] ∧ t = { s with regs := t.regs, hreq := t.hreq })
    ∧ (writeAccepted s req R.CMP_TEST (withBit w 31) = true → s.mode = .run → s.sw1 = true →
      (((imgA s).cell (bits w.toNat 10 0)).typ = 0x30 → ∃ t, exec (.forcedMismatch req w) s = .next t
        ∧ t = { s with regs := t.regs, comp := { s.comp with forced := some (bits w.toNat 10 0) }
                       sealr := { s.sealr with rws := t.sealr.rws } }
        ∧ (s.fget F.CMP_TEST_force = 0 → ⟨s.now, req, R.CMP_TEST, s.rget R.CMP_TEST, s.comp.forced, [], none⟩ ∈ t.sealr.rws)
        ∧ sameRegsBut s t [R.CMP_TEST] ∧ t.fget F.CMP_TEST_force = 0)
      ∧ (((imgA s).cell (bits w.toNat 10 0)).typ ≠ 0x30 → ∃ t, exec (.forcedMismatch req w) s = .next t
        ∧ refusedWith s t req R.CMP_TEST 5))
    ∧ (let a := if hi then R.BST_ORD1 else R.BST_ORD0
       (writeAccepted s req a w = true → ∃ t, exec (.bstOrderWrite req hi w) s = .next t ∧ onlyRegs s t ∧ sameRegsBut s t [a]
         ∧ t.rget a = w)
       ∧ (writeRefused s req a w = true → ∃ t, exec (.bstOrderWrite req hi w) s = .next t ∧ t.fget F.BST_EV_ordrej = 1
         ∧ onlyRegs s t ∧ sameRegsBut s t [R.SYS_REFA, R.SYS_REFI, R.BST_EV]))
    ∧ (writeAccepted s req (R.NET_GCFG p) (withBit w 30) = true →
      let l := (List.range (bits w.toNat 5 0 + 1)).map (fun i => (s.port p).pending.get ⟨0xFF, 0x10⟩ i)
      (1024 ≤ gateCycle l → gateCycle l ≤ 1000000000 → ∃ t, exec (.gateListCommit req p w) s = .next t
        ∧ t.port p = { s.port p with commit := some l } ∧ t.fget (F.NET_GCFG_pend p) = 1 ∧ samePortsBut s t [p.val]
        ∧ sameRegsBut s t [R.NET_GCFG p] ∧ onlyNet s t)
      ∧ (gateCycle l < 1024 ∨ 1000000000 < gateCycle l → ∃ t, exec (.gateListCommit req p w) s = .next t
        ∧ refusedWith s t req (R.NET_GCFG p) 5))
    ∧ ((s.mode ≠ .reset → s.mode ≠ .startup → ∃ t, exec (.forwardingEnable none w) s = .next t ∧ onlyRegs s t
        ∧ sameRegsBut s t [R.NET_CTL] ∧ t.fget F.NET_CTL_fwd = 1)
      ∧ (writeAccepted s req R.NET_CTL (withBit w 31) = true → ∃ t, exec (.forwardingEnable (some req) w) s = .next t
        ∧ onlyRegs s t ∧ sameRegsBut s t [R.NET_CTL] ∧ t.fget F.NET_CTL_fwd = 1))
    ∧ (writeAccepted s req R.SYS_RST w = true → s.boot.rstAccept = false →
      (s.boot.rstFirst = none → w.toNat % 256 = 0xA5 → ∃ t, exec (.restartRequest req w) s = .next t
        ∧ t = { s with regs := t.regs, boot := { s.boot with rstFirst := some (req, s.now) } } ∧ sameRegsBut s t [])
      ∧ (s.boot.rstFirst = some (r, t0) → w.toNat % 256 = 0x5A → isHost r = isHost req → s.now < t0 + 1000 →
        ∃ t, exec (.restartRequest req w) s = .next t ∧ t.boot.rstAccept = true ∧ t.enA.line = true ∧ t.enB.line = true
          ∧ t.fget (if isHost req then F.SYS_RCAUSE_reqh else F.SYS_RCAUSE_reqp) = 1
          ∧ sameRegsBut s t (R.SYS_RCAUSE :: eventRegs)
          ∧ t = { s with regs := t.regs, boot := t.boot, cask := t.cask, enA := t.enA, enB := t.enB })
      ∧ (s.boot.rstFirst = some (r, t0) → (w.toNat % 256 ≠ 0x5A ∨ isHost r ≠ isHost req ∨ t0 + 1000 ≤ s.now) →
        ∃ t, exec (.restartRequest req w) s = .next t ∧ t.fget F.SYS_EV_rstrej = 1 ∧ sameRegsBut s t [R.SYS_EV]
          ∧ t = { s with regs := t.regs, boot := { s.boot with rstFirst := none } }))

/-- The pair's command registers: a split request is taken in RUN in lockstep with no debug session and not from the
host (R348), a merge request from the main core while split (R352); a kick with the expected code restarts the
diagnostic deadline, a wrong one is an event (R356); a mailbox write of either side shows itself to the other (R346,
R497). Where the spec leaves it open this rests on the model's choice of log 1 and log 35. -/
def Obligations.TandemCommandWrites : Prop :=
  ∀ (s : State) (req : Requester) (w : Word),
    (writeAccepted s req R.TND_SPLIT (withBit w 31) = true →
      (s.mode = .run → s.fget F.TND_STAT_mode = 0 → s.fget F.TND_STAT_spend = 0 → s.tnd.dmact = false → isHost req = false →
        ∃ t, exec (.splitRequest req w) s = .next t ∧ t.fget F.TND_STAT_spend = 1 ∧ t.fget F.TND_SPLIT_bud = w.toNat % 256
          ∧ t.tnd = { s.tnd with reqAt := s.now, budget := w.toNat % 256 } ∧ sameRegsBut s t [R.TND_SPLIT, R.TND_STAT]
          ∧ onlyTandem s t)
      ∧ (s.mode ≠ .run ∨ s.fget F.TND_STAT_mode ≠ 0 ∨ s.fget F.TND_STAT_spend ≠ 0 ∨ s.tnd.dmact = true ∨ isHost req = true →
        ∃ t, exec (.splitRequest req w) s = .next t ∧ refusedWith s t req R.TND_SPLIT 5))
    ∧ (writeAccepted s req R.TND_MERGE (withBit w 31) = true →
      (req = .pair → s.fget F.TND_STAT_mode = 1 → ∃ t, exec (.mergeRequest req w) s = .next t ∧ onlyRegs s t
        ∧ sameRegsBut s t [R.TND_STAT] ∧ t.fget F.TND_STAT_mpend = 1)
      ∧ (req ≠ .pair ∨ s.fget F.TND_STAT_mode ≠ 1 → ∃ t, exec (.mergeRequest req w) s = .next t
        ∧ refusedWith s t req R.TND_MERGE 5))
    ∧ (writeAccepted s req R.TND_KICK w = true → s.fget F.TND_STAT_ddlarm = 1 →
      (w.toNat % 256 = (if s.tnd.kickA5 then 0xA5 else 0x5A) → ∃ t, exec (.diagnosticKick req w) s = .next t
        ∧ sameRegsBut s t [] ∧ onlyTandem s t
        ∧ t.tnd = { s.tnd with ddlEnd := s.now + s.fget F.TND_DDL_ms * 1000, ddlLeft := s.fget F.TND_DDL_ms * 1000
                               kickA5 := !s.tnd.kickA5 })
      ∧ (w.toNat % 256 ≠ (if s.tnd.kickA5 then 0xA5 else 0x5A) → ∃ t, exec (.diagnosticKick req w) s = .next t
        ∧ onlyRegs s t ∧ sameRegsBut s t [R.TND_EV] ∧ t.fget F.TND_EV_kbad = 1))
    ∧ (writeAccepted s req R.TND_HMBX w = true → (isHost req = true → romServes s = false) →
      ∃ t, exec (.hostMailboxWrite req w) s = .next t ∧ onlyRegs s t ∧ t.rget R.TND_HMBX = w
        ∧ (isHost req = true → sameRegsBut s t [R.TND_HMBX, R.TND_MSIP] ∧ t.fget F.TND_MSIP_msip = 1)
        ∧ (isHost req = false → sameRegsBut s t [R.TND_HMBX]))
    ∧ (writeAccepted s req R.TND_PMBX w = true → isHost req = false →
      ∃ t, exec (.pairMailboxWrite req w) s = .next t ∧ onlyRegs s t ∧ sameRegsBut s t [R.TND_PMBX, R.SYS_HIPEND]
        ∧ t.rget R.TND_PMBX = w ∧ t.fget F.SYS_HIPEND_mbx = 1)

/-- A release frees the log entry that it names, and all its fields read 0; it is refused, and the entry kept, while the
entry's deadline runs, or while it is `hard` in a safety-relevant region and `ret` is 0 (R376). -/
def Obligations.LogReleaseFreesEntry : Prop :=
  ∀ (s : State) (req : Requester) (w : Word) (e : LogEnt), s.wf = true →
    writeAccepted s req R.EDC_LREL (withBit w 31) = true → s.memc.log.find (w.toNat % 16) = some e →
    let stays := e.dl.isSome = true ∨ (e.hard = true ∧ safetyRel s e.mem e.addr.toNat = true ∧ e.ret = false)
    (stays → ∃ t, exec (.logRelease req w) s = .next t ∧ refusedWith s t req R.EDC_LREL 5)
    ∧ (¬ stays → ∃ t, exec (.logRelease req w) s = .next t ∧ t.memc.log.find (w.toNat % 16) = none
        ∧ (∀ k : Nat, k ≠ w.toNat % 16 → t.memc.log.find k = s.memc.log.find k)
        ∧ sameRegsBut s t [R.EDC_STAT] ∧ t.fget F.EDC_STAT_nlog = t.memc.log.entries.length % 32
        ∧ t = { s with regs := t.regs, memc := { s.memc with log := t.memc.log } }
        ∧ (t.fget F.EDC_LSEL_idx = w.toNat % 16 → ∀ a, a ∈ [R.EDC_LADDR, R.EDC_LINFO, R.EDC_LFTS, R.EDC_LLTS, R.EDC_LDL] →
            readWord t a = 0#32))

/-- The memory commands of the pair and the host: EDC_LOCK is set for good (R377); a scrub starts on an aligned range of
its target while none runs, with its counts at 0 (R382), and an abort is noted (R384); a bank is taken for
retirement once, after which every write of the register is refused (R385, R390). Where the spec leaves it open this rests on the model's choice of log 1 and log 37. -/
def Obligations.EdcCommandWrites : Prop :=
  ∀ (s : State) (req : Requester) (w : Word),
    (writeAccepted s req R.EDC_LOCK (withBit w 0) = true → ∃ t, exec (.edcLockSet req w) s = .next t ∧ onlyRegs s t
      ∧ sameRegsBut s t [R.EDC_LOCK, R.EDC_STAT] ∧ t.fget F.EDC_LOCK_lock = 1 ∧ t.fget F.EDC_STAT_lock = 1)
    ∧ (writeAccepted s req R.EDC_SCCTL (withBit w 31) = true → bits w.toNat 27 26 ≤ 2 →
      let tgt := bits w.toNat 27 26
      let sp := scrubSpan tgt
      let a := s.fget F.EDC_SCBASE_addr
      let b := s.fget F.EDC_SCEND_addr
      (s.memc.scrub = none → a % sp.2.2 = 0 → b % sp.2.2 = 0 → sp.1 ≤ a → b ≤ sp.1 + sp.2.1 → a < b → (tgt = 1 → s.isSplit = false) →
        ∃ t, exec (.scrubStart req w) s = .next t ∧ t.fget F.EDC_SCCTL_busy = 1 ∧ t.fget F.EDC_SCCTL_tgt = tgt
          ∧ t.rget R.EDC_SCCHK = 0#32 ∧ t.rget R.EDC_SCCOR = 0#32 ∧ t.rget R.EDC_SCUNC = 0#32
          ∧ sameRegsBut s t [R.EDC_SCCTL, R.EDC_SCCHK, R.EDC_SCCOR, R.EDC_SCUNC, R.EDC_SCFUA, R.EDC_SCSTAT, R.EDC_SCINV]
          ∧ t.memc.scrub = some (a, b, tgt, w.getLsbD 28, s.now)
          ∧ t = { s with regs := t.regs, memc := { s.memc with scrub := t.memc.scrub, abort := t.memc.abort } })
      ∧ (s.memc.scrub.isSome = true ∨ a % sp.2.2 ≠ 0 ∨ b % sp.2.2 ≠ 0 ∨ a < sp.1 ∨ sp.1 + sp.2.1 < b ∨ b ≤ a →
        ∃ t, exec (.scrubStart req w) s = .next t ∧ refusedWith s t req R.EDC_SCCTL 5))
    ∧ (writeAccepted s req R.EDC_SCCTL (withBit (withoutBit w 31) 29) = true → s.memc.scrub.isSome = true →
      bits w.toNat 27 26 ≤ 2 → ∃ t, exec (.scrubAbort req w) s = .next t ∧ t.memc.abort = true ∧ sameRegsBut s t [R.EDC_SCCTL]
        ∧ t = { s with regs := t.regs, memc := { s.memc with abort := true } })
    ∧ (writeAccepted s req R.EDC_REMAP (withBit w 31) = true →
      (s.memc.remap = none → (s.isSplit = true → bitAt (s.fget F.TND_SBANK_mask) (bits w.toNat 19 16) = false) →
        ∃ t, exec (.bankRemap req w) s = .next t ∧ t.fget F.EDC_REMAP_busy = 1 ∧ t.fget F.EDC_REMAP_bank = bits w.toNat 19 16
          ∧ sameRegsBut s t [R.EDC_REMAP] ∧ t.memc.remap = some (bits w.toNat 19 16, s.now)
          ∧ t = { s with regs := t.regs, memc := { s.memc with remap := t.memc.remap } })
      ∧ (s.memc.remap.isSome = true → ∃ t, exec (.bankRemap req w) s = .next t ∧ refusedWith s t req R.EDC_REMAP 5))
    ∧ (writeAccepted s req R.EDC_REMAP w = true → s.memc.remap.isSome = true →
      ∃ t, exec (.registerWrite req (BitVec.ofNat 32 R.EDC_REMAP) ⟨w, 0#32, none⟩) s = .next t ∧ refusedWith s t req R.EDC_REMAP 5)

/-! ### Cask commands and records -/

/-- CSK_CMD with `go` while the controller is idle (R400): with the power-fail warning it ends with error 4, and before
recovery with error 2, but for a slot page; otherwise an append waits its turn behind the queued events (R401, R402), racking starts in
its target segment, and without one ends with error 3 (R407, R408), a page is retired once (R411), a slot page takes 2048 bytes of SRAM
with SW1 on (R412), and a lookup names the live record (R397). Where the spec leaves it open this rests on the model's choice of log 1,
log 39 and log 45. -/
def Obligations.CaskCommands : Prop :=
  ∀ (s : State) (req : Requester) (w : Word) (d : List Byte) (j : Nat) (r : JRec), s.fget F.CSK_CMD_busy = 0 →
    let fails (t : State) (err : Nat) : Prop :=
      t.fget F.CSK_CMD_err = err ∧ t.fget F.CSK_CMD_busy = 0 ∧ t.fget F.CSK_EV_cerr = 1 ∧ t.mode = s.mode ∧ sameMemories s t
    let typ := s.fget F.CSK_RHDR_type
    let len := s.fget F.CSK_RHDR_len
    let key := s.fget F.CSK_RKEY_key
    let src := s.fget F.CSK_SADDR_addr
    let page := s.fget F.CSK_PAGE_page
    (∀ op : Nat, 1 ≤ op → op ≤ 5 → ∀ c, c = (if op = 1 then Instr.appendARecord req w else if op = 2 then .startRacking req w
        else if op = 3 then .retirePage req w else if op = 4 then .writeSlotPage req w else .lookUpTheLiveRecord req w) →
      writeAccepted s req R.CSK_CMD (caskWord w op) = true →
      (s.fget F.CSK_STAT_pfw = 1 → ∃ t, exec c s = .next t ∧ fails t 4 ∧ onlyRegs s t)
      ∧ (s.fget F.CSK_STAT_pfw = 0 → s.fget F.CSK_STAT_rdy = 0 → op ≠ 4 → ∃ t, exec c s = .next t ∧ fails t 2 ∧ onlyRegs s t))
    ∧ (s.fget F.CSK_STAT_pfw = 0 →
      writeAccepted s req R.CSK_CMD (caskWord w 4) = true → page < 2048 → sourceOk src 2048 = true → s.mode ≠ .startup →
        (s.sw1 = false → ∃ t, exec (.writeSlotPage req w) s = .next t ∧ fails t 2)
        ∧ (s.wf = true → s.sw1 = true → s.isSplit = false → (sramBytes s (src - sramBase) 2048).1 = some d →
          ∃ t, exec (.writeSlotPage req w) s = .next t ∧ t.fget F.CSK_EV_cdone = 1 ∧ t.fget F.CSK_CMD_busy = 0 ∧ t.mode = s.mode
            ∧ (∀ i : Nat, i < 2048 → memGet 0 t.cask.bytes (page * 0x800 + i) = d.getD i 0)
            ∧ (∀ a : Nat, a / 0x800 ≠ page → memGet 0 t.cask.bytes a = memGet 0 s.cask.bytes a)))
    ∧ (s.fget F.CSK_STAT_pfw = 0 → s.fget F.CSK_STAT_rdy = 1 →
      (writeAccepted s req R.CSK_CMD (caskWord w 1) = true → typ = tParam → len ≤ 2024 → sourceOk src len = true →
        key < fwKey → paramFits s key len = true → (sramBytes s (src - sramBase) len).1 = some d → s.cask.queue ≠ [] →
        ∃ t, exec (.appendARecord req w) s = .next t ∧ t.fget F.CSK_CMD_busy = 1 ∧ t.mode = s.mode ∧ sameMemories s t
          ∧ t.cask.job = some ⟨tParam, key, s.fget F.CSK_RGEN_gen, d, s.cask.queue.length, none⟩)
      ∧ (writeAccepted s req R.CSK_CMD (caskWord w 2) = true → s.cask.rack = none → rackTarget s = some j →
        ∃ t, exec (.startRacking req w) s = .next t ∧ t.cask.rack = some ⟨j, s.now⟩ ∧ t.fget F.CSK_STAT_rack = 1
          ∧ t.fget F.CSK_EV_cdone = 1 ∧ t.fget F.CSK_CMD_busy = 0
          ∧ ∀ a : Nat, a / 0x800 ≠ segPage j → memGet 0 t.cask.bytes a = memGet 0 s.cask.bytes a)
      ∧ (writeAccepted s req R.CSK_CMD (caskWord w 2) = true → s.cask.rack = none → rackTarget s = none →
        ∃ t, exec (.startRacking req w) s = .next t ∧ fails t 3 ∧ t.fget F.CSK_STAT_full = 1 ∧ journalFull t = true)
      ∧ (writeAccepted s req R.CSK_CMD (caskWord w 3) = true →
        (page < 2048 ∨ s.cask.lees.contains page = true → ∃ t, exec (.retirePage req w) s = .next t ∧ fails t 6)
        ∧ (2048 ≤ page → s.cask.lees.contains page = false → 256 ≤ s.cask.lees.length →
          ∃ t, exec (.retirePage req w) s = .next t ∧ fails t 7)
        ∧ (2048 ≤ page → s.cask.lees.contains page = false → s.cask.lees.length < 256 → s.cask.queue ≠ [] →
          ∃ t, exec (.retirePage req w) s = .next t ∧ t.fget F.CSK_CMD_busy = 1 ∧ sameMemories s t
            ∧ ∃ x, t.cask.job = some x ∧ x.typ = tLees ∧ x.key = page ∧ x.ahead = s.cask.queue.length ∧ x.data.length = 16))
      ∧ (writeAccepted s req R.CSK_CMD (caskWord w 5) = true → 1 ≤ typ → typ ≤ 9 →
        (lookupRec s typ key = none → ∃ t, exec (.lookUpTheLiveRecord req w) s = .next t ∧ onlyRegs s t
          ∧ sameRegsBut s t [R.CSK_CMD, R.CSK_EV, R.CSK_RLOC] ∧ t.rget R.CSK_RLOC = 0#32 ∧ t.fget F.CSK_EV_cdone = 1)
        ∧ (lookupRec s typ key = some r → ∃ t, exec (.lookUpTheLiveRecord req w) s = .next t ∧ onlyRegs s t
          ∧ sameRegsBut s t [R.CSK_CMD, R.CSK_EV, R.CSK_RLOC, R.CSK_RGEN] ∧ t.fget F.CSK_RGEN_gen = r.gen % 2 ^ 32
          ∧ t.rget R.CSK_RLOC = BitVec.ofNat 32 (caskBase + r.page * 0x800 + r.off) ∧ t.fget F.CSK_EV_cdone = 1)))

/-- A record that the controller writes, header, padded payload and mark, is read back whole under its epoch, at any
offset of a page that holds it (R394, R395). -/
def Obligations.RecordRoundTrip : Prop :=
  ∀ (page epoch typ key gen : Nat) (data before after : List Byte), 1 ≤ typ → typ ≤ 9 → data.length ≤ 2024 →
    key < 2 ^ 32 → gen < 2 ^ 32 → before.length + recSize data.length ≤ 2048 →
    parseRec page (before ++ (recBody epoch typ key gen data ++ recMark epoch typ key gen data) ++ after) epoch before.length
      = some ⟨page, before.length, typ, key, gen, data⟩

/-- The event queue of 64 entries: a posted event joins it, or is counted as lost when it is full (R402) or the warning
is on (R409); EVENT_APPEND writes the oldest where there is room, and touches no other byte (R401). Where the spec
leaves it open this rests on the model's choice of log 6 and log 45. -/
def Obligations.EventsAreQueuedAndAppended : Prop :=
  ∀ (s : State) (src code : Byte) (detail : BitVec 16) (data : List Byte) (e : Ev) (rest : List Ev),
    (s.mode ≠ .reset →
      (s.fget F.CSK_STAT_pfw = 0 → s.cask.queue.length < 64 →
        ∃ t, exec (.eventQueuePost src code detail data) s = .next t
          ∧ t.cask = { s.cask with queue := s.cask.queue ++ [⟨src.toNat, code.toNat, detail.toNat, s.now, data.take 52, []⟩] }
          ∧ t.fget F.CSK_EVQ_depth = s.cask.queue.length + 1 ∧ sameRegsBut s t [R.CSK_EVQ]
          ∧ t = { s with regs := t.regs, cask := t.cask })
      ∧ (s.fget F.CSK_STAT_pfw = 1 ∨ 64 ≤ s.cask.queue.length →
        ∃ t, exec (.eventQueuePost src code detail data) s = .next t ∧ onlyRegs s t ∧ sameRegsBut s t eventRegs
          ∧ t.fget F.CSK_EV_evlost = 1 ∧ t.fget F.CSK_EVQ_lost = min (s.fget F.CSK_EVQ_lost + 1) 65535))
    ∧ (s.fget F.CSK_STAT_rdy = 1 → s.fget F.CSK_STAT_pfw = 0 → jobBusy s = false → s.cask.job = none →
      s.cask.queue = e :: rest → s.cask.wpage ∉ s.cask.lees → 0 < s.cask.woff →
      let n := recSize (12 + e.data.length)
      s.cask.woff + n ≤ 2048 →
      ∃ t, exec .eventAppend s = .next t ∧ t.cask.queue = rest ∧ t.cask.evNo = s.cask.evNo + 1
        ∧ t.cask.woff = s.cask.woff + n ∧ t.cask.wpage = s.cask.wpage ∧ t.mode = s.mode
        ∧ (∃ r, t.cask.recs = s.cask.recs ++ [r] ∧ r.typ = tEvent ∧ r.gen = s.cask.evNo + 1
            ∧ r.key = e.source * 2 ^ 24 + e.code * 2 ^ 16 + e.detail ∧ r.off = s.cask.woff)
        ∧ (∀ a : Nat, (a < s.cask.wpage * 0x800 + s.cask.woff ∨ s.cask.wpage * 0x800 + s.cask.woff + n ≤ a) →
            memGet 0 t.cask.bytes a = memGet 0 s.cask.bytes a)
        ∧ t = { s with regs := t.regs, cask := t.cask, memc := t.memc, boot := t.boot })

/-- APPEND_COMMIT writes the mark of the command's record and ends the command (R401); racking is triggered at its fill
and ends with its seal, the live records that it could read copied, and the next epoch (R407, R422), or without effect on the epoch where
they find no room (R408); the ACCEPT pair of a new vintage is appended
once in RUN (R413, R414). Where the spec leaves it open this rests on the model's choice of log 39 and log 45. -/
def Obligations.CaskWorkCompletes : Prop :=
  ∀ (s : State) (x : Job) (p off j : Nat) (k : Rack) (v : Vint),
    (s.cask.job = some x → x.place = some (p, off) →
      ∃ t, exec .appendCommit s = .next t ∧ t.cask.job = none ∧ t.fget F.CSK_CMD_busy = 0 ∧ t.fget F.CSK_EV_cdone = 1
        ∧ t.rget R.CSK_RLOC = BitVec.ofNat 32 (caskBase + p * 0x800 + off) 
        ∧ t.fget F.CSK_RGEN_gen = (if x.typ = tLees then s.fget F.CSK_RGEN_gen else x.gen % 2 ^ 32)
        ∧ t.cask.recs = s.cask.recs ++ [⟨p, off, x.typ, x.key, x.gen, x.data⟩]
        ∧ (∀ a : Nat, (a < p * 0x800 + off + recSize x.data.length - 8 ∨ p * 0x800 + off + recSize x.data.length ≤ a) →
            memGet 0 t.cask.bytes a = memGet 0 s.cask.bytes a)
        ∧ t = { s with regs := t.regs, cask := t.cask, memc := t.memc })
    ∧ (caskWrites s = true → s.cask.rack = none → fillReached s = true → rackTarget s = some j →
      ∃ t, exec .rackingTrigger s = .next t ∧ t.cask.rack = some ⟨j, s.now⟩ ∧ t.fget F.CSK_STAT_rack = 1
        ∧ t.cask.recs = s.cask.recs ∧ (∀ a : Nat, a / 0x800 ≠ segPage j → memGet 0 t.cask.bytes a = memGet 0 s.cask.bytes a)
        ∧ t = { s with regs := t.regs, cask := t.cask, memc := t.memc })
    ∧ (caskWrites s = true → s.cask.rack = some k → jobBusy s = false →
      let live := (readLive s).1
      let from_ := if s.cask.lees.contains (segPage k.seg) then 0 else recSize 144
      let room := (layoutAt (usableOf s.cask.lees k.seg) from_ (live.map JRec.size ++ [recSize 16])).isSome
      ∃ t, exec .rackingSeal s = .next t ∧ t.cask.rack = none ∧ t.fget F.CSK_STAT_rack = 0
        ∧ (room = true → t.cask.segs = [k.seg] ∧ t.fget F.CSK_EV_rdone = 1 ∧ t.epoch = (s.epoch + 1) % 2 ^ 32
            ∧ t.cask.recs.length = live.length + 2)
        ∧ (room = false → t.fget F.CSK_STAT_full = 1 ∧ t.epoch = s.epoch ∧ t.cask.recs = s.cask.recs ∧ t.cask.segs = s.cask.segs)
        ∧ t = { s with regs := t.regs, cask := t.cask, memc := t.memc, freshIdx := t.freshIdx })
    ∧ (s.mode = .run → s.vint = some v → caskWrites s = true → jobBusy s = false → livePair s.cask.recs = none →
      let gen := max (newestGen s.cask.recs tAccept 0) (newestGen s.cask.recs tAccept 1) + 1
      let d := acceptPayload s v
      ∀ s₁, appendWhole s tAccept 0 gen d = some s₁ → (allocateFresh s₁ (recSize d.length)).isSome = true →
      ∃ t, exec .acceptPairAppend s = .next t ∧ t.mode = .run ∧ (livePair t.cask.recs).isSome = true
        ∧ t.fget F.CSK_ACC_new = 1 ∧ t.fget F.CSK_ACC_vld = 1 ∧ t = { s with regs := t.regs, cask := t.cask, memc := t.memc })

/-! ### The host port and the read latches -/

/-- The host port reports every refusal in the trailer code of its response; a field refusal made by the host is
recorded in SYS_REFA and SYS_REFI as one made by the pair (R494). Where the spec leaves it open this rests on the
model's choice of log 28. -/
def Obligations.HostRefusalsReported : Prop :=
  ∀ (s : State) (r : SpiReq) (addr w : Word), s.mode ≠ .reset →
    let one : SpiReq := sentReq spiWrite (BitVec.ofNat 24 (addr.toNat - 0x40000000)) 4 (leBytes 4 w.toNat)
    (spiWhole { r with op := spiWrite } = false → ∃ t, exec (.writeWords r) s = .next t ∧ t.spi.resp = spiResp [] 2 0)
    ∧ (spiWhole { r with op := spiWrite } = true → spiFormOk { r with op := spiWrite } = false →
      ∃ t, exec (.writeWords r) s = .next t ∧ t.spi.resp = spiResp [] 1 0)
    ∧ (spiWhole { r with op := spiWrite } = true → spiFormOk { r with op := spiWrite } = true → spiAddrOk r = false →
      ∃ t, exec (.writeWords r) s = .next t ∧ t.spi.resp = spiResp [] 3 0)
    ∧ (spiWhole { r with op := spiWrite } = true → spiFormOk { r with op := spiWrite } = true → spiAddrOk r = true →
      spiWindowOk s { r with op := spiWrite } = false →
      ∃ t, exec (.writeWords r) s = .next t ∧ t.spi.resp = spiResp [] 6 0)
    ∧ (0x40000000 ≤ addr.toNat → addr.toNat < 0x400D0000 → addr.toNat % 4 = 0 → inSpan addr.toNat = false →
      ∃ t, exec (.writeWords one) s = .next t ∧ t.spi.resp = spiResp [] 7 0)
    ∧ (writeRefused s .host addr.toNat w = true →
      ∃ t why, exec (.writeWords one) s = .next t ∧ t.spi.resp = spiResp [] 4 0
        ∧ t.rget R.SYS_REFA = addr ∧ t.fget F.SYS_REFI_vld = 1 ∧ t.fget F.SYS_REFI_req = 1 ∧ t.fget F.SYS_REFI_why = why
        ∧ t.fget F.SYS_REFI_cnt = min (s.fget F.SYS_REFI_cnt + 1) 65535
        ∧ (writeRefused s .pair addr.toNat w = true → s.isSplit = false →
            ∃ u, exec (.registerWrite .pair addr ⟨w, 0#32, none⟩) s = .next u ∧ u.rget R.SYS_REFA = addr ∧ u.fget F.SYS_REFI_vld = 1
              ∧ u.fget F.SYS_REFI_req = 0 ∧ u.fget F.SYS_REFI_why = why
              ∧ u.fget F.SYS_REFI_cnt = min (s.fget F.SYS_REFI_cnt + 1) 65535))

/-- Transactions of the host port, each with its CRC (R500): a word is read as a register read delivers it and written as a register write takes
it (R502); op 0x05 repeats the last trailer, 0x08 after an abort and 0x00 with none (R504); an abort counts and
executes nothing (R504); an unknown opcode is answered with code 0x01 (R503). Where the spec leaves it open this
rests on the model's choice of log 28. -/
def Obligations.HostPortTransactions : Prop :=
  ∀ (s : State) (a : BitVec 24) (w : Word) (op : Byte), s.mode ≠ .reset →
    (a.toNat < 0x0D0000 → a.toNat % 4 = 0 → inSpan (0x40000000 + a.toNat) = true →
      (∃ t, exec (.readWords (sentReq spiRead a 4 [])) s = .next t
        ∧ t.spi.resp = spiResp (leBytes 4 (readReg s .host (0x40000000 + a.toNat)).1.toNat) 0 1 ∧ t.spi.code = 0 ∧ t.spi.done = 1
        ∧ t.fget F.SYS_HSTAT_last = 0 ∧ sameRegsBut s t [R.SYS_HSTAT] ∧ t = { s with regs := t.regs, spi := t.spi })
      ∧ ((regWrite s .host (0x40000000 + a.toNat) w).1 = .done →
        ∃ t, exec (.writeWords (sentReq spiWrite a 4 (leBytes 4 w.toNat))) s = .next t ∧ t.spi.resp = spiResp [] 0 1
          ∧ t.fget F.SYS_HSTAT_last = 0 ∧ sameRegsBut (regWrite s .host (0x40000000 + a.toNat) w).2 t [R.SYS_HSTAT]
          ∧ t = { (regWrite s .host (0x40000000 + a.toNat) w).2 with
                regs := t.regs, spi := t.spi, sealr := { (regWrite s .host (0x40000000 + a.toNat) w).2.sealr with rws := t.sealr.rws } }))
    ∧ (∃ t, exec (.repeatTheTrailer (sentReq spiRepeat a 0 [])) s = .next t ∧ t = { s with spi := { s.spi with resp := t.spi.resp } }
        ∧ t.spi.resp = (if s.spi.aborted then spiResp [] 8 0 else if s.spi.any then spiResp [] s.spi.code s.spi.done
                        else spiResp [] 0 0))
    ∧ (∃ t, exec (.hcsNAbort none) s = .next t ∧ t.spi.aborted = true ∧ t.spi.resp = []
        ∧ t.fget F.SYS_HSTAT_abrt = min (s.fget F.SYS_HSTAT_abrt + 1) 255 ∧ sameRegsBut s t [R.SYS_HSTAT]
        ∧ t = { s with regs := t.regs, spi := t.spi })
    ∧ (∃ t, exec (.hcsNAbort (some (sentReq spiRepeat a 0 []))) s = .next t ∧ t.spi = { s.spi with resp := [] }
        ∧ t.fget F.SYS_HSTAT_abrt = min (s.fget F.SYS_HSTAT_abrt + 1) 255 ∧ sameRegsBut s t [R.SYS_HSTAT]
        ∧ t = { s with regs := t.regs, spi := t.spi })
    ∧ (op ≠ spiRead → op ≠ spiWrite → op ≠ spiRepeat → ∃ t, exec (.unknownOpcode (sentReq op a 0 [])) s = .next t
        ∧ t.spi.resp = spiResp [] 1 0 ∧ t.spi.code = 1 ∧ t = { s with spi := t.spi })

/-- LATCHING_REGISTER_READ: a read that latches holds the companion words for its requester alone, the host's apart from
the pair's, and the companion's read delivers what was held (R495), but for PRS_NTS, which reads 0 outside RUN (R158).
Nothing else of the state changes, where no trigger of the debug module acts (R357); a read outside the block spans, or one that is not aligned, is a load access fault
(R492, R493). Where the spec leaves it open this rests on the model's choice of log 29 and log 31. -/
def Obligations.ReadLatchesAreApart : Prop :=
  ∀ (s : State) (req other : Requester) (addr : Word) (b : Nat) (v : Word), s.mode ≠ .reset →
    let a := addr.toNat
    (req = .checker → s.inLockstep = false) → noTrigger s req onLoad addr = true →
    (inSpan a = true → a % 4 = 0 →
      ∃ t, exec (.latchingRegisterRead req addr) s = .next t ∧ t = { s with spi := t.spi }
        ∧ (isHost other ≠ isHost req → latchOf t other = latchOf s other)
        ∧ (b ∈ latches a → (latchOf t req).find b = some (readWord s b))
        ∧ ((a = R.PRS_NTS → s.mode = .run) →
            ((latchOf s req).find a = some v → (readReg s req a).1 = v)
            ∧ ((latchOf s req).find a = none → (readReg s req a).1 = readWord s a))
        ∧ (a = R.PRS_NTS → s.mode ≠ .run → (readReg s req a).1 = 0#32))
    ∧ (inSpan a = false ∨ a % 4 ≠ 0 →
      ∃ t, exec (.latchingRegisterRead req addr) s = .next t ∧ accessFaulted s t req 5#32 addr)

/-! ### Sessions -/

/-- Session times: a consumer whose window closes goes to FAILED with fault 1 and its bits safe (R288); a producer's echo
age takes it to HOLD with fault 5 (R289, R294); FAILED lasts 1 s (R293); at its send instant a session sends the next
sequence number in both halves, and one in OPENING that reaches 65 535 opens again (R273, R284, R298). Where the spec
leaves it open this rests on the model's choice of log 25. -/
def Obligations.SessionTimes : Prop :=
  ∀ (s : State) (sid : Fin 160) (x : SesNet) (w : Nat), sesCfgOf s sid = some x → s.mode = .run →
    s.fget (F.SES_CFG_role sid) = x.role →
    let h := (s.sess sid).ha
    let hb := (s.sess sid).hb.restore
    (x.role = 2 → (h.st = .run ∨ h.st = .hold) → h.win = some w →
      (w + x.lim ≤ s.now → ∃ t, exec (.consumerWatchdog sid) s = .next t
        ∧ (t.sess sid).ha.st = .failed ∧ (t.sess sid).hb.restore.st = .failed ∧ (t.sess sid).ha.failAt = s.now
        ∧ (t.sess sid).ha.bits.head? = some (w + x.lim, ⟨true, false, none, []⟩) ∧ t.fget (F.SES_STAT_fcode sid) = 1
        ∧ t.rget (R.SES_FTS sid) = BitVec.ofNat 32 (w + x.lim)
        ∧ t.fget (F.SES_EV_flt sid) = 1 ∧ t.pins.faultN = false ∧ sameSessBut s t [sid.val]
        ∧ sameRegsBut s t ([R.SES_STAT sid, R.SES_FTS sid, R.SES_EV sid] ++ eventRegs)
        ∧ t = { s with regs := t.regs, ses := t.ses, cask := t.cask, pins := t.pins })
      ∧ (s.now < w + x.lim → exec (.consumerWatchdog sid) s = .next s))
    ∧ (x.role = 1 → h.st = .run → h.win = some w →
      (w + x.lim ≤ s.now → ∃ t, exec (.echoAgeWindow sid) s = .next t
        ∧ (t.sess sid).ha.st = .hold ∧ (t.sess sid).hb.restore.st = .hold
        ∧ (t.sess sid).ha.oks.head? = some (w + x.lim, true, false)
        ∧ t.fget (F.SES_STAT_fcode sid) = 5 ∧ t.rget (R.SES_FTS sid) = BitVec.ofNat 32 (w + x.lim)
        ∧ t.pins.faultN = false ∧ sameSessBut s t [sid.val]
        ∧ sameRegsBut s t ([R.SES_STAT sid, R.SES_FTS sid, R.SES_EV sid] ++ eventRegs)
        ∧ t = { s with regs := t.regs, ses := t.ses, cask := t.cask, pins := t.pins })
      ∧ (s.now < w + x.lim → exec (.echoAgeWindow sid) s = .next s))
    ∧ (h.st = .failed → h.failAt + 1000000 ≤ s.now → ∃ t, exec (.failedDwellEnd sid) s = .next t
        ∧ (t.sess sid).ha = { h with st := .opening, vSent := 0#32, base := false, hasTs := false, win := none, sentOpn := [] }
        ∧ (t.sess sid).hb = hb.toOpen.cpl ∧ sameSessBut s t [sid.val]
        ∧ sameRegsBut s t [R.SES_STAT sid] ∧ t = { s with regs := t.regs, ses := t.ses })
    ∧ (sesSends s x = true → s.now % x.per = 3 * sid.val % x.per → (s.sess sid).sentAt ≠ some (s.now, false) → x.xport = 3 →
        let again : Bool := h.st == .opening && h.vSent + 1#32 == 65535#32
        let after (f : SesHalf) : SesHalf := if again then (f.sent x s.now).toOpen else f.sent x s.now
        ∃ t, exec (.sessionSendInstant sid) s = .next t ∧ (t.sess sid).ha = after h ∧ (t.sess sid).ha.vTx = h.vSent + 1#32
          ∧ (again = true → (t.sess sid).ha.st = .opening ∧ (t.sess sid).ha.vSent = 0#32)
          ∧ (again = false → (t.sess sid).ha.st = h.st ∧ (t.sess sid).ha.vSent = h.vSent + 1#32
              ∧ (t.sess sid).hb = (after hb).cpl)
          ∧ (t.sess sid).sentAt = some (s.now, false) ∧ sameSessBut s t [sid.val]
          ∧ t.mode = s.mode ∧ t = { s with regs := t.regs, ses := t.ses, net := t.net, freshIdx := t.freshIdx })

/-- TELEGRAM_RECEIVED takes the oldest telegram of the engine's queue; each half judges it, Lane A by c32 and Lane B by c16
(R283, R291). A consumer in RUN that accepts a data telegram takes its virtual sequence number, its echo and its bits
with the microtick of acceptance (R285, R288, R296); a telegram that fails the format check or either check value is
counted, and the second within 1 s takes the session to FAILED with fault 2 (R292). Where the spec leaves it open this
rests on the model's choice of log 25. -/
def Obligations.TelegramsAreJudged : Prop :=
  ∀ (s : State) (sid : Fin 160) (l : List Byte) (rest : List (Nat × List Byte)) (x : SesNet) (v j : Nat),
    s.mode = .run → s.net.engine = (sid.val, l) :: rest → sesCfgOf s sid = some x → sesCfgB s sid = some x →
    let h := (s.sess sid).ha
    let m := readTele l
    let took := s.now - ageOf s.stamp m.echo
    (s.sess sid).hb.restore = h → h.st = .run → (s.sess sid).fltAt ≠ some s.now → x.role = 2 →
    s.fget (F.SES_CFG_role sid) = 2 → (∀ w, h.win = some w → s.now < w + x.lim) →
    (formatOk x m = true → m.opn = false → m.fs = false → virtualSeq h.vLast m = some v → c32Ok x v m = true →
      c16Ok x v m = true → ageOf s.stamp m.echo < x.lim →
      ∃ t, exec .telegramReceived s = .next t ∧ t.net = { s.net with engine := rest } ∧ (t.sess sid).ha.st = .run
        ∧ (t.sess sid).ha.vLast = BitVec.ofNat 32 v ∧ (t.sess sid).hb = (t.sess sid).ha.cpl
        ∧ (t.sess sid).ha.win = some (match h.win with | some o => max o took | none => took)
        ∧ (t.sess sid).ha.bits.head? = some (s.now, ⟨false, true, h.runAt.map (BitVec.ofNat 64), bytesBits (slice l 16 m.len)⟩)
        ∧ t.fget (F.SES_ACC_cnt sid) = (s.fget (F.SES_ACC_cnt sid) + 1) % 2 ^ 32 ∧ sameSessBut s t [sid.val]
        ∧ t = { s with regs := t.regs, ses := t.ses, net := t.net })
    ∧ (formatOk x m = false → h.rejAt = none →
      ∃ t, exec .telegramReceived s = .next t ∧ t.net = { s.net with engine := rest }
        ∧ (t.sess sid).ha = { h with rejAt := some s.now } ∧ (t.sess sid).hb = (t.sess sid).ha.cpl ∧ sameSessBut s t [sid.val]
        ∧ t.fget (F.SES_REJ_fmt sid) = min (s.fget (F.SES_REJ_fmt sid) + 1) 255 ∧ sameRegsBut s t [R.SES_REJ sid]
        ∧ t = { s with regs := t.regs, ses := t.ses, net := t.net })
    ∧ (formatOk x m = true → virtualSeq h.vLast m = some v → (c32Ok x v m = false ∨ c16Ok x v m = false) → m.opn = false →
      ageOf s.stamp m.echo < x.lim → h.rejAt = none →
      ∃ t, exec .telegramReceived s = .next t ∧ t.net = { s.net with engine := rest }
        ∧ (t.sess sid).ha = { h with rejAt := some s.now } ∧ sameSessBut s t [sid.val]
        ∧ t.fget (F.SES_REJ_c32 sid) = min (s.fget (F.SES_REJ_c32 sid) + (if c32Ok x v m then 0 else 1)) 4095
        ∧ t.fget (F.SES_REJ_c16 sid) = min (s.fget (F.SES_REJ_c16 sid) + (if c16Ok x v m then 0 else 1)) 4095
        ∧ sameRegsBut s t [R.SES_REJ sid] ∧ t = { s with regs := t.regs, ses := t.ses, net := t.net })
    ∧ (formatOk x m = false → h.rejAt = some j → s.now < j + 1000000 →
      ∃ t, exec .telegramReceived s = .next t ∧ (t.sess sid).ha.st = .failed ∧ t.fget (F.SES_STAT_fcode sid) = 2
        ∧ (t.sess sid).ha.bits.head? = some (s.now, ⟨false, false, none, []⟩) ∧ sameSessBut s t [sid.val] ∧ t.mode = .run)

/-- A telegram that a session sends from two equal copies is read back whole by the peer: format, flags, sequence number,
timestamp, echo, data and both check values hold (R277 to R283). Where Lane B's copy differs, c16 holds just where both
copies have the same check value (R283). -/
def Obligations.TelegramRoundTrip : Prop :=
  ∀ (x : SesNet) (v : Nat) (ts echo : Stamp) (data : List Byte) (ret opn fs : Bool) (b : Nat × Nat × List Byte),
    v < 2 ^ 32 → x.cid < 2 ^ 32 → data.length ≤ 31 → data.length = (if ret then 0 else x.plen) → (fs = true → ret = false) →
    let body := teleHead (vfWord data.length ret opn fs) x.cid (v % 65536) ts.toNat echo.toNat ++ data
    let m := readTele (buildTele (v, x.cid, body) (v, x.cid, body))
    let d := readTele (buildTele (v, x.cid, body) b)
    formatOk x m = true ∧ c32Ok x v m = true ∧ c16Ok x v m = true ∧ m.seq = v % 65536 ∧ m.ts = ts ∧ m.echo = echo
      ∧ m.ret = ret ∧ m.opn = opn ∧ m.fs = fs ∧ slice m.raw 16 m.len = data ∧ be m.raw 2 4 = x.cid
      ∧ formatOk x d = true ∧ c32Ok x v d = true
      ∧ (c16Ok x v d = true ↔ crc16 (checkBlock b.1 b.2.1 b.2.2) = crc16 (checkBlock v x.cid body))

/-! ### The switch -/

/-- When a port's link goes down, every frame queued for it is discarded and counted in NET_QDROP.tail, and its queues
accept no frame until the link is up again (R312). -/
def Obligations.LinkDownEmptiesPort : Prop :=
  ∀ (p : Fin 5) (sp : Speed) (s : State), (s.port p).link = some sp →
    ∃ t, exec (.linkChange p none) s = .next t ∧ (t.port p).link = none ∧ (∀ q : Nat, (t.port p).queues.get [] q = [])
      ∧ t.fget (F.NET_QDROP_tail p)
          = min (s.fget (F.NET_QDROP_tail p) + ((s.port p).queues.entries.flatMap (fun e => e.2)).length) 65535
      ∧ (∀ (u : State) (q : Nat) (f : Frame) (i pcp : Nat) (cut : Bool), (u.port p).link = none →
          enqueue u p q f i pcp cut = u)
      ∧ t.mode = s.mode ∧ sameFesBut s t [] ∧ sameMemories s t ∧ sameFuses s t

/-- Ports: a link comes up at a permitted speed; the highest queue that may send does, in order (R319); XOFF is repeated
every 1000 microticks and released by an XON (R322, R323); a pause ends (R323); addresses age (R315); an unresolved
next hop is asked for again (R316); and a committed gate list is taken up at its cycle start (R325). What a port with gates sends is
left out of the clause on egress. Where the spec leaves it open this rests on the model's choice of log 30, log 33 and log 52: that a
port which has become a ring break discards at its next egress the waiting frames that do not pass the break (R318) is the model's
choice. -/
def Obligations.PortsWork : Prop :=
  ∀ (p : Fin 5) (sp : Speed) (q q' t0 i : Nat) (cls : Fin 2) (k : Fin 8) (sid : Fin 160) (y : QFrame) (x : SesNet)
    (l : List GateEnt) (s : State),
    let pt := s.port p
    (s.mode ≠ .reset → s.fget (F.NET_PCFG_en p) = 1 → speedOk s p sp = true → pt.link = none →
      ∃ t, exec (.linkChange p (some sp)) s = .next t ∧ (t.port p).link = some sp ∧ t.fget (F.NET_PSTAT_link p) = 1
        ∧ t.mode = s.mode ∧ sameFesBut s t [] ∧ sameMemories s t ∧ sameFuses s t)
    ∧ (pt.link = some sp → gatesOf s p = [] → pt.commit = none → s.fget (F.NET_PCFG_en p) = 1 → s.fget (F.NET_PCFG_rbrk p) = 0 →
      pt.busyTo < (s.now + 1) * 1000 → pickQueue s p sp = some (q, y) → (y.f.etype ≠ etPtp ∨ y.ingress ≠ fromSwitch) →
      ∃ t, exec (.egressTransmit p) s = .next t ∧ (t.port p).lastTx = some (egressForm s p y)
        ∧ (t.port p).queues = pt.queues.set q (pt.queues.get [] q).tail
        ∧ (t.port p).busyTo = max pt.busyTo (s.now * 1000) + wireNs sp (egressLen s p y)
        ∧ t.fget (F.NET_TXF_cnt p) = (s.fget (F.NET_TXF_cnt p) + 1) % 2 ^ 32
        ∧ (q < q' → q' < 8 → pausedQ s p q' = true
            ∨ ∀ z : QFrame, (pt.queues.get [] q').head? = some z → pausedFrame s p z.f = true)
        ∧ pausedQ s p q = false ∧ pausedFrame s p y.f = false ∧ onlyNet s t)
    ∧ (pt.link = some sp → s.fget (F.NET_PCFG_rbrk p) = 1 →
      ∃ t, exec (.egressTransmit p) s = .next t ∧ onlyNet s t
        ∧ ∀ z : QFrame, z ∈ (t.port p).queues.get [] q → breakPasses s z.f = true ∨ z.ingress = fromSwitch)
    ∧ (pt.xoff.find cls = some t0 → t0 + 1000 ≤ s.now →
      ∃ t, exec (.xoffRepeat p cls) s = .next t ∧ (t.port p).xoff.find cls = some s.now ∧ onlyNet s t ∧ samePortsBut s t [p.val]
        ∧ sameRegsBut s t [R.NET_FCNT p, R.NET_TXF p]
        ∧ (s.fget (F.NET_PCFG_fc p) ≠ 0 → pt.link.isSome = true → s.fget (F.NET_PCFG_rbrk p) = 0 →
            (t.port p).lastTx = some (pauseFrame s (s.fget (F.NET_PCFG_fc p)) 0xFFFF cls)
            ∧ t.fget (F.NET_FCNT_tx p) = min (s.fget (F.NET_FCNT_tx p) + 1) 65535)
        ∧ (s.fget (F.NET_PCFG_rbrk p) = 1 → (t.port p).lastTx = pt.lastTx ∧ t.regs = s.regs))
    ∧ ((pt.xoff.find cls).isSome = true → pt.pool.get 0 cls ≤ 8192 → pt.head.get 0 cls = 0 →
      ∃ t, exec (.bufferXon p cls) s = .next t ∧ (t.port p).xoff = pt.xoff.del cls ∧ onlyNet s t ∧ samePortsBut s t [p.val]
        ∧ sameRegsBut s t [R.NET_FCNT p, R.NET_TXF p]
        ∧ (s.fget (F.NET_PCFG_fc p) ≠ 0 → pt.link.isSome = true → s.fget (F.NET_PCFG_rbrk p) = 0 →
            (t.port p).lastTx = some (pauseFrame s (s.fget (F.NET_PCFG_fc p)) 0 cls)))
    ∧ (i ∈ pausesOf s p k → pt.pauseTo.find i = some t0 → t0 ≤ s.now →
      ∃ t, exec (.pauseTimerExpiry p k) s = .next t ∧ t.port p = { pt with pauseTo := (t.port p).pauseTo } ∧ onlyNet s t
        ∧ (t.port p).pauseTo.find i = none
        ∧ (∀ j : Nat, (j ∉ pausesOf s p k ∨ ∀ t1, pt.pauseTo.find j = some t1 → s.now < t1) →
            (t.port p).pauseTo.find j = pt.pauseTo.find j)
        ∧ samePortsBut s t [p.val] ∧ sameRegsBut s t [R.NET_PSTAT p]
        ∧ bitAt (t.fget (F.NET_PSTAT_pq p)) k = pausedQ t p k)
    ∧ ((∀ j : Nat, j ∈ pausesOf s p k → ∀ t1, pt.pauseTo.find j = some t1 → s.now < t1) →
      exec (.pauseTimerExpiry p k) s = .next s)
    ∧ (∃ t, exec .addressAgeing s = .next t ∧ t = { s with net := { s.net with macs := t.net.macs } }
        ∧ ∀ e, e ∈ t.net.macs ↔ (e ∈ s.net.macs ∧ s.now < e.seen + s.fget F.NET_CTL_age * 1000000))
    ∧ (sesCfgOf s sid = some x → x.xport ≠ 3 → s.mode ≠ .reset →
      let h := hopOf s x
      h.at_ + (if (hopMac s x).isSome then 60000000 else 1000000) ≤ s.now →
      ∃ t, exec (.nextHopRetry sid) s = .next t ∧ t.net.hops.get ⟨none, 0, []⟩ sid = { h with at_ := s.now } ∧ onlyNet s t)
    ∧ (pt.commit = some l → 0 < gateCycle l → s.asTime s.now % (gateCycle l : Int) = 0 → gatesOf s p = [] →
      ∃ t, exec (.gateCycleStart p) s = .next t ∧ (t.port p).gates = l ∧ (t.port p).commit = none
        ∧ t.fget (F.NET_GCFG_pend p) = 0 ∧ samePortsBut s t [p.val] ∧ sameRegsBut s t [R.NET_GCFG p] ∧ onlyNet s t)

/-- Frames and time: a frame outside the length limits is counted and dropped (R311); an accepted one is counted and its
source learned (R315), but for one that a ring break does not take (R318); a master port sends its Sync (R326); a slave port without Sync for three intervals loses
synchronisation, and with it the hub's source (R109, R327); an Announce that stays away frees the port (R326);
sequence recovery starts again (R329); and a stream's frame is sent when the frames of its span have come in (R336). Where the spec
leaves it open this rests on the model's choice of log 31, log 33 and log 34. -/
def Obligations.FramesAndTime : Prop :=
  ∀ (p : Fin 5) (sp : Speed) (f : Frame) (rx : Nat) (w : Word) (sid : Fin 160) (r : Frer) (x : SesNet) (e : Fin 8) (off : Nat)
    (s : State),
    let pt := s.port p
    (pt.link = some sp → s.mode ≠ .reset → s.fget (F.NET_PCFG_en p) = 1 →
      (frameLen f < 64 ∨ maxFrame s p < frameLen f → ∃ t, exec (.frameReceived p f rx) s = .next t ∧ onlyRegs s t
        ∧ sameRegsBut s t [R.NET_ERR p] ∧ t.fget (F.NET_ERR_rxe p) = min (s.fget (F.NET_ERR_rxe p) + 1) 65535)
      ∧ (64 ≤ frameLen f → frameLen f ≤ maxFrame s p → f.fcsOk = true → f.etype ≠ etPause → f.etype ≠ etPtp →
        s.fget F.NET_CTL_fwd = 1 → vlanOf s (frameVid (classify s p f)) = some w → vlanMember w p = true →
        s.net.macs.length < 4096 →
        (s.fget (F.NET_PCFG_rbrk p) = 0 ∨ vlanRing w = true →
          ∃ t, exec (.frameReceived p f rx) s = .next t ∧ t.fget (F.NET_RXF_cnt p) = (s.fget (F.NET_RXF_cnt p) + 1) % 2 ^ 32
            ∧ (multicast f.src = false → ⟨frameVid (classify s p f), f.src, p, s.now⟩ ∈ t.net.macs)
            ∧ t.mode = s.mode ∧ onlyNet s t)
        ∧ (s.fget (F.NET_PCFG_rbrk p) = 1 → vlanRing w = false → exec (.frameReceived p f rx) s = .next s))
      ∧ (64 ≤ frameLen f → frameLen f ≤ maxFrame s p → f.fcsOk = true → f.etype = etPause → s.fget (F.NET_PCFG_rbrk p) = 1 →
        exec (.frameReceived p f rx) s = .next s))
    ∧ (pt.link = some sp → s.mode ≠ .reset → pt.role = 1 → s.fget (F.NET_PSTAT_ascap p) = 1 → pt.pdLost ≤ allowedLost →
      dueAt s pt.txSync (syncNs s / 1000) = true →
      ∃ t, exec (.gptpSyncInterval p) s = .next t ∧ (t.port p).txSync = some s.now
        ∧ (t.port p).syncSeq = (pt.syncSeq + 1) % 65536 ∧ onlyNet s t)
    ∧ (pt.role = 2 → pt.syncAt.headD 0 + 3 * syncNs s ≤ s.now * 1000 → s.fget F.NET_TSTAT_sync = 1 →
      ∃ t, exec (.syncReceiptTimeout p) s = .next t ∧ t.fget F.NET_TSTAT_sync = 0 ∧ t.fget F.NET_EV_sync = 1
        ∧ sameRegsBut s t [R.NET_TSTAT, R.NET_EV, R.PRS_SSTAT] ∧ t = { s with regs := t.regs, hub := t.hub }
        ∧ (s.mode = .run → s.fget F.PRS_SYNC_src = 2 → s.hub.lost = false →
            t.hub.lost = true ∧ t.fget F.PRS_SSTAT_lost = 1 ∧ t.fget F.PRS_SSTAT_lcause = 1))
    ∧ (pt.best.isSome = true → pt.annAt + 3000000 ≤ s.now →
      ∃ t, exec (.announceReceiptTimeout p) s = .next t ∧ (t.port p).best = none ∧ t.mode = s.mode ∧ sameFesBut s t []
        ∧ sameMemories s t ∧ sameFuses s t)
    ∧ (s.net.frer.find sid = some r → sesCfgOf s sid = some x → r.seenAt + 4 * x.per ≤ s.now →
      ∃ t, exec (.frerRecoveryReset sid) s = .next t ∧ t = { s with net := { s.net with frer := s.net.frer.del sid } })
    ∧ ((imgA s).strOffs[e.val]? = some off → (s.stream e).live = true → (s.mode = .run ∨ s.mode = .safe) →
      ((s.stream e).frame + 1) * (s.stream e).span + 9 ≤ s.now →
      ∃ t, exec (.streamFrame e) s = .next t ∧ (t.stream e).frame = (s.stream e).frame + 1
        ∧ t.fget (F.MST_FRM_cnt e) = (s.fget (F.MST_FRM_cnt e) + 1) % 2 ^ 32 ∧ t.fget F.MST_STAT_run = 1
        ∧ (∀ k : Nat, k ≠ e.val → t.stream k = s.stream k)
        ∧ t = { s with regs := t.regs, net := t.net, streams := t.streams })

/-! ### The Tandem pair -/

/-- Split and merge: the split point starts the checker core at its entry with the main core's registers (R349, R350),
or reports a difference with cause 0x30 (R355); an unmet request lapses after 1 ms (R349); three quarters of the
budget give a warning (R354); the merge point mirrors the TCM and copies the core (R352); the merge ends in
lockstep, or with cause 0x34 (R353); and the timer, software and external interrupts show in mip and are taken by the main
core where they are enabled (R345, R346). Where the spec leaves it open this rests on the model's choice of log 31 and log 35. -/
def Obligations.SplitAndMerge : Prop :=
  ∀ (s : State) (d : LockDiff),
    (s.mode ≠ .reset → s.tnd.halted = false → s.fget F.TND_STAT_mode = 0 → s.fget F.TND_STAT_spend = 1 →
      s.now < s.tnd.reqAt + 1000 →
      (∃ t, exec (.splitPoint false) s = .next t ∧ t.fget F.TND_STAT_mode = 1 ∧ t.fget F.TND_STAT_spend = 0
        ∧ t.fget F.SYS_STATE_split = 1 ∧ t.rget R.TND_STIME = s.stamp ∧ t.fget F.TND_EV_sdone = 1
        ∧ t.tnd.main = s.tnd.main ∧ t.tnd.chk.x = s.tnd.main.x ∧ t.tnd.chk.pc = s.rget R.TND_SENT ∧ t.tnd.splitAt = s.now
        ∧ t.tnd.chk.csrOf csrMhartid = 1#32 ∧ (t.tnd.chk.csrOf csrMstatus).getLsbD 3 = false
        ∧ sameRegsBut s t [R.TND_STAT, R.SYS_STATE, R.TND_STIME, R.TND_SCNT, R.TND_EV] ∧ onlyTandem s t)
      ∧ (s.mode = .run → ∃ t, exec (.splitPoint true) s = .next t ∧ wentSafe s t 0x30 ∧ t.fget F.TND_STAT_spend = 0
          ∧ t.fget F.TND_STAT_mode = 0))
    ∧ (s.mode ≠ .reset → s.fget F.TND_STAT_spend = 1 → s.tnd.reqAt + 1000 ≤ s.now →
      ∃ t, exec .splitRequestLapse s = .next t ∧ onlyRegs s t ∧ sameRegsBut s t [R.TND_STAT, R.TND_EV]
        ∧ t.fget F.TND_STAT_spend = 0 ∧ t.fget F.TND_EV_sto = 1)
    ∧ (s.isSplit = true → s.tnd.expired = false → s.tnd.warned = false →
      s.tnd.splitAt + 3 * (s.tnd.budget * 1000) / 4 ≤ s.now →
      ∃ t, exec .splitBudgetWarning s = .next t ∧ t.tnd = { s.tnd with warned := true } ∧ t.fget F.TND_EV_bwarn = 1
        ∧ sameRegsBut s t [R.TND_EV] ∧ onlyTandem s t)
    ∧ (s.fget F.TND_STAT_mode = 1 → s.fget F.TND_STAT_mpend = 1 → s.tnd.halted = false →
      ∃ t, exec .mergePoint s = .next t ∧ t.fget F.TND_STAT_mode = 2 ∧ t.fget F.TND_STAT_mpend = 0
        ∧ t.memc = { s.memc with tcmC := s.memc.tcmM, log := t.memc.log } ∧ t.tnd.main = s.tnd.main ∧ t.tnd.chk.x = s.tnd.main.x
        ∧ t.tnd.chk.pc = s.tnd.main.pc ∧ t.tnd.chk.csrOf csrMhartid = 0#32 ∧ t.tnd.chk.trig = s.tnd.main.trig
        ∧ (∀ r : Nat, r ≠ csrMhartid → t.tnd.chk.csrOf r = s.tnd.main.csrOf r) ∧ t.tnd.mergeAt = s.now
        ∧ t.inLockstep = true ∧ sameRegsBut s t [R.TND_STAT, R.EDC_STAT]
        ∧ t = { s with regs := t.regs, tnd := t.tnd, memc := t.memc })
    ∧ (s.fget F.TND_STAT_mode = 2 →
      (s.now < s.tnd.mergeAt + 1000 → s.now < budgetEnd s → s.tnd.haltReq = false →
        ∃ t, exec (.mergeComplete none) s = .next t ∧ onlyRegs s t ∧ t.fget F.TND_STAT_mode = 0 ∧ t.fget F.SYS_STATE_split = 0
          ∧ t.rget R.TND_SDUR = BitVec.ofNat 32 (s.now - s.tnd.splitAt) ∧ t.fget F.TND_EV_mdone = 1
          ∧ t.fget F.TND_SCNT_merges = min (s.fget F.TND_SCNT_merges + 1) 65535
          ∧ sameRegsBut s t [R.TND_STAT, R.SYS_STATE, R.TND_EV, R.TND_SDUR, R.TND_SMAX, R.TND_SCNT])
      ∧ (s.mode = .run → ∃ t, exec (.mergeComplete (some d)) s = .next t ∧ wentSafe s t 0x34 ∧ t.fget F.TND_STAT_mode = 2
          ∧ t.fget F.TND_LSE_vld = 1))
    ∧ (s.mode ≠ .reset → mtcmp s ≤ s.now →
      ∃ t, exec .machineTimerInterrupt s = .next t ∧ (t.tnd.main.csrOf csrMip).getLsbD 7 = true
        ∧ t.tnd.main.x = s.tnd.main.x ∧ t.tnd.main.trig = s.tnd.main.trig
        ∧ irqTaken s (mipWord s) t ∧ (mipWord s).getLsbD 7 = true ∧ (s.tmode = 1 → t.tnd.chk = s.tnd.chk)
        ∧ t = { s with tnd := { s.tnd with main := t.tnd.main, chk := t.tnd.chk }, freshIdx := t.freshIdx })
    ∧ irqTaken s (mipWord s &&& 0x808#32) (coreInterrupts s)
    ∧ ((mipWord s).getLsbD 3 = true ↔ s.fget F.TND_MSIP_msip = 1)
    ∧ ((mipWord s).getLsbD 11 = true ↔ ∃ n : Fin 14, irqLine s n = true ∧ bitAt (s.fget F.TND_IEN_en) n = true)

/-- Debug: the module is activated only while it is permitted; another operation then fails with dmi status 2 and changes
nothing else (R359). It drops out when it is no longer permitted, with triggers cleared, and operations fail until it is
activated again (R360); it halts, resumes and steps both cores in lockstep, the selected core in TWIN, and a halt waits
while the pair is split (R355 to R358); a resume with dcsr.step set is a step; abstract commands reach registers and memory of
halted cores (R358), a refused access and a register that the cores do not have ending with cmderr 3 (R493), and an error stands in
cmderr and keeps further commands from running until it is cleared; and a trigger that a read meets is a breakpoint, or halts
the cores (R340, R357). Where the spec leaves it open this rests on the model's choice of log 31, log 36 and log 52: that a single
step leaves dcsr.step as it was is the model's choice of log 52 (R358), and the registers that the cores have, and cmderr's standing
until it is cleared, are taken from the family (log 31). -/
def Obligations.DebugWorks : Prop :=
  ∀ (s : State) (v hart fetch : Bool) (req : Requester) (pc value addr : Word) (k : Fin 31),
    let reg : BitVec 16 := BitVec.ofNat 16 (0x1001 + k.val)
    let d : State := { s with tnd := { s.tnd with dmi := 0 } }
    (debugPermit s = true →
      exec (.dmactiveWrite ⟨true, hart, v⟩) s = .next { s with tnd := { s.tnd with
        dmact := true, hart := hart, dropped := false, dmi := 0, cmderr := if v then 0 else s.tnd.cmderr } }
      ∧ (∃ t, exec (.dmactiveWrite ⟨false, hart, v⟩) s = .next t ∧ t.tnd.dmact = false ∧ t.tnd.cmderr = 0 ∧ t.tnd.halted = false ∧ t.tnd.haltC = false
          ∧ t.tnd.dmi = 0 ∧ t.tnd.main = s.tnd.main ∧ t.tnd.chk = s.tnd.chk ∧ t = { s with tnd := t.tnd }))
    ∧ (debugPermit s = false → exec (.dmactiveWrite ⟨v, hart, fetch⟩) s = .next { s with tnd := { s.tnd with dmi := 2 } })
    ∧ (debugPermit s = false ∨ s.tnd.dropped = true →
      ∀ c, c ∈ [Instr.debugHalt, .debugResume, .singleStep pc, .accessRegister v reg value, .accessMemory v addr value] →
        exec c s = .next { s with tnd := { s.tnd with dmi := 2 } })
    ∧ (s.tnd.dmact = true → debugPermit s = false → ∃ t, exec .debugPermitLapse s = .next t ∧ t.tnd.dmact = false
        ∧ t.tnd.halted = false ∧ t.tnd.haltC = false ∧ t.tnd.dropped = true
        ∧ t.tnd.main.trig = Tab.empty ∧ t.tnd.chk.trig = Tab.empty ∧ t.tnd.main.x = s.tnd.main.x
        ∧ t.fget F.TND_DBG_drops = min (s.fget F.TND_DBG_drops + 1) 255 ∧ t.fget F.TND_EV_drop = 1
        ∧ sameRegsBut s t ([R.TND_DBG, R.TND_EV] ++ eventRegs) ∧ t = { s with regs := t.regs, tnd := t.tnd, cask := t.cask })
    ∧ (debugPermit s = true → s.tnd.dropped = false → s.tnd.dmact = true → selChk s = true → s.tnd.haltC = false →
      ∃ t, exec .debugHalt s = .next t ∧ t.tnd.haltC = true ∧ t.tnd.halted = s.tnd.halted ∧ t.tnd.main = s.tnd.main
        ∧ t = { s with tnd := t.tnd })
    ∧ (debugPermit s = true → s.tnd.dropped = false → s.tnd.dmact = true → selChk s = false → s.tnd.halted = false →
      (s.isSplit = false → ∃ t, exec .debugHalt s = .next t ∧ t.tnd.halted = true ∧ (s.inLockstep = true → t.tnd.haltC = true)
        ∧ t.tnd.ddlLeft = s.tnd.ddlEnd - s.now ∧ t.tnd.main.x = s.tnd.main.x ∧ t.tnd.main.pc = s.tnd.main.pc
        ∧ bits (t.tnd.main.csrOf csrDcsr).toNat 8 6 = 3 ∧ t = { s with tnd := t.tnd })
      ∧ (s.isSplit = true → exec .debugHalt s = .next { s with tnd := { s.tnd with haltReq := true, dmi := 0 } })
      ∧ (s.tnd.cmderr = 0 → exec (.accessRegister v reg value) s = .next { d with tnd := { d.tnd with cmderr := 4 } }))
    ∧ (debugPermit s = true → s.tnd.dropped = false → s.tnd.cmderr ≠ 0 →
      ∀ c, c ∈ [Instr.accessRegister v reg value, .accessMemory v addr value] → exec c s = .next d)
    ∧ (debugPermit s = true → s.tnd.dropped = false → s.tnd.dmact = true → selChk s = false → s.tnd.halted = true →
      let stepped (t : State) : Prop := t.tnd.main.ret = s.tnd.main.ret + 1#64 ∧ t.tnd.main.x = s.tnd.main.x
        ∧ bits (t.tnd.main.csrOf csrDcsr).toNat 8 6 = 4
        ∧ (t.tnd.main.csrOf csrDcsr).getLsbD 2 = (s.tnd.main.csrOf csrDcsr).getLsbD 2 ∧ t.tnd.halted = true
        ∧ t.tnd.ddlLeft = s.tnd.ddlLeft ∧ t = { s with tnd := t.tnd, freshIdx := t.freshIdx }
      ((s.tnd.main.csrOf csrDcsr).getLsbD 2 = false →
        ∃ t, exec .debugResume s = .next t ∧ t.tnd.halted = false ∧ t.tnd.ddlEnd = s.now + s.tnd.ddlLeft
          ∧ t.tnd.main.pc = s.tnd.main.pc ∧ t.tnd.main.x = s.tnd.main.x ∧ t = { s with tnd := t.tnd })
      ∧ ((s.tnd.main.csrOf csrDcsr).getLsbD 2 = true →
        ∃ t, exec .debugResume s = .next t ∧ stepped t ∧ (s.inLockstep = true → t.tnd.chk.pc = t.tnd.main.pc))
      ∧ (∃ t, exec (.singleStep pc) s = .next t ∧ stepped t ∧ t.tnd.main.pc = pc ∧ (s.inLockstep = true → t.tnd.chk.pc = pc)
        ∧ t.freshIdx = s.freshIdx)
      ∧ (s.tnd.cmderr = 0 →
      (∃ t, exec (.accessRegister true reg value) s = .next t ∧ t.tnd.main.x.get 0 (k.val + 1) = value
        ∧ (s.inLockstep = true → t.tnd.chk.x.get 0 (k.val + 1) = value) ∧ t.tnd.main.csr = s.tnd.main.csr
        ∧ t.tnd.main.pc = s.tnd.main.pc ∧ t.tnd.cmderr = 0 ∧ t = { s with tnd := t.tnd })
      ∧ exec (.accessRegister false reg value) s
          = .next { d with tnd := { d.tnd with cmderr := 0, data0 := s.tnd.main.x.get 0 (k.val + 1) } }
      ∧ exec (.accessRegister false 0x344#16 value) s = .next { d with tnd := { d.tnd with cmderr := 0, data0 := mipWord s } }
      ∧ exec (.accessRegister false 0x1000#16 value) s = .next { d with tnd := { d.tnd with cmderr := 0, data0 := 0#32 } }
      ∧ exec (.accessRegister false 0x7B1#16 value) s = .next { d with tnd := { d.tnd with cmderr := 0, data0 := s.tnd.main.pc } }
      ∧ (∀ r : BitVec 16, r ∈ [0x180#16, 0x3A0#16, 0xC00#16, 0x1020#16] →
          exec (.accessRegister v r value) s = .next { d with tnd := { d.tnd with cmderr := 3 } })
      ∧ (addr.toNat % 4 ≠ 0 → exec (.accessMemory v addr value) s = .next { d with tnd := { d.tnd with cmderr := 3 } })
      ∧ (s.wf = true → addr.toNat % 4 = 0 → regionOf addr.toNat = .tcm → s.inLockstep = true →
        ∃ t, exec (.accessMemory true addr value) s = .next t ∧ t.tnd.cmderr = 0 ∧ t.cask = s.cask
          ∧ t.memc.tcmM.stored (addr.toNat - tcmBase) = value ∧ t.memc.tcmC.stored (addr.toNat - tcmBase) = value
          ∧ (∀ a : Nat, (a < addr.toNat - tcmBase ∨ addr.toNat - tcmBase + 4 ≤ a) →
              memGet 0 t.memc.tcmM.bytes a = memGet 0 s.memc.tcmM.bytes a
              ∧ memGet 0 t.memc.tcmC.bytes a = memGet 0 s.memc.tcmC.bytes a)
          ∧ t.memc.sram = s.memc.sram ∧ t.memc.spare = s.memc.spare)))
    ∧ (s.mode ≠ .reset → offBus s req addr.toNat = false →
      (trigOf s req (if fetch then onFetch else onLoad) addr = some false →
        ∃ t, exec (.memoryRead ⟨req, fetch⟩ addr none none) s = .next t ∧ accessFaulted s t req 3#32 addr)
      ∧ (trigOf s req (if fetch then onFetch else onLoad) addr = some true → s.tnd.dmact = true → s.isSplit = false →
          req ≠ .checker →
        ∃ t, exec (.memoryRead ⟨req, fetch⟩ addr none none) s = .next t ∧ t.tnd.halted = true
          ∧ bits (t.tnd.main.csrOf csrDcsr).toNat 8 6 = 2 ∧ t.tnd.main.x = s.tnd.main.x ∧ t.tnd.ddlLeft = s.tnd.ddlEnd - s.now
          ∧ t = { s with tnd := t.tnd, freshIdx := t.freshIdx }))

/-! ### Boot ROM and fuses -/

/-- The mailbox commands of the boot ROM while it serves them, each answered in TND_PMBX (R485), and each refused with 0xF2 in a
step of STARTUP in which it does not wait for the host: status, the fuse service in HELD alone, the check of the image in the Cask, and the boot of an image in SRAM, which starts the init
entry in STARTUP with its 10 ms on the machine timer (R475, R476) and the image in TWIN, or is refused with cause 0x27 (R474). The check
changes at most the log and the counts of the memory error control beside its answer. Where the spec leaves it
open this rests on the model's choice of log 31, log 42 and log 49: that the machine timer interrupt is bit 7 of `mie` and is enabled by
bit 3 of `mstatus` is taken from the family (log 31). A fuse service that the loss of power cuts is left out. -/
def Obligations.MailboxCommands : Prop :=
  ∀ (s : State) (offset : BitVec 24) (o : PulseObs) (l : List Byte), romServes s = true →
    (∃ t, exec .status s = .next t ∧ onlyRegs s t ∧ sameRegsBut s t [R.TND_PMBX, R.SYS_HIPEND]
      ∧ t.rget R.TND_PMBX = (if romBusy s then 0x01F20000#32
          else BitVec.ofNat 32 (0x01000000 + modeCode s.mode * 256 + s.fget F.SYS_FAULT_cause))
      ∧ t.fget F.SYS_HIPEND_mbx = 1)
    ∧ (s.mode ≠ .held → ∃ t, exec (.fuseService offset o) s = .next t ∧ onlyRegs s t
      ∧ sameRegsBut s t [R.TND_PMBX, R.SYS_HIPEND] ∧ t.rget R.TND_PMBX = 0x02F20000#32)
    ∧ (s.mode = .held → s.otp.call = false → o.cutAfter = none → offset.toNat % 4 = 0 → offset.toNat + 16 ≤ 0x100000 →
      (sramBytes s offset.toNat 16).1 = some l → 1 ≤ le l 0 4 → le l 0 4 ≤ 3 →
      ∃ t, exec (.fuseService offset o) s = .next t ∧ t.mode = .held
        ∧ t.rget R.TND_PMBX = BitVec.ofNat 32 (0x02000000 + t.fget F.OTP_PCMD_res * 65536 + t.fget F.OTP_PRES_blown)
        ∧ t.otp = (serviceOp (sramBytes s offset.toNat 16).2 (le l 0 4) (le l 4 4) (le l 8 4) (le l 12 4) o).otp
        ∧ sameMemories s t ∧ sameFesBut s t [])
    ∧ (s.mode = .startup → ∃ t, exec .checkFirmwareInTheCask s = .next t ∧ onlyRegs s t ∧ t.rget R.TND_PMBX = 0x03F20000#32)
    ∧ (s.mode ≠ .startup → ∃ t, exec .checkFirmwareInTheCask s = .next t
      ∧ sameRegsBut s t [R.TND_PMBX, R.SYS_HIPEND, R.EDC_STAT, R.EDC_EV, R.EDC_LOVF, R.EDC_UEADDR, R.EDC_UETS, R.EDC_UEINFO]
      ∧ t.cask.bytes = s.cask.bytes ∧ t.cask.recs = s.cask.recs ∧ t.cask.err = s.cask.err
      ∧ t = { s with regs := t.regs, cask := t.cask, memc := { s.memc with log := t.memc.log }, freshIdx := t.freshIdx }
      ∧ (t.rget R.TND_PMBX).toNat / 65536
          = 0x0300 + (if fwAccepted (imgOf (caskImage s).1) (caskImage s).1.length s.otp.shadow.vendor then 0 else 0x27))
    ∧ (s.mode = .held ∨ romBusy s = true → ∃ t, exec .bootFirmwareFromSram s = .next t ∧ onlyRegs s t ∧ t.rget R.TND_PMBX = 0x04F20000#32)
    ∧ (s.mode ≠ .held → romBusy s = false →
      let m := imgOf (sramImage s).1
      (fwAccepted m (sramImage s).1.length s.otp.shadow.vendor = true →
        ∃ t, exec .bootFirmwareFromSram s = .next t ∧ t.mode = s.mode ∧ t.rget R.SYS_FWVER = fwVer m
          ∧ t.fget F.SYS_FWSTAT_vld = 1
          ∧ (s.mode = .startup → t.boot.phase = .initCall s.now
              ∧ t.tnd.main.pc = BitVec.ofNat 32 (tcmBase + fwInitOff m) ∧ t.tnd.chk.pc = t.tnd.main.pc
              ∧ mtcmp t = (s.now + 10000) % 2 ^ 64 ∧ (t.tnd.main.csrOf csrMie).getLsbD 7 = true
              ∧ (t.tnd.main.csrOf csrMstatus).getLsbD 3 = true)
          ∧ (s.mode = .twin → t.boot.fwRun = true ∧ t.tnd.main.pc = BitVec.ofNat 32 (tcmBase + fwRunOff m)))
      ∧ (fwAccepted m (sramImage s).1.length s.otp.shadow.vendor = false →
        ∃ t, exec .bootFirmwareFromSram s = .next t ∧ t.fget F.SYS_FWSTAT_vld = 0
          ∧ (s.mode = .startup → (sramImage s).2.mode = .startup → t.mode = .held ∧ t.rget R.SYS_FAULT = 0x80000027#32)
          ∧ (s.mode = .twin → t.mode = .twin ∧ t.rget R.TND_PMBX = 0x04270000#32)))

/-- Calls of the fuse service that nothing refuses and no pulse fails (R436 to R439): a slot takes its words and their
check word, a lock its fuses, the thermometer its level, each with result 0; no other word changes. Without SW1 a
call ends with result 1 and blows nothing (R437). A call of the firmware leaves its result in a0 (R436). Where the spec leaves
it open this rests on the model's choice of log 44 and log 48. -/
def Obligations.FuseCallsProgram : Prop :=
  ∀ (s : State) (req : Requester) (idx : Fin 16) (addr : Word) (level : Byte) (l : List Word) (o : PulseObs),
    s.mode ≠ .reset → s.otp.call = false → (req = .pair ∨ req = .bootRom) → o = ⟨none, none, none⟩ →
    let called (t : State) : Prop := (req = .bootRom → t.tnd = s.tnd)
      ∧ (req = .pair → t.tnd.main.x.get 0 10 = BitVec.ofNat 32 (t.fget F.OTP_PCMD_res)
          ∧ (∀ n : Nat, n < 10 ∨ 13 < n → t.tnd.main.x.get 0 n = s.tnd.main.x.get 0 n)
          ∧ t.tnd.main = { s.tnd.main with x := t.tnd.main.x }
          ∧ (s.inLockstep = true → t.tnd.chk.x.get 0 10 = BitVec.ofNat 32 (t.fget F.OTP_PCMD_res))
          ∧ (s.inLockstep = false → t.tnd.chk = s.tnd.chk) ∧ t.tnd = { s.tnd with main := t.tnd.main, chk := t.tnd.chk })
    let wrote (t : State) (ws : List (Nat × Word)) : Prop :=
      t.fget F.OTP_PCMD_res = 0 ∧ t.fget F.OTP_EV_pdone = 1 ∧ t.mode = s.mode
        ∧ (∀ x, x ∈ ws → t.otp.strict.get 0 x.1 &&& x.2 = x.2)
        ∧ (∀ w : Nat, (∀ x, x ∈ ws → x.1 ≠ w) → t.otp.strict.get 0 w = s.otp.strict.get 0 w
            ∧ t.otp.normal.get 0 w = s.otp.normal.get 0 w)
        ∧ called t ∧ t = { s with regs := t.regs, otp := t.otp, memc := t.memc, pins := t.pins, cask := t.cask, tnd := t.tnd }
    (idx.val < 8 → serviceState s 1 = 0 → serviceLock s idx = 0 →
      (serviceData s addr.toNat (slotLen idx)).1 = some l → wouldClear s (slotTarget idx l) = false →
      ∃ t, exec (.programSlot req idx addr o) s = .next t ∧ wrote t (slotTarget idx l))
    ∧ (idx.val < 9 → serviceState s 2 = 0 → serviceLock s idx = 0 →
      ∃ t, exec (.blowLock req idx o) s = .next t ∧ lockNow t idx = true ∧ wrote t [(lockWord, 7#32 <<< (3 * idx.val))])
    ∧ (serviceState s 3 = 0 → serviceLock s 8 = 0 → s.fget F.OTP_LEVEL_lvl < level.toNat → level.toNat ≤ 128 →
      wouldClear s (levelTarget level.toNat) = false → (s.mode = .run → aboveVintage s level.toNat = false) →
      ∃ t, exec (.raiseThermometer req level o) s = .next t ∧ wrote t (levelTarget level.toNat))
    ∧ (s.sw1 = false → ∀ c, c ∈ [Instr.programSlot req idx addr o, .blowLock req idx o, .raiseThermometer req level o] →
      ∃ t, exec c s = .next t ∧ t.fget F.OTP_PCMD_res = 1 ∧ t.otp = s.otp ∧ called t
        ∧ t = { s with regs := t.regs, tnd := t.tnd })

/-! ### Memories -/

/-- Memory accesses: a read of a good word changes nothing, and one that corrects a single wrong data bit delivers the
word and logs it (R366, R374); a word that cannot be corrected is an access fault of the core that reads it (R380), and
so is an access that the map does not permit (R344, R491, R493); a write stores the selected bytes of its word, makes the
word valid and changes no other byte (R369); in lockstep the checker core's accesses do not reach the bus (R341); a scrub
and a remap end with their flags (R384, R385). Where the spec leaves it open this rests on the model's choice of log 31 and
log 37. -/
def Obligations.MemoryAccesses : Prop :=
  ∀ (s : State) (req : Requester) (fetch : Bool) (addr value : Word) (be : BitVec 4) (b : Fin 32) (k t0 lo hi tgt : Nat)
    (c : Bool), s.wf = true → s.mode ≠ .reset →
    (offBus s req addr.toNat = true → exec (.memoryRead ⟨req, fetch⟩ addr none none) s = .next s
      ∧ exec (.memoryWrite req addr value be none) s = .next s)
    ∧ (offBus s req addr.toNat = false → noTrigger s req (if fetch then onFetch else onLoad) addr = true →
      noTrigger s req onStore addr = true →
      (mapReads s req fetch addr.toNat = false → ∃ t, exec (.memoryRead ⟨req, fetch⟩ addr none none) s = .next t
        ∧ accessFaulted s t req (if fetch then 1#32 else 5#32) addr)
      ∧ (be ≠ 0 → (regionOf addr.toNat = .sram → sramWriteOk s req (addr.toNat - sramBase) = false) →
          regionOf addr.toNat ≠ .tcm → (regionOf addr.toNat = .regs → be ≠ 0xF#4) →
          ∃ t, exec (.memoryWrite req addr value be none) s = .next t ∧ accessFaulted s t req 7#32 addr))
    ∧ (regionOf addr.toNat = .sram → offBus s req addr.toNat = false →
      noTrigger s req (if fetch then onFetch else onLoad) addr = true → noTrigger s req onStore addr = true →
      let off := addr.toNat - sramBase
      let m := (sramAt s off).1
      let o := (sramAt s off).2
      let one : WordUpset := ⟨1#32 <<< b.val, 0, 0, 0⟩
      (mapReads s req fetch addr.toNat = true → ((s.ram m).view o none).cls = 0 → exec (.memoryRead ⟨req, fetch⟩ addr none none) s = .next s)
      ∧ (mapReads s req fetch addr.toNat = true → uncorrectable ((s.ram m).view o none).cls = true →
          safetyRel s m (sysAddr s m (o / 4 * 4)) = false →
        ∃ t, exec (.memoryRead ⟨req, fetch⟩ addr none none) s = .next t ∧ t.fget F.EDC_EV_ue = 1 ∧ t.mode = s.mode
          ∧ t.fget F.EDC_UEINFO_vld = 1 ∧ sameMemories s t
          ∧ (req = .pair → tookTrap s.tnd.main t.tnd.main (if fetch then 1#32 else 5#32) addr)
          ∧ (isHost req = true → t.tnd = s.tnd))
      ∧ (mapReads s req fetch addr.toNat = true → (s.ram m).valid.get false (o / 4) = true → (s.ram m).err.find (o / 4) = none →
        (∀ x, s.memc.remap = some x → x.1 < 16) →
        ((s.ram m).view o (some one)).data = (s.ram m).stored o ∧ ((s.ram m).view o (some one)).cls = 1
          ∧ ∃ t, exec (.memoryRead ⟨req, fetch⟩ addr (some one) none) s = .next t ∧ sameMemories s t ∧ t.mode = s.mode
            ∧ ((logFind t m (sysAddr s m (o / 4 * 4))).isSome = true ∨ 16 ≤ s.memc.log.entries.length)
            ∧ t = { s with regs := t.regs, memc := t.memc })
      ∧ (sramWriteOk s req off = true → s.memc.remap = none → ((s.ram m).view o none).cls = 0 → be ≠ 0 →
        ∃ t, exec (.memoryWrite req addr value be none) s = .next t
          ∧ (t.ram m).stored o = mergeWord ((s.ram m).view o none).data value be
          ∧ (t.ram m).valid.get false (o / 4) = true ∧ t.cask.bytes = s.cask.bytes ∧ t.mode = s.mode
          ∧ (∀ a : Nat, a / 4 ≠ o / 4 → memGet 0 (t.ram m).bytes a = memGet 0 (s.ram m).bytes a)
          ∧ (∀ n : Nat, n < 4 → n ≠ m → t.ram n = s.ram n)
          ∧ t = { s with regs := t.regs, memc := t.memc }))
    ∧ (s.memc.scrub = some (lo, hi, tgt, c, t0) → ∃ t, exec .scrubEnd s = .next t ∧ t.memc.scrub = none
        ∧ t.fget F.EDC_SCCTL_busy = 0 ∧ t.fget F.EDC_SCSTAT_done = 1 ∧ t.fget F.EDC_EV_scdone = 1
        ∧ t.fget F.EDC_SCSTAT_abrt = (if s.memc.abort then 1 else 0)
        ∧ (t.mode = s.mode → sameFesBut s t []) ∧ sameFuses s t ∧ keptChannelConfig s t)
    ∧ (s.memc.remap = some (k, t0) → s.memc.remapped = none → s.fget F.EDC_REMAP_busy = 1 →
      (∃ t, exec (.remapComplete true) s = .next t ∧ t.memc.remapped = some k ∧ t.fget F.EDC_REMAP_done = 1
        ∧ t.fget F.EDC_REMAP_busy = 0 ∧ t.fget F.EDC_EV_rmdone = 1 ∧ t.memc.sram.bytes = s.memc.sram.bytes
        ∧ (t.mode = s.mode → sameFesBut s t []) ∧ sameFuses s t ∧ keptChannelConfig s t)
      ∧ (s.mode = .run → ∃ t, exec (.remapComplete false) s = .next t ∧ t.mode = .safe ∧ t.fget F.EDC_REMAP_fail = 1
        ∧ t.fget F.EDC_REMAP_busy = 0 ∧ t.memc.remapped = none ∧ (s.memc.sram.err = Tab.empty → wentSafe s t 0x42)))

end
end

