-- ==== Sys2Proof/Laws/Bits.lean ====
section
/-! SUPPORT. Fields of register words: a field reads as it was written, other fields read as before, and byte order
goes both ways. -/

namespace Sys2Proof.Machine

/-- A field lies in the word. -/
abbrev fldOk (f : Fld) : Prop := f.lo ≤ f.hi ∧ f.hi < 32

theorem getLsbD_fldMask (f : Fld) (i : Nat) :
    (fldMask f).getLsbD i = (decide (i < 32) && decide (f.lo ≤ i) && decide (i < f.hi + 1 - f.lo + f.lo)) := by
  unfold fldMask
  rw [BitVec.getLsbD_ofNat, Nat.testBit_shiftLeft, Nat.testBit_two_pow_sub_one, Bool.and_assoc]
  congr 1
  by_cases h : f.lo ≤ i
  · simp only [h, decide_true, Bool.true_and, decide_eq_decide]
    omega
  · simp [h]

theorem testBit_fldVal (f : Fld) (w : Word) (i : Nat) :
    (fldVal f w).testBit i = (decide (i < f.hi + 1 - f.lo) && w.getLsbD (f.lo + i)) := by
  unfold fldVal
  rw [Nat.testBit_mod_two_pow, Nat.testBit_shiftRight, BitVec.getLsbD]

theorem getLsbD_fldIns (f : Fld) (w : Word) (v i : Nat) :
    (fldIns f w v).getLsbD i = if (fldMask f).getLsbD i then v.testBit (i - f.lo) else w.getLsbD i := by
  unfold fldIns
  simp only [BitVec.getLsbD_or, BitVec.getLsbD_and, BitVec.getLsbD_not, BitVec.getLsbD_ofNat, Nat.testBit_shiftLeft,
    getLsbD_fldMask]
  by_cases h : i < 32
  · by_cases h1 : f.lo ≤ i
    · by_cases h2 : i < f.hi + 1 - f.lo + f.lo <;> simp [h, h1, h2]
    · simp [h, h1]
  · simp [h, BitVec.getLsbD_of_ge _ _ (Nat.le_of_not_lt h)]

/-- A field reads as the value put into it, cut to the field. -/
theorem fldVal_fldIns_same {f : Fld} (h : fldOk f) (w : Word) (v : Nat) :
    fldVal f (fldIns f w v) = v % 2 ^ (f.hi + 1 - f.lo) := by
  refine Nat.eq_of_testBit_eq (fun i => ?_)
  rw [testBit_fldVal, getLsbD_fldIns, getLsbD_fldMask, Nat.testBit_mod_two_pow]
  obtain ⟨h1, h2⟩ := h
  by_cases hi : i < f.hi + 1 - f.lo
  · have a : f.lo + i < 32 := by omega
    have b : f.lo + i < f.hi + 1 - f.lo + f.lo := by omega
    simp [hi, a, b]
  · simp [hi]

/-- Fields that share no bit do not disturb one another. -/
theorem fldVal_fldIns_other {f g : Fld} (h : g.hi < f.lo ∨ (f.hi < g.lo ∧ f.lo ≤ f.hi)) (w : Word) (v : Nat) :
    fldVal g (fldIns f w v) = fldVal g w := by
  refine Nat.eq_of_testBit_eq (fun i => ?_)
  rw [testBit_fldVal, testBit_fldVal, getLsbD_fldIns, getLsbD_fldMask]
  by_cases hi : i < g.hi + 1 - g.lo
  · have : ¬ (f.lo ≤ g.lo + i ∧ g.lo + i < f.hi + 1 - f.lo + f.lo) := by omega
    by_cases h1 : f.lo ≤ g.lo + i
    · have h2 : ¬ g.lo + i < f.hi + 1 - f.lo + f.lo := fun h2 => this ⟨h1, h2⟩
      simp [hi, h2]
    · simp [hi, h1]
  · simp [hi]

/-- A field value fits its field. -/
theorem fldVal_lt (f : Fld) (w : Word) : fldVal f w < 2 ^ (f.hi + 1 - f.lo) := Nat.mod_lt _ (Nat.two_pow_pos _)

theorem fldVal_zero (f : Fld) : fldVal f 0 = 0 := by simp [fldVal]

/-- The CRC is the plain fold over the bytes. -/
theorem crc32Fold_eq (poly : Word) (l : List Byte) (c : Word) : crc32Fold poly l c = l.foldl (crc32Byte poly) c := by
  induction l generalizing c with
  | nil => rfl
  | cons b r ih =>
    rw [crc32Fold, List.foldl_cons]
    split
    · next h => rw [ih, BitVec.eq_of_toNat_eq (x := c) (y := 0#32) h]
    · next n h =>
      have e : BitVec.ofNat 32 (n + 1) = c := BitVec.eq_of_toNat_eq (by rw [← Nat.succ_eq_add_one, ← h]; simp)
      rw [ih, e]

@[simp] theorem length_leBytes (n v : Nat) : (leBytes n v).length = n := by
  induction n generalizing v with
  | zero => rfl
  | succ n ih => simp [leBytes, ih]

/-- Little-endian bytes of a value that fits them give it back. -/
theorem leNat_leBytes (n v : Nat) : leNat (leBytes n v) = v % 256 ^ n := by
  induction n generalizing v with
  | zero => simp [leBytes, leNat, Nat.mod_one]
  | succ n ih =>
    simp only [leBytes, leNat, ih, BitVec.toNat_ofNat]
    change v % 256 + 256 * (v / 256 % 256 ^ n) = v % 256 ^ (n + 1)
    have h : (256 : Nat) ^ (n + 1) = 256 * 256 ^ n := by rw [Nat.pow_succ, Nat.mul_comm]
    rw [h, Nat.mod_mul]

@[simp] theorem length_beBytes (n v : Nat) : (beBytes n v).length = n := by simp [beBytes]

theorem beNat_append (l : List Byte) (b : Byte) : beNat (l ++ [b]) = 256 * beNat l + b.toNat := by
  simp [beNat, List.foldl_append]

theorem beNat_reverse (l : List Byte) : beNat l.reverse = leNat l := by
  induction l with
  | nil => rfl
  | cons b r ih => rw [List.reverse_cons, beNat_append, ih, leNat]; omega

/-- Big-endian bytes of a value that fits them give it back. -/
theorem beNat_beBytes (n v : Nat) : beNat (beBytes n v) = v % 256 ^ n := by
  rw [beBytes, beNat_reverse, leNat_leBytes]

end Sys2Proof.Machine
end

