-- ==== Sys2Proof/Laws/Tab.lean ====
section
/-! SUPPORT. Sparse tables and byte memories: read after write, what a write leaves alone, and that every operation
keeps the canonical form. -/

namespace Sys2Proof

/-! ### Tables -/

theorem findKey_putKey_same {α : Type} (k : Nat) (v : α) (l : List (Nat × α)) : findKey k (putKey k v l) = some v := by
  induction l with
  | nil => simp [putKey, findKey]
  | cons e r ih =>
    obtain ⟨j, w⟩ := e
    simp only [putKey]
    split
    · simp [findKey]
    · split
      · simp [findKey]
      · next h => simp [findKey, h, ih]

theorem findKey_putKey_ne {α : Type} {k m : Nat} (h : m ≠ k) (v : α) (l : List (Nat × α)) :
    findKey m (putKey k v l) = findKey m l := by
  induction l with
  | nil => simp [putKey, findKey, h.symm]
  | cons e r ih =>
    obtain ⟨j, w⟩ := e
    simp only [putKey]
    split
    · simp [findKey, h.symm]
    · split
      · next hj => subst hj; simp [findKey, h.symm]
      · simp [findKey, ih]

theorem findKey_dropKey_ne {α : Type} {k m : Nat} (h : m ≠ k) (l : List (Nat × α)) :
    findKey m (dropKey k l) = findKey m l := by
  induction l with
  | nil => rfl
  | cons e r ih =>
    obtain ⟨j, w⟩ := e
    simp only [dropKey]
    split
    · rfl
    · split
      · next hj => subst hj; simp [findKey, h.symm]
      · simp [findKey, ih]

/-- Every key of a rising list is above the head's. -/
theorem risingKeys_head {α : Type} {j : Nat} {w : α} {r : List (Nat × α)} (h : risingKeys ((j, w) :: r) = true) :
    risingKeys r = true ∧ ∀ e, e ∈ r → j < e.1 := by
  induction r generalizing j w with
  | nil => simp [risingKeys]
  | cons e r ih =>
    obtain ⟨i, x⟩ := e
    simp only [risingKeys, Bool.and_eq_true, decide_eq_true_eq] at h
    refine ⟨h.2, fun e he => ?_⟩
    rcases List.mem_cons.mp he with rfl | he
    · exact h.1
    · exact Nat.lt_trans h.1 ((ih h.2).2 e he)

theorem risingKeys_cons {α : Type} {j : Nat} {w : α} {r : List (Nat × α)} (h : risingKeys r = true)
    (hlt : ∀ e, e ∈ r → j < e.1) : risingKeys ((j, w) :: r) = true := by
  cases r with
  | nil => rfl
  | cons e r =>
    obtain ⟨i, x⟩ := e
    simp only [risingKeys, Bool.and_eq_true, decide_eq_true_eq]
    exact ⟨hlt (i, x) List.mem_cons_self, h⟩

theorem findKey_none {α : Type} {k : Nat} {l : List (Nat × α)} (h : ∀ e, e ∈ l → k < e.1) : findKey k l = none := by
  induction l with
  | nil => rfl
  | cons e r ih =>
    obtain ⟨j, w⟩ := e
    have hj : k < j := h (j, w) List.mem_cons_self
    simp only [findKey, if_neg (Nat.ne_of_gt hj)]
    exact ih (fun e he => h e (List.mem_cons_of_mem _ he))

theorem findKey_dropKey_same {α : Type} {k : Nat} {l : List (Nat × α)} (h : risingKeys l = true) :
    findKey k (dropKey k l) = none := by
  induction l with
  | nil => rfl
  | cons e r ih =>
    obtain ⟨j, w⟩ := e
    obtain ⟨hr, hlt⟩ := risingKeys_head h
    simp only [dropKey]
    split
    · next hk =>
      refine findKey_none (fun e he => ?_)
      rcases List.mem_cons.mp he with rfl | he
      · exact hk
      · exact Nat.lt_trans hk (hlt e he)
    · split
      · next hj => subst hj; exact findKey_none hlt
      · next hj => simp only [findKey, if_neg hj]; exact ih hr

theorem mem_putKey {α : Type} {k : Nat} {v : α} {l : List (Nat × α)} {e : Nat × α} (h : e ∈ putKey k v l) :
    e = (k, v) ∨ e ∈ l := by
  induction l with
  | nil => simpa [putKey] using h
  | cons f r ih =>
    obtain ⟨j, w⟩ := f
    simp only [putKey] at h
    split at h
    · simpa using h
    · split at h
      · rcases List.mem_cons.mp h with h | h
        · exact .inl h
        · exact .inr (List.mem_cons_of_mem _ h)
      · rcases List.mem_cons.mp h with rfl | h
        · exact .inr List.mem_cons_self
        · exact (ih h).imp_right (List.mem_cons_of_mem _)

theorem mem_dropKey {α : Type} {k : Nat} {l : List (Nat × α)} {e : Nat × α} (h : e ∈ dropKey k l) : e ∈ l := by
  induction l with
  | nil => exact h
  | cons f r ih =>
    obtain ⟨j, w⟩ := f
    simp only [dropKey] at h
    split at h
    · exact h
    · split at h
      · exact List.mem_cons_of_mem _ h
      · rcases List.mem_cons.mp h with rfl | h
        · exact List.mem_cons_self
        · exact List.mem_cons_of_mem _ (ih h)

theorem risingKeys_putKey {α : Type} (k : Nat) (v : α) {l : List (Nat × α)} (h : risingKeys l = true) :
    risingKeys (putKey k v l) = true := by
  induction l with
  | nil => rfl
  | cons e r ih =>
    obtain ⟨j, w⟩ := e
    obtain ⟨hr, hlt⟩ := risingKeys_head h
    simp only [putKey]
    split
    · next hk =>
      refine risingKeys_cons h (fun e he => ?_)
      rcases List.mem_cons.mp he with rfl | he
      · exact hk
      · exact Nat.lt_trans hk (hlt e he)
    · split
      · next hj => subst hj; exact risingKeys_cons hr hlt
      · next hk hj =>
        refine risingKeys_cons (ih hr) (fun e he => ?_)
        rcases mem_putKey he with rfl | he
        · exact Nat.lt_of_le_of_ne (Nat.le_of_not_lt hk) hj
        · exact hlt e he

theorem risingKeys_dropKey {α : Type} (k : Nat) {l : List (Nat × α)} (h : risingKeys l = true) :
    risingKeys (dropKey k l) = true := by
  induction l with
  | nil => rfl
  | cons e r ih =>
    obtain ⟨j, w⟩ := e
    obtain ⟨hr, hlt⟩ := risingKeys_head h
    simp only [dropKey]
    split
    · exact h
    · split
      · exact hr
      · exact risingKeys_cons (ih hr) (fun e he => hlt e (mem_dropKey he))

@[simp] theorem Tab.find_set_same {α : Type} (t : Tab α) (k : Nat) (v : α) : (t.set k v).find k = some v :=
  findKey_putKey_same k v t.entries

theorem Tab.find_set_ne {α : Type} (t : Tab α) {k m : Nat} (v : α) (h : m ≠ k) : (t.set k v).find m = t.find m :=
  findKey_putKey_ne h v t.entries

@[simp] theorem Tab.get_set_same {α : Type} (t : Tab α) (d : α) (k : Nat) (v : α) : (t.set k v).get d k = v := by
  simp [Tab.get, Tab.set, findKey_putKey_same]

theorem Tab.get_set_ne {α : Type} (t : Tab α) (d : α) {k m : Nat} (v : α) (h : m ≠ k) :
    (t.set k v).get d m = t.get d m := by
  simp [Tab.get, Tab.set, findKey_putKey_ne h]

@[simp] theorem Tab.get_empty {α : Type} (d : α) (k : Nat) : (Tab.empty : Tab α).get d k = d := rfl

@[simp] theorem Tab.find_empty {α : Type} (k : Nat) : (Tab.empty : Tab α).find k = none := rfl

theorem Tab.get_eq {α : Type} (t : Tab α) (d : α) (k : Nat) : t.get d k = (t.find k).getD d := rfl

theorem Tab.find_del_ne {α : Type} (t : Tab α) {k m : Nat} (h : m ≠ k) : (t.del k).find m = t.find m :=
  findKey_dropKey_ne h t.entries

theorem Tab.get_del_ne {α : Type} (t : Tab α) (d : α) {k m : Nat} (h : m ≠ k) : (t.del k).get d m = t.get d m := by
  simp [Tab.get, Tab.del, findKey_dropKey_ne h]

theorem Tab.find_del_same {α : Type} {t : Tab α} (k : Nat) (h : risingKeys t.entries = true) : (t.del k).find k = none :=
  findKey_dropKey_same h

theorem Tab.get_del_same {α : Type} {t : Tab α} (d : α) (k : Nat) (h : risingKeys t.entries = true) :
    (t.del k).get d k = d := by
  simp [Tab.get, Tab.del, findKey_dropKey_same h]

theorem Tab.set_rising {α : Type} {t : Tab α} (k : Nat) (v : α) (h : risingKeys t.entries = true) :
    risingKeys (t.set k v).entries = true := risingKeys_putKey k v h

theorem Tab.del_rising {α : Type} {t : Tab α} (k : Nat) (h : risingKeys t.entries = true) :
    risingKeys (t.del k).entries = true := risingKeys_dropKey k h

/-- A table that is mapped by a function reads as the function of what it read. -/
theorem Tab.get_map {α β : Type} (t : Tab α) (f : α → β) (d : α) (k : Nat) : (t.map f).get (f d) k = f (t.get d k) := by
  unfold Tab.get Tab.map
  induction t.entries with
  | nil => rfl
  | cons e r ih =>
    obtain ⟨j, w⟩ := e
    simp only [List.map_cons, findKey]
    split
    · rfl
    · exact ih

/-! ### Byte memories -/

@[simp] theorem memGet_nil (d : Byte) (a : Nat) : memGet d [] a = d := rfl

theorem memGet_memPut_ne (d : Byte) (m : Mem) {a c : Nat} (b : Byte) (h : c ≠ a) :
    memGet d (memPut d m a b) c = memGet d m c := by
  unfold memGet memPut
  split
  · rw [findKey_dropKey_ne h]
  · rw [findKey_putKey_ne h]

theorem memWf_rising {d : Byte} {m : Mem} (h : memWf d m = true) : risingKeys m = true := by
  simp only [memWf, Bool.and_eq_true] at h
  exact h.1

theorem memGet_memPut_same {d : Byte} {m : Mem} (a : Nat) (b : Byte) (h : memWf d m = true) :
    memGet d (memPut d m a b) a = b := by
  unfold memGet memPut
  split
  · next hb => rw [findKey_dropKey_same (memWf_rising h)]; simp [hb]
  · rw [findKey_putKey_same]; rfl

/-- A byte write keeps the canonical form. -/
theorem memWf_memPut {d : Byte} {m : Mem} (a : Nat) (b : Byte) (h : memWf d m = true) :
    memWf d (memPut d m a b) = true := by
  simp only [memWf, Bool.and_eq_true, List.all_eq_true] at h ⊢
  unfold memPut
  split
  · exact ⟨risingKeys_dropKey a h.1, fun e he => h.2 e (mem_dropKey he)⟩
  · next hb =>
    refine ⟨risingKeys_putKey a b h.1, fun e he => ?_⟩
    rcases mem_putKey he with rfl | he
    · simpa using hb
    · exact h.2 e he

/-- Writing bytes keeps the canonical form. -/
theorem memWf_memPutList {d : Byte} {m : Mem} (a : Nat) (l : List Byte) (h : memWf d m = true) :
    memWf d (memPutList d m a l) = true := by
  induction l generalizing m a with
  | nil => exact h
  | cons b r ih => exact ih (a + 1) (memWf_memPut a b h)

/-- Writing bytes leaves every other address alone. -/
theorem memGet_memPutList_out (d : Byte) (m : Mem) (a : Nat) (l : List Byte) {c : Nat}
    (h : c < a ∨ a + l.length ≤ c) : memGet d (memPutList d m a l) c = memGet d m c := by
  induction l generalizing m a with
  | nil => rfl
  | cons b r ih =>
    simp only [List.length_cons] at h
    rw [memPutList, ih _ _ (by omega), memGet_memPut_ne _ _ _ (by omega)]

/-- Bytes read back as written. -/
theorem memGet_memPutList_in {d : Byte} {m : Mem} (a : Nat) (l : List Byte) (h : memWf d m = true) {i : Nat}
    (hi : i < l.length) : memGet d (memPutList d m a l) (a + i) = l.getD i d := by
  induction l generalizing m a i with
  | nil => simp at hi
  | cons b r ih =>
    rw [memPutList]
    cases i with
    | zero =>
      rw [memGet_memPutList_out _ _ _ _ (by omega), Nat.add_zero, memGet_memPut_same a b h]
      rfl
    | succ i =>
      have := ih (a + 1) (memWf_memPut a b h) (i := i) (by simpa using hi)
      rw [show a + (i + 1) = a + 1 + i by omega, this]
      rfl

/-- A range that a write does not touch reads as before. -/
theorem memGetList_memPutList_out (d : Byte) (m : Mem) (a : Nat) (l : List Byte) (c n : Nat)
    (h : c + n ≤ a ∨ a + l.length ≤ c) : memGetList d (memPutList d m a l) c n = memGetList d m c n := by
  unfold memGetList
  refine List.map_congr_left (fun i hi => ?_)
  rw [List.mem_range] at hi
  exact memGet_memPutList_out d m a l (by omega)

theorem findKey_filter {α : Type} (k : Nat) (p : Nat → Bool) (h : p k = true) (l : List (Nat × α)) :
    findKey k (l.filter (fun e => p e.1)) = findKey k l := by
  induction l with
  | nil => rfl
  | cons e r ih =>
    obtain ⟨j, v⟩ := e
    by_cases hj : j = k
    · subst hj; simp [findKey, h]
    · by_cases hp : p j = true <;> simp [findKey, hp, hj, ih]

theorem findKey_filter_out {α : Type} (k : Nat) (p : Nat → Bool) (h : p k = false) (l : List (Nat × α)) :
    findKey k (l.filter (fun e => p e.1)) = none := by
  induction l with
  | nil => rfl
  | cons e r ih =>
    obtain ⟨j, v⟩ := e
    by_cases hp : p j = true
    · have hj : j ≠ k := fun e => by rw [e, h] at hp; cases hp
      simp [findKey, hp, hj, ih]
    · simp [hp, ih]

/-- What keeping a part of a table's keys leaves. -/
theorem Tab.find_keep {α : Type} (t : Tab α) (p : Nat → Bool) (k : Nat) :
    (t.keep p).find k = if p k then t.find k else none := by
  unfold Tab.keep Tab.find
  cases h : p k
  · simpa using findKey_filter_out k p h t.entries
  · simpa using findKey_filter k p h t.entries

end Sys2Proof
end

