-- ==== Sys2Proof/Laws/State.lean ====
section
/-! SUPPORT. What each update of the state leaves alone, field by field and reader by reader, and what it sets. -/

namespace Sys2Proof.Machine

variable (s : State)


/-! `rput` -/

@[simp] theorem State.rput_pending (a : Nat) (w : Word) : (s.rput a w).pending = s.pending := rfl
@[simp] theorem State.rput_tick (a : Nat) (w : Word) : (s.rput a w).tick = s.tick := rfl
@[simp] theorem State.rput_fieldOff (a : Nat) (w : Word) : (s.rput a w).fieldOff = s.fieldOff := rfl
@[simp] theorem State.rput_freshIdx (a : Nat) (w : Word) : (s.rput a w).freshIdx = s.freshIdx := rfl
@[simp] theorem State.rput_mode (a : Nat) (w : Word) : (s.rput a w).mode = s.mode := rfl
@[simp] theorem State.rput_boot (a : Nat) (w : Word) : (s.rput a w).boot = s.boot := rfl
@[simp] theorem State.rput_pins (a : Nat) (w : Word) : (s.rput a w).pins = s.pins := rfl
@[simp] theorem State.rput_sealr (a : Nat) (w : Word) : (s.rput a w).sealr = s.sealr := rfl
@[simp] theorem State.rput_fes (a : Nat) (w : Word) : (s.rput a w).fes = s.fes := rfl
@[simp] theorem State.rput_chans (a : Nat) (w : Word) : (s.rput a w).chans = s.chans := rfl
@[simp] theorem State.rput_groups (a : Nat) (w : Word) : (s.rput a w).groups = s.groups := rfl
@[simp] theorem State.rput_hub (a : Nat) (w : Word) : (s.rput a w).hub = s.hub := rfl
@[simp] theorem State.rput_enA (a : Nat) (w : Word) : (s.rput a w).enA = s.enA := rfl
@[simp] theorem State.rput_enB (a : Nat) (w : Word) : (s.rput a w).enB = s.enB := rfl
@[simp] theorem State.rput_la (a : Nat) (w : Word) : (s.rput a w).la = s.la := rfl
@[simp] theorem State.rput_lb (a : Nat) (w : Word) : (s.rput a w).lb = s.lb := rfl
@[simp] theorem State.rput_comp (a : Nat) (w : Word) : (s.rput a w).comp = s.comp := rfl
@[simp] theorem State.rput_taste (a : Nat) (w : Word) : (s.rput a w).taste = s.taste := rfl
@[simp] theorem State.rput_vint (a : Nat) (w : Word) : (s.rput a w).vint = s.vint := rfl
@[simp] theorem State.rput_hreq (a : Nat) (w : Word) : (s.rput a w).hreq = s.hreq := rfl
@[simp] theorem State.rput_ses (a : Nat) (w : Word) : (s.rput a w).ses = s.ses := rfl
@[simp] theorem State.rput_net (a : Nat) (w : Word) : (s.rput a w).net = s.net := rfl
@[simp] theorem State.rput_streams (a : Nat) (w : Word) : (s.rput a w).streams = s.streams := rfl
@[simp] theorem State.rput_tnd (a : Nat) (w : Word) : (s.rput a w).tnd = s.tnd := rfl
@[simp] theorem State.rput_memc (a : Nat) (w : Word) : (s.rput a w).memc = s.memc := rfl
@[simp] theorem State.rput_cask (a : Nat) (w : Word) : (s.rput a w).cask = s.cask := rfl
@[simp] theorem State.rput_otp (a : Nat) (w : Word) : (s.rput a w).otp = s.otp := rfl
@[simp] theorem State.rput_spi (a : Nat) (w : Word) : (s.rput a w).spi = s.spi := rfl
@[simp] theorem State.rput_runFrom (a : Nat) (w : Word) : (s.rput a w).runFrom = s.runFrom := rfl
@[simp] theorem State.rput_safeFrom (a : Nat) (w : Word) : (s.rput a w).safeFrom = s.safeFrom := rfl
@[simp] theorem State.rput_chan (a : Nat) (w : Word) (m : Nat) : (s.rput a w).chan m = s.chan m := rfl
@[simp] theorem State.rput_fe (a : Nat) (w : Word) (m : Nat) : (s.rput a w).fe m = s.fe m := rfl
@[simp] theorem State.rput_group (a : Nat) (w : Word) (m : Nat) : (s.rput a w).group m = s.group m := rfl
@[simp] theorem State.rput_sess (a : Nat) (w : Word) (m : Nat) : (s.rput a w).sess m = s.sess m := rfl
@[simp] theorem State.rput_port (a : Nat) (w : Word) (m : Nat) : (s.rput a w).port m = s.port m := rfl
@[simp] theorem State.rput_stream (a : Nat) (w : Word) (m : Nat) : (s.rput a w).stream m = s.stream m := rfl
@[simp] theorem State.rput_now (a : Nat) (w : Word) : (s.rput a w).now = s.now := rfl
@[simp] theorem State.rput_stamp (a : Nat) (w : Word) : (s.rput a w).stamp = s.stamp := rfl
@[simp] theorem State.rput_fieldNow (a : Nat) (w : Word) : (s.rput a w).fieldNow = s.fieldNow := rfl

/-! `fput` -/

@[simp] theorem State.fput_pending (f : Fld) (v : Nat) : (s.fput f v).pending = s.pending := rfl
@[simp] theorem State.fput_tick (f : Fld) (v : Nat) : (s.fput f v).tick = s.tick := rfl
@[simp] theorem State.fput_fieldOff (f : Fld) (v : Nat) : (s.fput f v).fieldOff = s.fieldOff := rfl
@[simp] theorem State.fput_freshIdx (f : Fld) (v : Nat) : (s.fput f v).freshIdx = s.freshIdx := rfl
@[simp] theorem State.fput_mode (f : Fld) (v : Nat) : (s.fput f v).mode = s.mode := rfl
@[simp] theorem State.fput_boot (f : Fld) (v : Nat) : (s.fput f v).boot = s.boot := rfl
@[simp] theorem State.fput_pins (f : Fld) (v : Nat) : (s.fput f v).pins = s.pins := rfl
@[simp] theorem State.fput_sealr (f : Fld) (v : Nat) : (s.fput f v).sealr = s.sealr := rfl
@[simp] theorem State.fput_fes (f : Fld) (v : Nat) : (s.fput f v).fes = s.fes := rfl
@[simp] theorem State.fput_chans (f : Fld) (v : Nat) : (s.fput f v).chans = s.chans := rfl
@[simp] theorem State.fput_groups (f : Fld) (v : Nat) : (s.fput f v).groups = s.groups := rfl
@[simp] theorem State.fput_hub (f : Fld) (v : Nat) : (s.fput f v).hub = s.hub := rfl
@[simp] theorem State.fput_enA (f : Fld) (v : Nat) : (s.fput f v).enA = s.enA := rfl
@[simp] theorem State.fput_enB (f : Fld) (v : Nat) : (s.fput f v).enB = s.enB := rfl
@[simp] theorem State.fput_la (f : Fld) (v : Nat) : (s.fput f v).la = s.la := rfl
@[simp] theorem State.fput_lb (f : Fld) (v : Nat) : (s.fput f v).lb = s.lb := rfl
@[simp] theorem State.fput_comp (f : Fld) (v : Nat) : (s.fput f v).comp = s.comp := rfl
@[simp] theorem State.fput_taste (f : Fld) (v : Nat) : (s.fput f v).taste = s.taste := rfl
@[simp] theorem State.fput_vint (f : Fld) (v : Nat) : (s.fput f v).vint = s.vint := rfl
@[simp] theorem State.fput_hreq (f : Fld) (v : Nat) : (s.fput f v).hreq = s.hreq := rfl
@[simp] theorem State.fput_ses (f : Fld) (v : Nat) : (s.fput f v).ses = s.ses := rfl
@[simp] theorem State.fput_net (f : Fld) (v : Nat) : (s.fput f v).net = s.net := rfl
@[simp] theorem State.fput_streams (f : Fld) (v : Nat) : (s.fput f v).streams = s.streams := rfl
@[simp] theorem State.fput_tnd (f : Fld) (v : Nat) : (s.fput f v).tnd = s.tnd := rfl
@[simp] theorem State.fput_memc (f : Fld) (v : Nat) : (s.fput f v).memc = s.memc := rfl
@[simp] theorem State.fput_cask (f : Fld) (v : Nat) : (s.fput f v).cask = s.cask := rfl
@[simp] theorem State.fput_otp (f : Fld) (v : Nat) : (s.fput f v).otp = s.otp := rfl
@[simp] theorem State.fput_spi (f : Fld) (v : Nat) : (s.fput f v).spi = s.spi := rfl
@[simp] theorem State.fput_runFrom (f : Fld) (v : Nat) : (s.fput f v).runFrom = s.runFrom := rfl
@[simp] theorem State.fput_safeFrom (f : Fld) (v : Nat) : (s.fput f v).safeFrom = s.safeFrom := rfl
@[simp] theorem State.fput_chan (f : Fld) (v : Nat) (m : Nat) : (s.fput f v).chan m = s.chan m := rfl
@[simp] theorem State.fput_fe (f : Fld) (v : Nat) (m : Nat) : (s.fput f v).fe m = s.fe m := rfl
@[simp] theorem State.fput_group (f : Fld) (v : Nat) (m : Nat) : (s.fput f v).group m = s.group m := rfl
@[simp] theorem State.fput_sess (f : Fld) (v : Nat) (m : Nat) : (s.fput f v).sess m = s.sess m := rfl
@[simp] theorem State.fput_port (f : Fld) (v : Nat) (m : Nat) : (s.fput f v).port m = s.port m := rfl
@[simp] theorem State.fput_stream (f : Fld) (v : Nat) (m : Nat) : (s.fput f v).stream m = s.stream m := rfl
@[simp] theorem State.fput_now (f : Fld) (v : Nat) : (s.fput f v).now = s.now := rfl
@[simp] theorem State.fput_stamp (f : Fld) (v : Nat) : (s.fput f v).stamp = s.stamp := rfl
@[simp] theorem State.fput_fieldNow (f : Fld) (v : Nat) : (s.fput f v).fieldNow = s.fieldNow := rfl

/-! `fbool` -/

@[simp] theorem State.fbool_pending (f : Fld) (b : Bool) : (s.fbool f b).pending = s.pending := rfl
@[simp] theorem State.fbool_tick (f : Fld) (b : Bool) : (s.fbool f b).tick = s.tick := rfl
@[simp] theorem State.fbool_fieldOff (f : Fld) (b : Bool) : (s.fbool f b).fieldOff = s.fieldOff := rfl
@[simp] theorem State.fbool_freshIdx (f : Fld) (b : Bool) : (s.fbool f b).freshIdx = s.freshIdx := rfl
@[simp] theorem State.fbool_mode (f : Fld) (b : Bool) : (s.fbool f b).mode = s.mode := rfl
@[simp] theorem State.fbool_boot (f : Fld) (b : Bool) : (s.fbool f b).boot = s.boot := rfl
@[simp] theorem State.fbool_pins (f : Fld) (b : Bool) : (s.fbool f b).pins = s.pins := rfl
@[simp] theorem State.fbool_sealr (f : Fld) (b : Bool) : (s.fbool f b).sealr = s.sealr := rfl
@[simp] theorem State.fbool_fes (f : Fld) (b : Bool) : (s.fbool f b).fes = s.fes := rfl
@[simp] theorem State.fbool_chans (f : Fld) (b : Bool) : (s.fbool f b).chans = s.chans := rfl
@[simp] theorem State.fbool_groups (f : Fld) (b : Bool) : (s.fbool f b).groups = s.groups := rfl
@[simp] theorem State.fbool_hub (f : Fld) (b : Bool) : (s.fbool f b).hub = s.hub := rfl
@[simp] theorem State.fbool_enA (f : Fld) (b : Bool) : (s.fbool f b).enA = s.enA := rfl
@[simp] theorem State.fbool_enB (f : Fld) (b : Bool) : (s.fbool f b).enB = s.enB := rfl
@[simp] theorem State.fbool_la (f : Fld) (b : Bool) : (s.fbool f b).la = s.la := rfl
@[simp] theorem State.fbool_lb (f : Fld) (b : Bool) : (s.fbool f b).lb = s.lb := rfl
@[simp] theorem State.fbool_comp (f : Fld) (b : Bool) : (s.fbool f b).comp = s.comp := rfl
@[simp] theorem State.fbool_taste (f : Fld) (b : Bool) : (s.fbool f b).taste = s.taste := rfl
@[simp] theorem State.fbool_vint (f : Fld) (b : Bool) : (s.fbool f b).vint = s.vint := rfl
@[simp] theorem State.fbool_hreq (f : Fld) (b : Bool) : (s.fbool f b).hreq = s.hreq := rfl
@[simp] theorem State.fbool_ses (f : Fld) (b : Bool) : (s.fbool f b).ses = s.ses := rfl
@[simp] theorem State.fbool_net (f : Fld) (b : Bool) : (s.fbool f b).net = s.net := rfl
@[simp] theorem State.fbool_streams (f : Fld) (b : Bool) : (s.fbool f b).streams = s.streams := rfl
@[simp] theorem State.fbool_tnd (f : Fld) (b : Bool) : (s.fbool f b).tnd = s.tnd := rfl
@[simp] theorem State.fbool_memc (f : Fld) (b : Bool) : (s.fbool f b).memc = s.memc := rfl
@[simp] theorem State.fbool_cask (f : Fld) (b : Bool) : (s.fbool f b).cask = s.cask := rfl
@[simp] theorem State.fbool_otp (f : Fld) (b : Bool) : (s.fbool f b).otp = s.otp := rfl
@[simp] theorem State.fbool_spi (f : Fld) (b : Bool) : (s.fbool f b).spi = s.spi := rfl
@[simp] theorem State.fbool_runFrom (f : Fld) (b : Bool) : (s.fbool f b).runFrom = s.runFrom := rfl
@[simp] theorem State.fbool_safeFrom (f : Fld) (b : Bool) : (s.fbool f b).safeFrom = s.safeFrom := rfl
@[simp] theorem State.fbool_chan (f : Fld) (b : Bool) (m : Nat) : (s.fbool f b).chan m = s.chan m := rfl
@[simp] theorem State.fbool_fe (f : Fld) (b : Bool) (m : Nat) : (s.fbool f b).fe m = s.fe m := rfl
@[simp] theorem State.fbool_group (f : Fld) (b : Bool) (m : Nat) : (s.fbool f b).group m = s.group m := rfl
@[simp] theorem State.fbool_sess (f : Fld) (b : Bool) (m : Nat) : (s.fbool f b).sess m = s.sess m := rfl
@[simp] theorem State.fbool_port (f : Fld) (b : Bool) (m : Nat) : (s.fbool f b).port m = s.port m := rfl
@[simp] theorem State.fbool_stream (f : Fld) (b : Bool) (m : Nat) : (s.fbool f b).stream m = s.stream m := rfl
@[simp] theorem State.fbool_now (f : Fld) (b : Bool) : (s.fbool f b).now = s.now := rfl
@[simp] theorem State.fbool_stamp (f : Fld) (b : Bool) : (s.fbool f b).stamp = s.stamp := rfl
@[simp] theorem State.fbool_fieldNow (f : Fld) (b : Bool) : (s.fbool f b).fieldNow = s.fieldNow := rfl

/-! `finc` -/

@[simp] theorem State.finc_pending (f : Fld) : (s.finc f).pending = s.pending := rfl
@[simp] theorem State.finc_tick (f : Fld) : (s.finc f).tick = s.tick := rfl
@[simp] theorem State.finc_fieldOff (f : Fld) : (s.finc f).fieldOff = s.fieldOff := rfl
@[simp] theorem State.finc_freshIdx (f : Fld) : (s.finc f).freshIdx = s.freshIdx := rfl
@[simp] theorem State.finc_mode (f : Fld) : (s.finc f).mode = s.mode := rfl
@[simp] theorem State.finc_boot (f : Fld) : (s.finc f).boot = s.boot := rfl
@[simp] theorem State.finc_pins (f : Fld) : (s.finc f).pins = s.pins := rfl
@[simp] theorem State.finc_sealr (f : Fld) : (s.finc f).sealr = s.sealr := rfl
@[simp] theorem State.finc_fes (f : Fld) : (s.finc f).fes = s.fes := rfl
@[simp] theorem State.finc_chans (f : Fld) : (s.finc f).chans = s.chans := rfl
@[simp] theorem State.finc_groups (f : Fld) : (s.finc f).groups = s.groups := rfl
@[simp] theorem State.finc_hub (f : Fld) : (s.finc f).hub = s.hub := rfl
@[simp] theorem State.finc_enA (f : Fld) : (s.finc f).enA = s.enA := rfl
@[simp] theorem State.finc_enB (f : Fld) : (s.finc f).enB = s.enB := rfl
@[simp] theorem State.finc_la (f : Fld) : (s.finc f).la = s.la := rfl
@[simp] theorem State.finc_lb (f : Fld) : (s.finc f).lb = s.lb := rfl
@[simp] theorem State.finc_comp (f : Fld) : (s.finc f).comp = s.comp := rfl
@[simp] theorem State.finc_taste (f : Fld) : (s.finc f).taste = s.taste := rfl
@[simp] theorem State.finc_vint (f : Fld) : (s.finc f).vint = s.vint := rfl
@[simp] theorem State.finc_hreq (f : Fld) : (s.finc f).hreq = s.hreq := rfl
@[simp] theorem State.finc_ses (f : Fld) : (s.finc f).ses = s.ses := rfl
@[simp] theorem State.finc_net (f : Fld) : (s.finc f).net = s.net := rfl
@[simp] theorem State.finc_streams (f : Fld) : (s.finc f).streams = s.streams := rfl
@[simp] theorem State.finc_tnd (f : Fld) : (s.finc f).tnd = s.tnd := rfl
@[simp] theorem State.finc_memc (f : Fld) : (s.finc f).memc = s.memc := rfl
@[simp] theorem State.finc_cask (f : Fld) : (s.finc f).cask = s.cask := rfl
@[simp] theorem State.finc_otp (f : Fld) : (s.finc f).otp = s.otp := rfl
@[simp] theorem State.finc_spi (f : Fld) : (s.finc f).spi = s.spi := rfl
@[simp] theorem State.finc_runFrom (f : Fld) : (s.finc f).runFrom = s.runFrom := rfl
@[simp] theorem State.finc_safeFrom (f : Fld) : (s.finc f).safeFrom = s.safeFrom := rfl
@[simp] theorem State.finc_chan (f : Fld) (m : Nat) : (s.finc f).chan m = s.chan m := rfl
@[simp] theorem State.finc_fe (f : Fld) (m : Nat) : (s.finc f).fe m = s.fe m := rfl
@[simp] theorem State.finc_group (f : Fld) (m : Nat) : (s.finc f).group m = s.group m := rfl
@[simp] theorem State.finc_sess (f : Fld) (m : Nat) : (s.finc f).sess m = s.sess m := rfl
@[simp] theorem State.finc_port (f : Fld) (m : Nat) : (s.finc f).port m = s.port m := rfl
@[simp] theorem State.finc_stream (f : Fld) (m : Nat) : (s.finc f).stream m = s.stream m := rfl
@[simp] theorem State.finc_now (f : Fld) : (s.finc f).now = s.now := rfl
@[simp] theorem State.finc_stamp (f : Fld) : (s.finc f).stamp = s.stamp := rfl
@[simp] theorem State.finc_fieldNow (f : Fld) : (s.finc f).fieldNow = s.fieldNow := rfl

/-! `fincSat` -/

@[simp] theorem State.fincSat_pending (f : Fld) : (s.fincSat f).pending = s.pending := rfl
@[simp] theorem State.fincSat_tick (f : Fld) : (s.fincSat f).tick = s.tick := rfl
@[simp] theorem State.fincSat_fieldOff (f : Fld) : (s.fincSat f).fieldOff = s.fieldOff := rfl
@[simp] theorem State.fincSat_freshIdx (f : Fld) : (s.fincSat f).freshIdx = s.freshIdx := rfl
@[simp] theorem State.fincSat_mode (f : Fld) : (s.fincSat f).mode = s.mode := rfl
@[simp] theorem State.fincSat_boot (f : Fld) : (s.fincSat f).boot = s.boot := rfl
@[simp] theorem State.fincSat_pins (f : Fld) : (s.fincSat f).pins = s.pins := rfl
@[simp] theorem State.fincSat_sealr (f : Fld) : (s.fincSat f).sealr = s.sealr := rfl
@[simp] theorem State.fincSat_fes (f : Fld) : (s.fincSat f).fes = s.fes := rfl
@[simp] theorem State.fincSat_chans (f : Fld) : (s.fincSat f).chans = s.chans := rfl
@[simp] theorem State.fincSat_groups (f : Fld) : (s.fincSat f).groups = s.groups := rfl
@[simp] theorem State.fincSat_hub (f : Fld) : (s.fincSat f).hub = s.hub := rfl
@[simp] theorem State.fincSat_enA (f : Fld) : (s.fincSat f).enA = s.enA := rfl
@[simp] theorem State.fincSat_enB (f : Fld) : (s.fincSat f).enB = s.enB := rfl
@[simp] theorem State.fincSat_la (f : Fld) : (s.fincSat f).la = s.la := rfl
@[simp] theorem State.fincSat_lb (f : Fld) : (s.fincSat f).lb = s.lb := rfl
@[simp] theorem State.fincSat_comp (f : Fld) : (s.fincSat f).comp = s.comp := rfl
@[simp] theorem State.fincSat_taste (f : Fld) : (s.fincSat f).taste = s.taste := rfl
@[simp] theorem State.fincSat_vint (f : Fld) : (s.fincSat f).vint = s.vint := rfl
@[simp] theorem State.fincSat_hreq (f : Fld) : (s.fincSat f).hreq = s.hreq := rfl
@[simp] theorem State.fincSat_ses (f : Fld) : (s.fincSat f).ses = s.ses := rfl
@[simp] theorem State.fincSat_net (f : Fld) : (s.fincSat f).net = s.net := rfl
@[simp] theorem State.fincSat_streams (f : Fld) : (s.fincSat f).streams = s.streams := rfl
@[simp] theorem State.fincSat_tnd (f : Fld) : (s.fincSat f).tnd = s.tnd := rfl
@[simp] theorem State.fincSat_memc (f : Fld) : (s.fincSat f).memc = s.memc := rfl
@[simp] theorem State.fincSat_cask (f : Fld) : (s.fincSat f).cask = s.cask := rfl
@[simp] theorem State.fincSat_otp (f : Fld) : (s.fincSat f).otp = s.otp := rfl
@[simp] theorem State.fincSat_spi (f : Fld) : (s.fincSat f).spi = s.spi := rfl
@[simp] theorem State.fincSat_runFrom (f : Fld) : (s.fincSat f).runFrom = s.runFrom := rfl
@[simp] theorem State.fincSat_safeFrom (f : Fld) : (s.fincSat f).safeFrom = s.safeFrom := rfl
@[simp] theorem State.fincSat_chan (f : Fld) (m : Nat) : (s.fincSat f).chan m = s.chan m := rfl
@[simp] theorem State.fincSat_fe (f : Fld) (m : Nat) : (s.fincSat f).fe m = s.fe m := rfl
@[simp] theorem State.fincSat_group (f : Fld) (m : Nat) : (s.fincSat f).group m = s.group m := rfl
@[simp] theorem State.fincSat_sess (f : Fld) (m : Nat) : (s.fincSat f).sess m = s.sess m := rfl
@[simp] theorem State.fincSat_port (f : Fld) (m : Nat) : (s.fincSat f).port m = s.port m := rfl
@[simp] theorem State.fincSat_stream (f : Fld) (m : Nat) : (s.fincSat f).stream m = s.stream m := rfl
@[simp] theorem State.fincSat_now (f : Fld) : (s.fincSat f).now = s.now := rfl
@[simp] theorem State.fincSat_stamp (f : Fld) : (s.fincSat f).stamp = s.stamp := rfl
@[simp] theorem State.fincSat_fieldNow (f : Fld) : (s.fincSat f).fieldNow = s.fieldNow := rfl

/-! `faddSat` -/

@[simp] theorem State.faddSat_pending (f : Fld) (n : Nat) : (s.faddSat f n).pending = s.pending := rfl
@[simp] theorem State.faddSat_tick (f : Fld) (n : Nat) : (s.faddSat f n).tick = s.tick := rfl
@[simp] theorem State.faddSat_fieldOff (f : Fld) (n : Nat) : (s.faddSat f n).fieldOff = s.fieldOff := rfl
@[simp] theorem State.faddSat_freshIdx (f : Fld) (n : Nat) : (s.faddSat f n).freshIdx = s.freshIdx := rfl
@[simp] theorem State.faddSat_mode (f : Fld) (n : Nat) : (s.faddSat f n).mode = s.mode := rfl
@[simp] theorem State.faddSat_boot (f : Fld) (n : Nat) : (s.faddSat f n).boot = s.boot := rfl
@[simp] theorem State.faddSat_pins (f : Fld) (n : Nat) : (s.faddSat f n).pins = s.pins := rfl
@[simp] theorem State.faddSat_sealr (f : Fld) (n : Nat) : (s.faddSat f n).sealr = s.sealr := rfl
@[simp] theorem State.faddSat_fes (f : Fld) (n : Nat) : (s.faddSat f n).fes = s.fes := rfl
@[simp] theorem State.faddSat_chans (f : Fld) (n : Nat) : (s.faddSat f n).chans = s.chans := rfl
@[simp] theorem State.faddSat_groups (f : Fld) (n : Nat) : (s.faddSat f n).groups = s.groups := rfl
@[simp] theorem State.faddSat_hub (f : Fld) (n : Nat) : (s.faddSat f n).hub = s.hub := rfl
@[simp] theorem State.faddSat_enA (f : Fld) (n : Nat) : (s.faddSat f n).enA = s.enA := rfl
@[simp] theorem State.faddSat_enB (f : Fld) (n : Nat) : (s.faddSat f n).enB = s.enB := rfl
@[simp] theorem State.faddSat_la (f : Fld) (n : Nat) : (s.faddSat f n).la = s.la := rfl
@[simp] theorem State.faddSat_lb (f : Fld) (n : Nat) : (s.faddSat f n).lb = s.lb := rfl
@[simp] theorem State.faddSat_comp (f : Fld) (n : Nat) : (s.faddSat f n).comp = s.comp := rfl
@[simp] theorem State.faddSat_taste (f : Fld) (n : Nat) : (s.faddSat f n).taste = s.taste := rfl
@[simp] theorem State.faddSat_vint (f : Fld) (n : Nat) : (s.faddSat f n).vint = s.vint := rfl
@[simp] theorem State.faddSat_hreq (f : Fld) (n : Nat) : (s.faddSat f n).hreq = s.hreq := rfl
@[simp] theorem State.faddSat_ses (f : Fld) (n : Nat) : (s.faddSat f n).ses = s.ses := rfl
@[simp] theorem State.faddSat_net (f : Fld) (n : Nat) : (s.faddSat f n).net = s.net := rfl
@[simp] theorem State.faddSat_streams (f : Fld) (n : Nat) : (s.faddSat f n).streams = s.streams := rfl
@[simp] theorem State.faddSat_tnd (f : Fld) (n : Nat) : (s.faddSat f n).tnd = s.tnd := rfl
@[simp] theorem State.faddSat_memc (f : Fld) (n : Nat) : (s.faddSat f n).memc = s.memc := rfl
@[simp] theorem State.faddSat_cask (f : Fld) (n : Nat) : (s.faddSat f n).cask = s.cask := rfl
@[simp] theorem State.faddSat_otp (f : Fld) (n : Nat) : (s.faddSat f n).otp = s.otp := rfl
@[simp] theorem State.faddSat_spi (f : Fld) (n : Nat) : (s.faddSat f n).spi = s.spi := rfl
@[simp] theorem State.faddSat_runFrom (f : Fld) (n : Nat) : (s.faddSat f n).runFrom = s.runFrom := rfl
@[simp] theorem State.faddSat_safeFrom (f : Fld) (n : Nat) : (s.faddSat f n).safeFrom = s.safeFrom := rfl
@[simp] theorem State.faddSat_chan (f : Fld) (n : Nat) (m : Nat) : (s.faddSat f n).chan m = s.chan m := rfl
@[simp] theorem State.faddSat_fe (f : Fld) (n : Nat) (m : Nat) : (s.faddSat f n).fe m = s.fe m := rfl
@[simp] theorem State.faddSat_group (f : Fld) (n : Nat) (m : Nat) : (s.faddSat f n).group m = s.group m := rfl
@[simp] theorem State.faddSat_sess (f : Fld) (n : Nat) (m : Nat) : (s.faddSat f n).sess m = s.sess m := rfl
@[simp] theorem State.faddSat_port (f : Fld) (n : Nat) (m : Nat) : (s.faddSat f n).port m = s.port m := rfl
@[simp] theorem State.faddSat_stream (f : Fld) (n : Nat) (m : Nat) : (s.faddSat f n).stream m = s.stream m := rfl
@[simp] theorem State.faddSat_now (f : Fld) (n : Nat) : (s.faddSat f n).now = s.now := rfl
@[simp] theorem State.faddSat_stamp (f : Fld) (n : Nat) : (s.faddSat f n).stamp = s.stamp := rfl
@[simp] theorem State.faddSat_fieldNow (f : Fld) (n : Nat) : (s.faddSat f n).fieldNow = s.fieldNow := rfl

/-! `fpeak` -/

@[simp] theorem State.fpeak_pending (f : Fld) (v : Nat) : (s.fpeak f v).pending = s.pending := rfl
@[simp] theorem State.fpeak_tick (f : Fld) (v : Nat) : (s.fpeak f v).tick = s.tick := rfl
@[simp] theorem State.fpeak_fieldOff (f : Fld) (v : Nat) : (s.fpeak f v).fieldOff = s.fieldOff := rfl
@[simp] theorem State.fpeak_freshIdx (f : Fld) (v : Nat) : (s.fpeak f v).freshIdx = s.freshIdx := rfl
@[simp] theorem State.fpeak_mode (f : Fld) (v : Nat) : (s.fpeak f v).mode = s.mode := rfl
@[simp] theorem State.fpeak_boot (f : Fld) (v : Nat) : (s.fpeak f v).boot = s.boot := rfl
@[simp] theorem State.fpeak_pins (f : Fld) (v : Nat) : (s.fpeak f v).pins = s.pins := rfl
@[simp] theorem State.fpeak_sealr (f : Fld) (v : Nat) : (s.fpeak f v).sealr = s.sealr := rfl
@[simp] theorem State.fpeak_fes (f : Fld) (v : Nat) : (s.fpeak f v).fes = s.fes := rfl
@[simp] theorem State.fpeak_chans (f : Fld) (v : Nat) : (s.fpeak f v).chans = s.chans := rfl
@[simp] theorem State.fpeak_groups (f : Fld) (v : Nat) : (s.fpeak f v).groups = s.groups := rfl
@[simp] theorem State.fpeak_hub (f : Fld) (v : Nat) : (s.fpeak f v).hub = s.hub := rfl
@[simp] theorem State.fpeak_enA (f : Fld) (v : Nat) : (s.fpeak f v).enA = s.enA := rfl
@[simp] theorem State.fpeak_enB (f : Fld) (v : Nat) : (s.fpeak f v).enB = s.enB := rfl
@[simp] theorem State.fpeak_la (f : Fld) (v : Nat) : (s.fpeak f v).la = s.la := rfl
@[simp] theorem State.fpeak_lb (f : Fld) (v : Nat) : (s.fpeak f v).lb = s.lb := rfl
@[simp] theorem State.fpeak_comp (f : Fld) (v : Nat) : (s.fpeak f v).comp = s.comp := rfl
@[simp] theorem State.fpeak_taste (f : Fld) (v : Nat) : (s.fpeak f v).taste = s.taste := rfl
@[simp] theorem State.fpeak_vint (f : Fld) (v : Nat) : (s.fpeak f v).vint = s.vint := rfl
@[simp] theorem State.fpeak_hreq (f : Fld) (v : Nat) : (s.fpeak f v).hreq = s.hreq := rfl
@[simp] theorem State.fpeak_ses (f : Fld) (v : Nat) : (s.fpeak f v).ses = s.ses := rfl
@[simp] theorem State.fpeak_net (f : Fld) (v : Nat) : (s.fpeak f v).net = s.net := rfl
@[simp] theorem State.fpeak_streams (f : Fld) (v : Nat) : (s.fpeak f v).streams = s.streams := rfl
@[simp] theorem State.fpeak_tnd (f : Fld) (v : Nat) : (s.fpeak f v).tnd = s.tnd := rfl
@[simp] theorem State.fpeak_memc (f : Fld) (v : Nat) : (s.fpeak f v).memc = s.memc := rfl
@[simp] theorem State.fpeak_cask (f : Fld) (v : Nat) : (s.fpeak f v).cask = s.cask := rfl
@[simp] theorem State.fpeak_otp (f : Fld) (v : Nat) : (s.fpeak f v).otp = s.otp := rfl
@[simp] theorem State.fpeak_spi (f : Fld) (v : Nat) : (s.fpeak f v).spi = s.spi := rfl
@[simp] theorem State.fpeak_runFrom (f : Fld) (v : Nat) : (s.fpeak f v).runFrom = s.runFrom := rfl
@[simp] theorem State.fpeak_safeFrom (f : Fld) (v : Nat) : (s.fpeak f v).safeFrom = s.safeFrom := rfl
@[simp] theorem State.fpeak_chan (f : Fld) (v : Nat) (m : Nat) : (s.fpeak f v).chan m = s.chan m := rfl
@[simp] theorem State.fpeak_fe (f : Fld) (v : Nat) (m : Nat) : (s.fpeak f v).fe m = s.fe m := rfl
@[simp] theorem State.fpeak_group (f : Fld) (v : Nat) (m : Nat) : (s.fpeak f v).group m = s.group m := rfl
@[simp] theorem State.fpeak_sess (f : Fld) (v : Nat) (m : Nat) : (s.fpeak f v).sess m = s.sess m := rfl
@[simp] theorem State.fpeak_port (f : Fld) (v : Nat) (m : Nat) : (s.fpeak f v).port m = s.port m := rfl
@[simp] theorem State.fpeak_stream (f : Fld) (v : Nat) (m : Nat) : (s.fpeak f v).stream m = s.stream m := rfl
@[simp] theorem State.fpeak_now (f : Fld) (v : Nat) : (s.fpeak f v).now = s.now := rfl
@[simp] theorem State.fpeak_stamp (f : Fld) (v : Nat) : (s.fpeak f v).stamp = s.stamp := rfl
@[simp] theorem State.fpeak_fieldNow (f : Fld) (v : Nat) : (s.fpeak f v).fieldNow = s.fieldNow := rfl

/-! `setChan` -/

@[simp] theorem State.setChan_pending (n : Nat) (c : Chan) : (s.setChan n c).pending = s.pending := rfl
@[simp] theorem State.setChan_tick (n : Nat) (c : Chan) : (s.setChan n c).tick = s.tick := rfl
@[simp] theorem State.setChan_fieldOff (n : Nat) (c : Chan) : (s.setChan n c).fieldOff = s.fieldOff := rfl
@[simp] theorem State.setChan_freshIdx (n : Nat) (c : Chan) : (s.setChan n c).freshIdx = s.freshIdx := rfl
@[simp] theorem State.setChan_mode (n : Nat) (c : Chan) : (s.setChan n c).mode = s.mode := rfl
@[simp] theorem State.setChan_regs (n : Nat) (c : Chan) : (s.setChan n c).regs = s.regs := rfl
@[simp] theorem State.setChan_boot (n : Nat) (c : Chan) : (s.setChan n c).boot = s.boot := rfl
@[simp] theorem State.setChan_pins (n : Nat) (c : Chan) : (s.setChan n c).pins = s.pins := rfl
@[simp] theorem State.setChan_sealr (n : Nat) (c : Chan) : (s.setChan n c).sealr = s.sealr := rfl
@[simp] theorem State.setChan_fes (n : Nat) (c : Chan) : (s.setChan n c).fes = s.fes := rfl
@[simp] theorem State.setChan_groups (n : Nat) (c : Chan) : (s.setChan n c).groups = s.groups := rfl
@[simp] theorem State.setChan_hub (n : Nat) (c : Chan) : (s.setChan n c).hub = s.hub := rfl
@[simp] theorem State.setChan_enA (n : Nat) (c : Chan) : (s.setChan n c).enA = s.enA := rfl
@[simp] theorem State.setChan_enB (n : Nat) (c : Chan) : (s.setChan n c).enB = s.enB := rfl
@[simp] theorem State.setChan_la (n : Nat) (c : Chan) : (s.setChan n c).la = s.la := rfl
@[simp] theorem State.setChan_lb (n : Nat) (c : Chan) : (s.setChan n c).lb = s.lb := rfl
@[simp] theorem State.setChan_comp (n : Nat) (c : Chan) : (s.setChan n c).comp = s.comp := rfl
@[simp] theorem State.setChan_taste (n : Nat) (c : Chan) : (s.setChan n c).taste = s.taste := rfl
@[simp] theorem State.setChan_vint (n : Nat) (c : Chan) : (s.setChan n c).vint = s.vint := rfl
@[simp] theorem State.setChan_hreq (n : Nat) (c : Chan) : (s.setChan n c).hreq = s.hreq := rfl
@[simp] theorem State.setChan_ses (n : Nat) (c : Chan) : (s.setChan n c).ses = s.ses := rfl
@[simp] theorem State.setChan_net (n : Nat) (c : Chan) : (s.setChan n c).net = s.net := rfl
@[simp] theorem State.setChan_streams (n : Nat) (c : Chan) : (s.setChan n c).streams = s.streams := rfl
@[simp] theorem State.setChan_tnd (n : Nat) (c : Chan) : (s.setChan n c).tnd = s.tnd := rfl
@[simp] theorem State.setChan_memc (n : Nat) (c : Chan) : (s.setChan n c).memc = s.memc := rfl
@[simp] theorem State.setChan_cask (n : Nat) (c : Chan) : (s.setChan n c).cask = s.cask := rfl
@[simp] theorem State.setChan_otp (n : Nat) (c : Chan) : (s.setChan n c).otp = s.otp := rfl
@[simp] theorem State.setChan_spi (n : Nat) (c : Chan) : (s.setChan n c).spi = s.spi := rfl
@[simp] theorem State.setChan_runFrom (n : Nat) (c : Chan) : (s.setChan n c).runFrom = s.runFrom := rfl
@[simp] theorem State.setChan_safeFrom (n : Nat) (c : Chan) : (s.setChan n c).safeFrom = s.safeFrom := rfl
@[simp] theorem State.setChan_rget (n : Nat) (c : Chan) (b : Nat) : (s.setChan n c).rget b = s.rget b := rfl
@[simp] theorem State.setChan_fget (n : Nat) (c : Chan) (g : Fld) : (s.setChan n c).fget g = s.fget g := rfl
@[simp] theorem State.setChan_fe (n : Nat) (c : Chan) (m : Nat) : (s.setChan n c).fe m = s.fe m := rfl
@[simp] theorem State.setChan_group (n : Nat) (c : Chan) (m : Nat) : (s.setChan n c).group m = s.group m := rfl
@[simp] theorem State.setChan_sess (n : Nat) (c : Chan) (m : Nat) : (s.setChan n c).sess m = s.sess m := rfl
@[simp] theorem State.setChan_port (n : Nat) (c : Chan) (m : Nat) : (s.setChan n c).port m = s.port m := rfl
@[simp] theorem State.setChan_stream (n : Nat) (c : Chan) (m : Nat) : (s.setChan n c).stream m = s.stream m := rfl
@[simp] theorem State.setChan_now (n : Nat) (c : Chan) : (s.setChan n c).now = s.now := rfl
@[simp] theorem State.setChan_stamp (n : Nat) (c : Chan) : (s.setChan n c).stamp = s.stamp := rfl
@[simp] theorem State.setChan_fieldNow (n : Nat) (c : Chan) : (s.setChan n c).fieldNow = s.fieldNow := rfl

/-! `setFe` -/

@[simp] theorem State.setFe_pending (n : Nat) (f : Fe) : (s.setFe n f).pending = s.pending := rfl
@[simp] theorem State.setFe_tick (n : Nat) (f : Fe) : (s.setFe n f).tick = s.tick := rfl
@[simp] theorem State.setFe_fieldOff (n : Nat) (f : Fe) : (s.setFe n f).fieldOff = s.fieldOff := rfl
@[simp] theorem State.setFe_freshIdx (n : Nat) (f : Fe) : (s.setFe n f).freshIdx = s.freshIdx := rfl
@[simp] theorem State.setFe_mode (n : Nat) (f : Fe) : (s.setFe n f).mode = s.mode := rfl
@[simp] theorem State.setFe_regs (n : Nat) (f : Fe) : (s.setFe n f).regs = s.regs := rfl
@[simp] theorem State.setFe_boot (n : Nat) (f : Fe) : (s.setFe n f).boot = s.boot := rfl
@[simp] theorem State.setFe_pins (n : Nat) (f : Fe) : (s.setFe n f).pins = s.pins := rfl
@[simp] theorem State.setFe_sealr (n : Nat) (f : Fe) : (s.setFe n f).sealr = s.sealr := rfl
@[simp] theorem State.setFe_chans (n : Nat) (f : Fe) : (s.setFe n f).chans = s.chans := rfl
@[simp] theorem State.setFe_groups (n : Nat) (f : Fe) : (s.setFe n f).groups = s.groups := rfl
@[simp] theorem State.setFe_hub (n : Nat) (f : Fe) : (s.setFe n f).hub = s.hub := rfl
@[simp] theorem State.setFe_enA (n : Nat) (f : Fe) : (s.setFe n f).enA = s.enA := rfl
@[simp] theorem State.setFe_enB (n : Nat) (f : Fe) : (s.setFe n f).enB = s.enB := rfl
@[simp] theorem State.setFe_la (n : Nat) (f : Fe) : (s.setFe n f).la = s.la := rfl
@[simp] theorem State.setFe_lb (n : Nat) (f : Fe) : (s.setFe n f).lb = s.lb := rfl
@[simp] theorem State.setFe_comp (n : Nat) (f : Fe) : (s.setFe n f).comp = s.comp := rfl
@[simp] theorem State.setFe_taste (n : Nat) (f : Fe) : (s.setFe n f).taste = s.taste := rfl
@[simp] theorem State.setFe_vint (n : Nat) (f : Fe) : (s.setFe n f).vint = s.vint := rfl
@[simp] theorem State.setFe_hreq (n : Nat) (f : Fe) : (s.setFe n f).hreq = s.hreq := rfl
@[simp] theorem State.setFe_ses (n : Nat) (f : Fe) : (s.setFe n f).ses = s.ses := rfl
@[simp] theorem State.setFe_net (n : Nat) (f : Fe) : (s.setFe n f).net = s.net := rfl
@[simp] theorem State.setFe_streams (n : Nat) (f : Fe) : (s.setFe n f).streams = s.streams := rfl
@[simp] theorem State.setFe_tnd (n : Nat) (f : Fe) : (s.setFe n f).tnd = s.tnd := rfl
@[simp] theorem State.setFe_memc (n : Nat) (f : Fe) : (s.setFe n f).memc = s.memc := rfl
@[simp] theorem State.setFe_cask (n : Nat) (f : Fe) : (s.setFe n f).cask = s.cask := rfl
@[simp] theorem State.setFe_otp (n : Nat) (f : Fe) : (s.setFe n f).otp = s.otp := rfl
@[simp] theorem State.setFe_spi (n : Nat) (f : Fe) : (s.setFe n f).spi = s.spi := rfl
@[simp] theorem State.setFe_runFrom (n : Nat) (f : Fe) : (s.setFe n f).runFrom = s.runFrom := rfl
@[simp] theorem State.setFe_safeFrom (n : Nat) (f : Fe) : (s.setFe n f).safeFrom = s.safeFrom := rfl
@[simp] theorem State.setFe_rget (n : Nat) (f : Fe) (b : Nat) : (s.setFe n f).rget b = s.rget b := rfl
@[simp] theorem State.setFe_fget (n : Nat) (f : Fe) (g : Fld) : (s.setFe n f).fget g = s.fget g := rfl
@[simp] theorem State.setFe_chan (n : Nat) (f : Fe) (m : Nat) : (s.setFe n f).chan m = s.chan m := rfl
@[simp] theorem State.setFe_group (n : Nat) (f : Fe) (m : Nat) : (s.setFe n f).group m = s.group m := rfl
@[simp] theorem State.setFe_sess (n : Nat) (f : Fe) (m : Nat) : (s.setFe n f).sess m = s.sess m := rfl
@[simp] theorem State.setFe_port (n : Nat) (f : Fe) (m : Nat) : (s.setFe n f).port m = s.port m := rfl
@[simp] theorem State.setFe_stream (n : Nat) (f : Fe) (m : Nat) : (s.setFe n f).stream m = s.stream m := rfl
@[simp] theorem State.setFe_now (n : Nat) (f : Fe) : (s.setFe n f).now = s.now := rfl
@[simp] theorem State.setFe_stamp (n : Nat) (f : Fe) : (s.setFe n f).stamp = s.stamp := rfl
@[simp] theorem State.setFe_fieldNow (n : Nat) (f : Fe) : (s.setFe n f).fieldNow = s.fieldNow := rfl

/-! `setGroup` -/

@[simp] theorem State.setGroup_pending (k : Nat) (x : Group) : (s.setGroup k x).pending = s.pending := rfl
@[simp] theorem State.setGroup_tick (k : Nat) (x : Group) : (s.setGroup k x).tick = s.tick := rfl
@[simp] theorem State.setGroup_fieldOff (k : Nat) (x : Group) : (s.setGroup k x).fieldOff = s.fieldOff := rfl
@[simp] theorem State.setGroup_freshIdx (k : Nat) (x : Group) : (s.setGroup k x).freshIdx = s.freshIdx := rfl
@[simp] theorem State.setGroup_mode (k : Nat) (x : Group) : (s.setGroup k x).mode = s.mode := rfl
@[simp] theorem State.setGroup_regs (k : Nat) (x : Group) : (s.setGroup k x).regs = s.regs := rfl
@[simp] theorem State.setGroup_boot (k : Nat) (x : Group) : (s.setGroup k x).boot = s.boot := rfl
@[simp] theorem State.setGroup_pins (k : Nat) (x : Group) : (s.setGroup k x).pins = s.pins := rfl
@[simp] theorem State.setGroup_sealr (k : Nat) (x : Group) : (s.setGroup k x).sealr = s.sealr := rfl
@[simp] theorem State.setGroup_fes (k : Nat) (x : Group) : (s.setGroup k x).fes = s.fes := rfl
@[simp] theorem State.setGroup_chans (k : Nat) (x : Group) : (s.setGroup k x).chans = s.chans := rfl
@[simp] theorem State.setGroup_hub (k : Nat) (x : Group) : (s.setGroup k x).hub = s.hub := rfl
@[simp] theorem State.setGroup_enA (k : Nat) (x : Group) : (s.setGroup k x).enA = s.enA := rfl
@[simp] theorem State.setGroup_enB (k : Nat) (x : Group) : (s.setGroup k x).enB = s.enB := rfl
@[simp] theorem State.setGroup_la (k : Nat) (x : Group) : (s.setGroup k x).la = s.la := rfl
@[simp] theorem State.setGroup_lb (k : Nat) (x : Group) : (s.setGroup k x).lb = s.lb := rfl
@[simp] theorem State.setGroup_comp (k : Nat) (x : Group) : (s.setGroup k x).comp = s.comp := rfl
@[simp] theorem State.setGroup_taste (k : Nat) (x : Group) : (s.setGroup k x).taste = s.taste := rfl
@[simp] theorem State.setGroup_vint (k : Nat) (x : Group) : (s.setGroup k x).vint = s.vint := rfl
@[simp] theorem State.setGroup_hreq (k : Nat) (x : Group) : (s.setGroup k x).hreq = s.hreq := rfl
@[simp] theorem State.setGroup_ses (k : Nat) (x : Group) : (s.setGroup k x).ses = s.ses := rfl
@[simp] theorem State.setGroup_net (k : Nat) (x : Group) : (s.setGroup k x).net = s.net := rfl
@[simp] theorem State.setGroup_streams (k : Nat) (x : Group) : (s.setGroup k x).streams = s.streams := rfl
@[simp] theorem State.setGroup_tnd (k : Nat) (x : Group) : (s.setGroup k x).tnd = s.tnd := rfl
@[simp] theorem State.setGroup_memc (k : Nat) (x : Group) : (s.setGroup k x).memc = s.memc := rfl
@[simp] theorem State.setGroup_cask (k : Nat) (x : Group) : (s.setGroup k x).cask = s.cask := rfl
@[simp] theorem State.setGroup_otp (k : Nat) (x : Group) : (s.setGroup k x).otp = s.otp := rfl
@[simp] theorem State.setGroup_spi (k : Nat) (x : Group) : (s.setGroup k x).spi = s.spi := rfl
@[simp] theorem State.setGroup_runFrom (k : Nat) (x : Group) : (s.setGroup k x).runFrom = s.runFrom := rfl
@[simp] theorem State.setGroup_safeFrom (k : Nat) (x : Group) : (s.setGroup k x).safeFrom = s.safeFrom := rfl
@[simp] theorem State.setGroup_rget (k : Nat) (x : Group) (b : Nat) : (s.setGroup k x).rget b = s.rget b := rfl
@[simp] theorem State.setGroup_fget (k : Nat) (x : Group) (g : Fld) : (s.setGroup k x).fget g = s.fget g := rfl
@[simp] theorem State.setGroup_chan (k : Nat) (x : Group) (m : Nat) : (s.setGroup k x).chan m = s.chan m := rfl
@[simp] theorem State.setGroup_fe (k : Nat) (x : Group) (m : Nat) : (s.setGroup k x).fe m = s.fe m := rfl
@[simp] theorem State.setGroup_sess (k : Nat) (x : Group) (m : Nat) : (s.setGroup k x).sess m = s.sess m := rfl
@[simp] theorem State.setGroup_port (k : Nat) (x : Group) (m : Nat) : (s.setGroup k x).port m = s.port m := rfl
@[simp] theorem State.setGroup_stream (k : Nat) (x : Group) (m : Nat) : (s.setGroup k x).stream m = s.stream m := rfl
@[simp] theorem State.setGroup_now (k : Nat) (x : Group) : (s.setGroup k x).now = s.now := rfl
@[simp] theorem State.setGroup_stamp (k : Nat) (x : Group) : (s.setGroup k x).stamp = s.stamp := rfl
@[simp] theorem State.setGroup_fieldNow (k : Nat) (x : Group) : (s.setGroup k x).fieldNow = s.fieldNow := rfl

/-! `setSess` -/

@[simp] theorem State.setSess_pending (i : Nat) (x : Ses) : (s.setSess i x).pending = s.pending := rfl
@[simp] theorem State.setSess_tick (i : Nat) (x : Ses) : (s.setSess i x).tick = s.tick := rfl
@[simp] theorem State.setSess_fieldOff (i : Nat) (x : Ses) : (s.setSess i x).fieldOff = s.fieldOff := rfl
@[simp] theorem State.setSess_freshIdx (i : Nat) (x : Ses) : (s.setSess i x).freshIdx = s.freshIdx := rfl
@[simp] theorem State.setSess_mode (i : Nat) (x : Ses) : (s.setSess i x).mode = s.mode := rfl
@[simp] theorem State.setSess_regs (i : Nat) (x : Ses) : (s.setSess i x).regs = s.regs := rfl
@[simp] theorem State.setSess_boot (i : Nat) (x : Ses) : (s.setSess i x).boot = s.boot := rfl
@[simp] theorem State.setSess_pins (i : Nat) (x : Ses) : (s.setSess i x).pins = s.pins := rfl
@[simp] theorem State.setSess_sealr (i : Nat) (x : Ses) : (s.setSess i x).sealr = s.sealr := rfl
@[simp] theorem State.setSess_fes (i : Nat) (x : Ses) : (s.setSess i x).fes = s.fes := rfl
@[simp] theorem State.setSess_chans (i : Nat) (x : Ses) : (s.setSess i x).chans = s.chans := rfl
@[simp] theorem State.setSess_groups (i : Nat) (x : Ses) : (s.setSess i x).groups = s.groups := rfl
@[simp] theorem State.setSess_hub (i : Nat) (x : Ses) : (s.setSess i x).hub = s.hub := rfl
@[simp] theorem State.setSess_enA (i : Nat) (x : Ses) : (s.setSess i x).enA = s.enA := rfl
@[simp] theorem State.setSess_enB (i : Nat) (x : Ses) : (s.setSess i x).enB = s.enB := rfl
@[simp] theorem State.setSess_la (i : Nat) (x : Ses) : (s.setSess i x).la = s.la := rfl
@[simp] theorem State.setSess_lb (i : Nat) (x : Ses) : (s.setSess i x).lb = s.lb := rfl
@[simp] theorem State.setSess_comp (i : Nat) (x : Ses) : (s.setSess i x).comp = s.comp := rfl
@[simp] theorem State.setSess_taste (i : Nat) (x : Ses) : (s.setSess i x).taste = s.taste := rfl
@[simp] theorem State.setSess_vint (i : Nat) (x : Ses) : (s.setSess i x).vint = s.vint := rfl
@[simp] theorem State.setSess_hreq (i : Nat) (x : Ses) : (s.setSess i x).hreq = s.hreq := rfl
@[simp] theorem State.setSess_net (i : Nat) (x : Ses) : (s.setSess i x).net = s.net := rfl
@[simp] theorem State.setSess_streams (i : Nat) (x : Ses) : (s.setSess i x).streams = s.streams := rfl
@[simp] theorem State.setSess_tnd (i : Nat) (x : Ses) : (s.setSess i x).tnd = s.tnd := rfl
@[simp] theorem State.setSess_memc (i : Nat) (x : Ses) : (s.setSess i x).memc = s.memc := rfl
@[simp] theorem State.setSess_cask (i : Nat) (x : Ses) : (s.setSess i x).cask = s.cask := rfl
@[simp] theorem State.setSess_otp (i : Nat) (x : Ses) : (s.setSess i x).otp = s.otp := rfl
@[simp] theorem State.setSess_spi (i : Nat) (x : Ses) : (s.setSess i x).spi = s.spi := rfl
@[simp] theorem State.setSess_runFrom (i : Nat) (x : Ses) : (s.setSess i x).runFrom = s.runFrom := rfl
@[simp] theorem State.setSess_safeFrom (i : Nat) (x : Ses) : (s.setSess i x).safeFrom = s.safeFrom := rfl
@[simp] theorem State.setSess_rget (i : Nat) (x : Ses) (b : Nat) : (s.setSess i x).rget b = s.rget b := rfl
@[simp] theorem State.setSess_fget (i : Nat) (x : Ses) (g : Fld) : (s.setSess i x).fget g = s.fget g := rfl
@[simp] theorem State.setSess_chan (i : Nat) (x : Ses) (m : Nat) : (s.setSess i x).chan m = s.chan m := rfl
@[simp] theorem State.setSess_fe (i : Nat) (x : Ses) (m : Nat) : (s.setSess i x).fe m = s.fe m := rfl
@[simp] theorem State.setSess_group (i : Nat) (x : Ses) (m : Nat) : (s.setSess i x).group m = s.group m := rfl
@[simp] theorem State.setSess_port (i : Nat) (x : Ses) (m : Nat) : (s.setSess i x).port m = s.port m := rfl
@[simp] theorem State.setSess_stream (i : Nat) (x : Ses) (m : Nat) : (s.setSess i x).stream m = s.stream m := rfl
@[simp] theorem State.setSess_now (i : Nat) (x : Ses) : (s.setSess i x).now = s.now := rfl
@[simp] theorem State.setSess_stamp (i : Nat) (x : Ses) : (s.setSess i x).stamp = s.stamp := rfl
@[simp] theorem State.setSess_fieldNow (i : Nat) (x : Ses) : (s.setSess i x).fieldNow = s.fieldNow := rfl

/-! `halves` -/

@[simp] theorem State.halves_pending (i : Nat) (f : SesHalf → SesHalf) : (s.halves i f).pending = s.pending := rfl
@[simp] theorem State.halves_tick (i : Nat) (f : SesHalf → SesHalf) : (s.halves i f).tick = s.tick := rfl
@[simp] theorem State.halves_fieldOff (i : Nat) (f : SesHalf → SesHalf) : (s.halves i f).fieldOff = s.fieldOff := rfl
@[simp] theorem State.halves_freshIdx (i : Nat) (f : SesHalf → SesHalf) : (s.halves i f).freshIdx = s.freshIdx := rfl
@[simp] theorem State.halves_mode (i : Nat) (f : SesHalf → SesHalf) : (s.halves i f).mode = s.mode := rfl
@[simp] theorem State.halves_regs (i : Nat) (f : SesHalf → SesHalf) : (s.halves i f).regs = s.regs := rfl
@[simp] theorem State.halves_boot (i : Nat) (f : SesHalf → SesHalf) : (s.halves i f).boot = s.boot := rfl
@[simp] theorem State.halves_pins (i : Nat) (f : SesHalf → SesHalf) : (s.halves i f).pins = s.pins := rfl
@[simp] theorem State.halves_sealr (i : Nat) (f : SesHalf → SesHalf) : (s.halves i f).sealr = s.sealr := rfl
@[simp] theorem State.halves_fes (i : Nat) (f : SesHalf → SesHalf) : (s.halves i f).fes = s.fes := rfl
@[simp] theorem State.halves_chans (i : Nat) (f : SesHalf → SesHalf) : (s.halves i f).chans = s.chans := rfl
@[simp] theorem State.halves_groups (i : Nat) (f : SesHalf → SesHalf) : (s.halves i f).groups = s.groups := rfl
@[simp] theorem State.halves_hub (i : Nat) (f : SesHalf → SesHalf) : (s.halves i f).hub = s.hub := rfl
@[simp] theorem State.halves_enA (i : Nat) (f : SesHalf → SesHalf) : (s.halves i f).enA = s.enA := rfl
@[simp] theorem State.halves_enB (i : Nat) (f : SesHalf → SesHalf) : (s.halves i f).enB = s.enB := rfl
@[simp] theorem State.halves_la (i : Nat) (f : SesHalf → SesHalf) : (s.halves i f).la = s.la := rfl
@[simp] theorem State.halves_lb (i : Nat) (f : SesHalf → SesHalf) : (s.halves i f).lb = s.lb := rfl
@[simp] theorem State.halves_comp (i : Nat) (f : SesHalf → SesHalf) : (s.halves i f).comp = s.comp := rfl
@[simp] theorem State.halves_taste (i : Nat) (f : SesHalf → SesHalf) : (s.halves i f).taste = s.taste := rfl
@[simp] theorem State.halves_vint (i : Nat) (f : SesHalf → SesHalf) : (s.halves i f).vint = s.vint := rfl
@[simp] theorem State.halves_hreq (i : Nat) (f : SesHalf → SesHalf) : (s.halves i f).hreq = s.hreq := rfl
@[simp] theorem State.halves_net (i : Nat) (f : SesHalf → SesHalf) : (s.halves i f).net = s.net := rfl
@[simp] theorem State.halves_streams (i : Nat) (f : SesHalf → SesHalf) : (s.halves i f).streams = s.streams := rfl
@[simp] theorem State.halves_tnd (i : Nat) (f : SesHalf → SesHalf) : (s.halves i f).tnd = s.tnd := rfl
@[simp] theorem State.halves_memc (i : Nat) (f : SesHalf → SesHalf) : (s.halves i f).memc = s.memc := rfl
@[simp] theorem State.halves_cask (i : Nat) (f : SesHalf → SesHalf) : (s.halves i f).cask = s.cask := rfl
@[simp] theorem State.halves_otp (i : Nat) (f : SesHalf → SesHalf) : (s.halves i f).otp = s.otp := rfl
@[simp] theorem State.halves_spi (i : Nat) (f : SesHalf → SesHalf) : (s.halves i f).spi = s.spi := rfl
@[simp] theorem State.halves_runFrom (i : Nat) (f : SesHalf → SesHalf) : (s.halves i f).runFrom = s.runFrom := rfl
@[simp] theorem State.halves_safeFrom (i : Nat) (f : SesHalf → SesHalf) : (s.halves i f).safeFrom = s.safeFrom := rfl
@[simp] theorem State.halves_rget (i : Nat) (f : SesHalf → SesHalf) (b : Nat) : (s.halves i f).rget b = s.rget b := rfl
@[simp] theorem State.halves_fget (i : Nat) (f : SesHalf → SesHalf) (g : Fld) : (s.halves i f).fget g = s.fget g := rfl
@[simp] theorem State.halves_chan (i : Nat) (f : SesHalf → SesHalf) (m : Nat) : (s.halves i f).chan m = s.chan m := rfl
@[simp] theorem State.halves_fe (i : Nat) (f : SesHalf → SesHalf) (m : Nat) : (s.halves i f).fe m = s.fe m := rfl
@[simp] theorem State.halves_group (i : Nat) (f : SesHalf → SesHalf) (m : Nat) : (s.halves i f).group m = s.group m := rfl
@[simp] theorem State.halves_port (i : Nat) (f : SesHalf → SesHalf) (m : Nat) : (s.halves i f).port m = s.port m := rfl
@[simp] theorem State.halves_stream (i : Nat) (f : SesHalf → SesHalf) (m : Nat) : (s.halves i f).stream m = s.stream m := rfl
@[simp] theorem State.halves_now (i : Nat) (f : SesHalf → SesHalf) : (s.halves i f).now = s.now := rfl
@[simp] theorem State.halves_stamp (i : Nat) (f : SesHalf → SesHalf) : (s.halves i f).stamp = s.stamp := rfl
@[simp] theorem State.halves_fieldNow (i : Nat) (f : SesHalf → SesHalf) : (s.halves i f).fieldNow = s.fieldNow := rfl

/-! `setPort` -/

@[simp] theorem State.setPort_pending (p : Nat) (x : Port) : (s.setPort p x).pending = s.pending := rfl
@[simp] theorem State.setPort_tick (p : Nat) (x : Port) : (s.setPort p x).tick = s.tick := rfl
@[simp] theorem State.setPort_fieldOff (p : Nat) (x : Port) : (s.setPort p x).fieldOff = s.fieldOff := rfl
@[simp] theorem State.setPort_freshIdx (p : Nat) (x : Port) : (s.setPort p x).freshIdx = s.freshIdx := rfl
@[simp] theorem State.setPort_mode (p : Nat) (x : Port) : (s.setPort p x).mode = s.mode := rfl
@[simp] theorem State.setPort_regs (p : Nat) (x : Port) : (s.setPort p x).regs = s.regs := rfl
@[simp] theorem State.setPort_boot (p : Nat) (x : Port) : (s.setPort p x).boot = s.boot := rfl
@[simp] theorem State.setPort_pins (p : Nat) (x : Port) : (s.setPort p x).pins = s.pins := rfl
@[simp] theorem State.setPort_sealr (p : Nat) (x : Port) : (s.setPort p x).sealr = s.sealr := rfl
@[simp] theorem State.setPort_fes (p : Nat) (x : Port) : (s.setPort p x).fes = s.fes := rfl
@[simp] theorem State.setPort_chans (p : Nat) (x : Port) : (s.setPort p x).chans = s.chans := rfl
@[simp] theorem State.setPort_groups (p : Nat) (x : Port) : (s.setPort p x).groups = s.groups := rfl
@[simp] theorem State.setPort_hub (p : Nat) (x : Port) : (s.setPort p x).hub = s.hub := rfl
@[simp] theorem State.setPort_enA (p : Nat) (x : Port) : (s.setPort p x).enA = s.enA := rfl
@[simp] theorem State.setPort_enB (p : Nat) (x : Port) : (s.setPort p x).enB = s.enB := rfl
@[simp] theorem State.setPort_la (p : Nat) (x : Port) : (s.setPort p x).la = s.la := rfl
@[simp] theorem State.setPort_lb (p : Nat) (x : Port) : (s.setPort p x).lb = s.lb := rfl
@[simp] theorem State.setPort_comp (p : Nat) (x : Port) : (s.setPort p x).comp = s.comp := rfl
@[simp] theorem State.setPort_taste (p : Nat) (x : Port) : (s.setPort p x).taste = s.taste := rfl
@[simp] theorem State.setPort_vint (p : Nat) (x : Port) : (s.setPort p x).vint = s.vint := rfl
@[simp] theorem State.setPort_hreq (p : Nat) (x : Port) : (s.setPort p x).hreq = s.hreq := rfl
@[simp] theorem State.setPort_ses (p : Nat) (x : Port) : (s.setPort p x).ses = s.ses := rfl
@[simp] theorem State.setPort_streams (p : Nat) (x : Port) : (s.setPort p x).streams = s.streams := rfl
@[simp] theorem State.setPort_tnd (p : Nat) (x : Port) : (s.setPort p x).tnd = s.tnd := rfl
@[simp] theorem State.setPort_memc (p : Nat) (x : Port) : (s.setPort p x).memc = s.memc := rfl
@[simp] theorem State.setPort_cask (p : Nat) (x : Port) : (s.setPort p x).cask = s.cask := rfl
@[simp] theorem State.setPort_otp (p : Nat) (x : Port) : (s.setPort p x).otp = s.otp := rfl
@[simp] theorem State.setPort_spi (p : Nat) (x : Port) : (s.setPort p x).spi = s.spi := rfl
@[simp] theorem State.setPort_runFrom (p : Nat) (x : Port) : (s.setPort p x).runFrom = s.runFrom := rfl
@[simp] theorem State.setPort_safeFrom (p : Nat) (x : Port) : (s.setPort p x).safeFrom = s.safeFrom := rfl
@[simp] theorem State.setPort_rget (p : Nat) (x : Port) (b : Nat) : (s.setPort p x).rget b = s.rget b := rfl
@[simp] theorem State.setPort_fget (p : Nat) (x : Port) (g : Fld) : (s.setPort p x).fget g = s.fget g := rfl
@[simp] theorem State.setPort_chan (p : Nat) (x : Port) (m : Nat) : (s.setPort p x).chan m = s.chan m := rfl
@[simp] theorem State.setPort_fe (p : Nat) (x : Port) (m : Nat) : (s.setPort p x).fe m = s.fe m := rfl
@[simp] theorem State.setPort_group (p : Nat) (x : Port) (m : Nat) : (s.setPort p x).group m = s.group m := rfl
@[simp] theorem State.setPort_sess (p : Nat) (x : Port) (m : Nat) : (s.setPort p x).sess m = s.sess m := rfl
@[simp] theorem State.setPort_stream (p : Nat) (x : Port) (m : Nat) : (s.setPort p x).stream m = s.stream m := rfl
@[simp] theorem State.setPort_now (p : Nat) (x : Port) : (s.setPort p x).now = s.now := rfl
@[simp] theorem State.setPort_stamp (p : Nat) (x : Port) : (s.setPort p x).stamp = s.stamp := rfl
@[simp] theorem State.setPort_fieldNow (p : Nat) (x : Port) : (s.setPort p x).fieldNow = s.fieldNow := rfl

/-! `setStream` -/

@[simp] theorem State.setStream_pending (e : Nat) (x : Stream) : (s.setStream e x).pending = s.pending := rfl
@[simp] theorem State.setStream_tick (e : Nat) (x : Stream) : (s.setStream e x).tick = s.tick := rfl
@[simp] theorem State.setStream_fieldOff (e : Nat) (x : Stream) : (s.setStream e x).fieldOff = s.fieldOff := rfl
@[simp] theorem State.setStream_freshIdx (e : Nat) (x : Stream) : (s.setStream e x).freshIdx = s.freshIdx := rfl
@[simp] theorem State.setStream_mode (e : Nat) (x : Stream) : (s.setStream e x).mode = s.mode := rfl
@[simp] theorem State.setStream_regs (e : Nat) (x : Stream) : (s.setStream e x).regs = s.regs := rfl
@[simp] theorem State.setStream_boot (e : Nat) (x : Stream) : (s.setStream e x).boot = s.boot := rfl
@[simp] theorem State.setStream_pins (e : Nat) (x : Stream) : (s.setStream e x).pins = s.pins := rfl
@[simp] theorem State.setStream_sealr (e : Nat) (x : Stream) : (s.setStream e x).sealr = s.sealr := rfl
@[simp] theorem State.setStream_fes (e : Nat) (x : Stream) : (s.setStream e x).fes = s.fes := rfl
@[simp] theorem State.setStream_chans (e : Nat) (x : Stream) : (s.setStream e x).chans = s.chans := rfl
@[simp] theorem State.setStream_groups (e : Nat) (x : Stream) : (s.setStream e x).groups = s.groups := rfl
@[simp] theorem State.setStream_hub (e : Nat) (x : Stream) : (s.setStream e x).hub = s.hub := rfl
@[simp] theorem State.setStream_enA (e : Nat) (x : Stream) : (s.setStream e x).enA = s.enA := rfl
@[simp] theorem State.setStream_enB (e : Nat) (x : Stream) : (s.setStream e x).enB = s.enB := rfl
@[simp] theorem State.setStream_la (e : Nat) (x : Stream) : (s.setStream e x).la = s.la := rfl
@[simp] theorem State.setStream_lb (e : Nat) (x : Stream) : (s.setStream e x).lb = s.lb := rfl
@[simp] theorem State.setStream_comp (e : Nat) (x : Stream) : (s.setStream e x).comp = s.comp := rfl
@[simp] theorem State.setStream_taste (e : Nat) (x : Stream) : (s.setStream e x).taste = s.taste := rfl
@[simp] theorem State.setStream_vint (e : Nat) (x : Stream) : (s.setStream e x).vint = s.vint := rfl
@[simp] theorem State.setStream_hreq (e : Nat) (x : Stream) : (s.setStream e x).hreq = s.hreq := rfl
@[simp] theorem State.setStream_ses (e : Nat) (x : Stream) : (s.setStream e x).ses = s.ses := rfl
@[simp] theorem State.setStream_net (e : Nat) (x : Stream) : (s.setStream e x).net = s.net := rfl
@[simp] theorem State.setStream_tnd (e : Nat) (x : Stream) : (s.setStream e x).tnd = s.tnd := rfl
@[simp] theorem State.setStream_memc (e : Nat) (x : Stream) : (s.setStream e x).memc = s.memc := rfl
@[simp] theorem State.setStream_cask (e : Nat) (x : Stream) : (s.setStream e x).cask = s.cask := rfl
@[simp] theorem State.setStream_otp (e : Nat) (x : Stream) : (s.setStream e x).otp = s.otp := rfl
@[simp] theorem State.setStream_spi (e : Nat) (x : Stream) : (s.setStream e x).spi = s.spi := rfl
@[simp] theorem State.setStream_runFrom (e : Nat) (x : Stream) : (s.setStream e x).runFrom = s.runFrom := rfl
@[simp] theorem State.setStream_safeFrom (e : Nat) (x : Stream) : (s.setStream e x).safeFrom = s.safeFrom := rfl
@[simp] theorem State.setStream_rget (e : Nat) (x : Stream) (b : Nat) : (s.setStream e x).rget b = s.rget b := rfl
@[simp] theorem State.setStream_fget (e : Nat) (x : Stream) (g : Fld) : (s.setStream e x).fget g = s.fget g := rfl
@[simp] theorem State.setStream_chan (e : Nat) (x : Stream) (m : Nat) : (s.setStream e x).chan m = s.chan m := rfl
@[simp] theorem State.setStream_fe (e : Nat) (x : Stream) (m : Nat) : (s.setStream e x).fe m = s.fe m := rfl
@[simp] theorem State.setStream_group (e : Nat) (x : Stream) (m : Nat) : (s.setStream e x).group m = s.group m := rfl
@[simp] theorem State.setStream_sess (e : Nat) (x : Stream) (m : Nat) : (s.setStream e x).sess m = s.sess m := rfl
@[simp] theorem State.setStream_port (e : Nat) (x : Stream) (m : Nat) : (s.setStream e x).port m = s.port m := rfl
@[simp] theorem State.setStream_now (e : Nat) (x : Stream) : (s.setStream e x).now = s.now := rfl
@[simp] theorem State.setStream_stamp (e : Nat) (x : Stream) : (s.setStream e x).stamp = s.stamp := rfl
@[simp] theorem State.setStream_fieldNow (e : Nat) (x : Stream) : (s.setStream e x).fieldNow = s.fieldNow := rfl

/-! `setTnd` -/

@[simp] theorem State.setTnd_pending (t : Tandem) : (s.setTnd t).pending = s.pending := rfl
@[simp] theorem State.setTnd_tick (t : Tandem) : (s.setTnd t).tick = s.tick := rfl
@[simp] theorem State.setTnd_fieldOff (t : Tandem) : (s.setTnd t).fieldOff = s.fieldOff := rfl
@[simp] theorem State.setTnd_freshIdx (t : Tandem) : (s.setTnd t).freshIdx = s.freshIdx := rfl
@[simp] theorem State.setTnd_mode (t : Tandem) : (s.setTnd t).mode = s.mode := rfl
@[simp] theorem State.setTnd_regs (t : Tandem) : (s.setTnd t).regs = s.regs := rfl
@[simp] theorem State.setTnd_boot (t : Tandem) : (s.setTnd t).boot = s.boot := rfl
@[simp] theorem State.setTnd_pins (t : Tandem) : (s.setTnd t).pins = s.pins := rfl
@[simp] theorem State.setTnd_sealr (t : Tandem) : (s.setTnd t).sealr = s.sealr := rfl
@[simp] theorem State.setTnd_fes (t : Tandem) : (s.setTnd t).fes = s.fes := rfl
@[simp] theorem State.setTnd_chans (t : Tandem) : (s.setTnd t).chans = s.chans := rfl
@[simp] theorem State.setTnd_groups (t : Tandem) : (s.setTnd t).groups = s.groups := rfl
@[simp] theorem State.setTnd_hub (t : Tandem) : (s.setTnd t).hub = s.hub := rfl
@[simp] theorem State.setTnd_enA (t : Tandem) : (s.setTnd t).enA = s.enA := rfl
@[simp] theorem State.setTnd_enB (t : Tandem) : (s.setTnd t).enB = s.enB := rfl
@[simp] theorem State.setTnd_la (t : Tandem) : (s.setTnd t).la = s.la := rfl
@[simp] theorem State.setTnd_lb (t : Tandem) : (s.setTnd t).lb = s.lb := rfl
@[simp] theorem State.setTnd_comp (t : Tandem) : (s.setTnd t).comp = s.comp := rfl
@[simp] theorem State.setTnd_taste (t : Tandem) : (s.setTnd t).taste = s.taste := rfl
@[simp] theorem State.setTnd_vint (t : Tandem) : (s.setTnd t).vint = s.vint := rfl
@[simp] theorem State.setTnd_hreq (t : Tandem) : (s.setTnd t).hreq = s.hreq := rfl
@[simp] theorem State.setTnd_ses (t : Tandem) : (s.setTnd t).ses = s.ses := rfl
@[simp] theorem State.setTnd_net (t : Tandem) : (s.setTnd t).net = s.net := rfl
@[simp] theorem State.setTnd_streams (t : Tandem) : (s.setTnd t).streams = s.streams := rfl
@[simp] theorem State.setTnd_memc (t : Tandem) : (s.setTnd t).memc = s.memc := rfl
@[simp] theorem State.setTnd_cask (t : Tandem) : (s.setTnd t).cask = s.cask := rfl
@[simp] theorem State.setTnd_otp (t : Tandem) : (s.setTnd t).otp = s.otp := rfl
@[simp] theorem State.setTnd_spi (t : Tandem) : (s.setTnd t).spi = s.spi := rfl
@[simp] theorem State.setTnd_runFrom (t : Tandem) : (s.setTnd t).runFrom = s.runFrom := rfl
@[simp] theorem State.setTnd_safeFrom (t : Tandem) : (s.setTnd t).safeFrom = s.safeFrom := rfl
@[simp] theorem State.setTnd_rget (t : Tandem) (b : Nat) : (s.setTnd t).rget b = s.rget b := rfl
@[simp] theorem State.setTnd_fget (t : Tandem) (g : Fld) : (s.setTnd t).fget g = s.fget g := rfl
@[simp] theorem State.setTnd_chan (t : Tandem) (m : Nat) : (s.setTnd t).chan m = s.chan m := rfl
@[simp] theorem State.setTnd_fe (t : Tandem) (m : Nat) : (s.setTnd t).fe m = s.fe m := rfl
@[simp] theorem State.setTnd_group (t : Tandem) (m : Nat) : (s.setTnd t).group m = s.group m := rfl
@[simp] theorem State.setTnd_sess (t : Tandem) (m : Nat) : (s.setTnd t).sess m = s.sess m := rfl
@[simp] theorem State.setTnd_port (t : Tandem) (m : Nat) : (s.setTnd t).port m = s.port m := rfl
@[simp] theorem State.setTnd_stream (t : Tandem) (m : Nat) : (s.setTnd t).stream m = s.stream m := rfl
@[simp] theorem State.setTnd_now (t : Tandem) : (s.setTnd t).now = s.now := rfl
@[simp] theorem State.setTnd_stamp (t : Tandem) : (s.setTnd t).stamp = s.stamp := rfl
@[simp] theorem State.setTnd_fieldNow (t : Tandem) : (s.setTnd t).fieldNow = s.fieldNow := rfl

/-! `setSpi` -/

@[simp] theorem State.setSpi_pending (x : Spi) : (s.setSpi x).pending = s.pending := rfl
@[simp] theorem State.setSpi_tick (x : Spi) : (s.setSpi x).tick = s.tick := rfl
@[simp] theorem State.setSpi_fieldOff (x : Spi) : (s.setSpi x).fieldOff = s.fieldOff := rfl
@[simp] theorem State.setSpi_freshIdx (x : Spi) : (s.setSpi x).freshIdx = s.freshIdx := rfl
@[simp] theorem State.setSpi_mode (x : Spi) : (s.setSpi x).mode = s.mode := rfl
@[simp] theorem State.setSpi_regs (x : Spi) : (s.setSpi x).regs = s.regs := rfl
@[simp] theorem State.setSpi_boot (x : Spi) : (s.setSpi x).boot = s.boot := rfl
@[simp] theorem State.setSpi_pins (x : Spi) : (s.setSpi x).pins = s.pins := rfl
@[simp] theorem State.setSpi_sealr (x : Spi) : (s.setSpi x).sealr = s.sealr := rfl
@[simp] theorem State.setSpi_fes (x : Spi) : (s.setSpi x).fes = s.fes := rfl
@[simp] theorem State.setSpi_chans (x : Spi) : (s.setSpi x).chans = s.chans := rfl
@[simp] theorem State.setSpi_groups (x : Spi) : (s.setSpi x).groups = s.groups := rfl
@[simp] theorem State.setSpi_hub (x : Spi) : (s.setSpi x).hub = s.hub := rfl
@[simp] theorem State.setSpi_enA (x : Spi) : (s.setSpi x).enA = s.enA := rfl
@[simp] theorem State.setSpi_enB (x : Spi) : (s.setSpi x).enB = s.enB := rfl
@[simp] theorem State.setSpi_la (x : Spi) : (s.setSpi x).la = s.la := rfl
@[simp] theorem State.setSpi_lb (x : Spi) : (s.setSpi x).lb = s.lb := rfl
@[simp] theorem State.setSpi_comp (x : Spi) : (s.setSpi x).comp = s.comp := rfl
@[simp] theorem State.setSpi_taste (x : Spi) : (s.setSpi x).taste = s.taste := rfl
@[simp] theorem State.setSpi_vint (x : Spi) : (s.setSpi x).vint = s.vint := rfl
@[simp] theorem State.setSpi_hreq (x : Spi) : (s.setSpi x).hreq = s.hreq := rfl
@[simp] theorem State.setSpi_ses (x : Spi) : (s.setSpi x).ses = s.ses := rfl
@[simp] theorem State.setSpi_net (x : Spi) : (s.setSpi x).net = s.net := rfl
@[simp] theorem State.setSpi_streams (x : Spi) : (s.setSpi x).streams = s.streams := rfl
@[simp] theorem State.setSpi_tnd (x : Spi) : (s.setSpi x).tnd = s.tnd := rfl
@[simp] theorem State.setSpi_memc (x : Spi) : (s.setSpi x).memc = s.memc := rfl
@[simp] theorem State.setSpi_cask (x : Spi) : (s.setSpi x).cask = s.cask := rfl
@[simp] theorem State.setSpi_otp (x : Spi) : (s.setSpi x).otp = s.otp := rfl
@[simp] theorem State.setSpi_runFrom (x : Spi) : (s.setSpi x).runFrom = s.runFrom := rfl
@[simp] theorem State.setSpi_safeFrom (x : Spi) : (s.setSpi x).safeFrom = s.safeFrom := rfl
@[simp] theorem State.setSpi_rget (x : Spi) (b : Nat) : (s.setSpi x).rget b = s.rget b := rfl
@[simp] theorem State.setSpi_fget (x : Spi) (g : Fld) : (s.setSpi x).fget g = s.fget g := rfl
@[simp] theorem State.setSpi_chan (x : Spi) (m : Nat) : (s.setSpi x).chan m = s.chan m := rfl
@[simp] theorem State.setSpi_fe (x : Spi) (m : Nat) : (s.setSpi x).fe m = s.fe m := rfl
@[simp] theorem State.setSpi_group (x : Spi) (m : Nat) : (s.setSpi x).group m = s.group m := rfl
@[simp] theorem State.setSpi_sess (x : Spi) (m : Nat) : (s.setSpi x).sess m = s.sess m := rfl
@[simp] theorem State.setSpi_port (x : Spi) (m : Nat) : (s.setSpi x).port m = s.port m := rfl
@[simp] theorem State.setSpi_stream (x : Spi) (m : Nat) : (s.setSpi x).stream m = s.stream m := rfl
@[simp] theorem State.setSpi_now (x : Spi) : (s.setSpi x).now = s.now := rfl
@[simp] theorem State.setSpi_stamp (x : Spi) : (s.setSpi x).stamp = s.stamp := rfl
@[simp] theorem State.setSpi_fieldNow (x : Spi) : (s.setSpi x).fieldNow = s.fieldNow := rfl

/-! `setLane` -/

@[simp] theorem State.setLane_pending (l : Lane) (x : LaneSt) : (s.setLane l x).pending = s.pending := by cases l <;> rfl
@[simp] theorem State.setLane_tick (l : Lane) (x : LaneSt) : (s.setLane l x).tick = s.tick := by cases l <;> rfl
@[simp] theorem State.setLane_fieldOff (l : Lane) (x : LaneSt) : (s.setLane l x).fieldOff = s.fieldOff := by cases l <;> rfl
@[simp] theorem State.setLane_freshIdx (l : Lane) (x : LaneSt) : (s.setLane l x).freshIdx = s.freshIdx := by cases l <;> rfl
@[simp] theorem State.setLane_mode (l : Lane) (x : LaneSt) : (s.setLane l x).mode = s.mode := by cases l <;> rfl
@[simp] theorem State.setLane_regs (l : Lane) (x : LaneSt) : (s.setLane l x).regs = s.regs := by cases l <;> rfl
@[simp] theorem State.setLane_boot (l : Lane) (x : LaneSt) : (s.setLane l x).boot = s.boot := by cases l <;> rfl
@[simp] theorem State.setLane_pins (l : Lane) (x : LaneSt) : (s.setLane l x).pins = s.pins := by cases l <;> rfl
@[simp] theorem State.setLane_sealr (l : Lane) (x : LaneSt) : (s.setLane l x).sealr = s.sealr := by cases l <;> rfl
@[simp] theorem State.setLane_fes (l : Lane) (x : LaneSt) : (s.setLane l x).fes = s.fes := by cases l <;> rfl
@[simp] theorem State.setLane_chans (l : Lane) (x : LaneSt) : (s.setLane l x).chans = s.chans := by cases l <;> rfl
@[simp] theorem State.setLane_groups (l : Lane) (x : LaneSt) : (s.setLane l x).groups = s.groups := by cases l <;> rfl
@[simp] theorem State.setLane_hub (l : Lane) (x : LaneSt) : (s.setLane l x).hub = s.hub := by cases l <;> rfl
@[simp] theorem State.setLane_enA (l : Lane) (x : LaneSt) : (s.setLane l x).enA = s.enA := by cases l <;> rfl
@[simp] theorem State.setLane_enB (l : Lane) (x : LaneSt) : (s.setLane l x).enB = s.enB := by cases l <;> rfl
@[simp] theorem State.setLane_comp (l : Lane) (x : LaneSt) : (s.setLane l x).comp = s.comp := by cases l <;> rfl
@[simp] theorem State.setLane_taste (l : Lane) (x : LaneSt) : (s.setLane l x).taste = s.taste := by cases l <;> rfl
@[simp] theorem State.setLane_vint (l : Lane) (x : LaneSt) : (s.setLane l x).vint = s.vint := by cases l <;> rfl
@[simp] theorem State.setLane_hreq (l : Lane) (x : LaneSt) : (s.setLane l x).hreq = s.hreq := by cases l <;> rfl
@[simp] theorem State.setLane_ses (l : Lane) (x : LaneSt) : (s.setLane l x).ses = s.ses := by cases l <;> rfl
@[simp] theorem State.setLane_net (l : Lane) (x : LaneSt) : (s.setLane l x).net = s.net := by cases l <;> rfl
@[simp] theorem State.setLane_streams (l : Lane) (x : LaneSt) : (s.setLane l x).streams = s.streams := by cases l <;> rfl
@[simp] theorem State.setLane_tnd (l : Lane) (x : LaneSt) : (s.setLane l x).tnd = s.tnd := by cases l <;> rfl
@[simp] theorem State.setLane_memc (l : Lane) (x : LaneSt) : (s.setLane l x).memc = s.memc := by cases l <;> rfl
@[simp] theorem State.setLane_cask (l : Lane) (x : LaneSt) : (s.setLane l x).cask = s.cask := by cases l <;> rfl
@[simp] theorem State.setLane_otp (l : Lane) (x : LaneSt) : (s.setLane l x).otp = s.otp := by cases l <;> rfl
@[simp] theorem State.setLane_spi (l : Lane) (x : LaneSt) : (s.setLane l x).spi = s.spi := by cases l <;> rfl
@[simp] theorem State.setLane_runFrom (l : Lane) (x : LaneSt) : (s.setLane l x).runFrom = s.runFrom := by cases l <;> rfl
@[simp] theorem State.setLane_safeFrom (l : Lane) (x : LaneSt) : (s.setLane l x).safeFrom = s.safeFrom := by cases l <;> rfl
@[simp] theorem State.setLane_lane_same (l : Lane) (x : LaneSt) : (s.setLane l x).lane l = x := by cases l <;> rfl
theorem State.setLane_lane_ne {l k : Lane} (x : LaneSt) (h : k ≠ l) : (s.setLane l x).lane k = s.lane k := by
  cases l <;> cases k <;> first | rfl | exact absurd rfl h

/-! `setRam` -/

@[simp] theorem State.setRam_pending (m : Nat) (r : Ram) : (s.setRam m r).pending = s.pending := rfl
@[simp] theorem State.setRam_tick (m : Nat) (r : Ram) : (s.setRam m r).tick = s.tick := rfl
@[simp] theorem State.setRam_fieldOff (m : Nat) (r : Ram) : (s.setRam m r).fieldOff = s.fieldOff := rfl
@[simp] theorem State.setRam_freshIdx (m : Nat) (r : Ram) : (s.setRam m r).freshIdx = s.freshIdx := rfl
@[simp] theorem State.setRam_mode (m : Nat) (r : Ram) : (s.setRam m r).mode = s.mode := rfl
@[simp] theorem State.setRam_regs (m : Nat) (r : Ram) : (s.setRam m r).regs = s.regs := rfl
@[simp] theorem State.setRam_boot (m : Nat) (r : Ram) : (s.setRam m r).boot = s.boot := rfl
@[simp] theorem State.setRam_pins (m : Nat) (r : Ram) : (s.setRam m r).pins = s.pins := rfl
@[simp] theorem State.setRam_sealr (m : Nat) (r : Ram) : (s.setRam m r).sealr = s.sealr := rfl
@[simp] theorem State.setRam_fes (m : Nat) (r : Ram) : (s.setRam m r).fes = s.fes := rfl
@[simp] theorem State.setRam_chans (m : Nat) (r : Ram) : (s.setRam m r).chans = s.chans := rfl
@[simp] theorem State.setRam_groups (m : Nat) (r : Ram) : (s.setRam m r).groups = s.groups := rfl
@[simp] theorem State.setRam_hub (m : Nat) (r : Ram) : (s.setRam m r).hub = s.hub := rfl
@[simp] theorem State.setRam_enA (m : Nat) (r : Ram) : (s.setRam m r).enA = s.enA := rfl
@[simp] theorem State.setRam_enB (m : Nat) (r : Ram) : (s.setRam m r).enB = s.enB := rfl
@[simp] theorem State.setRam_la (m : Nat) (r : Ram) : (s.setRam m r).la = s.la := rfl
@[simp] theorem State.setRam_lb (m : Nat) (r : Ram) : (s.setRam m r).lb = s.lb := rfl
@[simp] theorem State.setRam_comp (m : Nat) (r : Ram) : (s.setRam m r).comp = s.comp := rfl
@[simp] theorem State.setRam_taste (m : Nat) (r : Ram) : (s.setRam m r).taste = s.taste := rfl
@[simp] theorem State.setRam_vint (m : Nat) (r : Ram) : (s.setRam m r).vint = s.vint := rfl
@[simp] theorem State.setRam_hreq (m : Nat) (r : Ram) : (s.setRam m r).hreq = s.hreq := rfl
@[simp] theorem State.setRam_ses (m : Nat) (r : Ram) : (s.setRam m r).ses = s.ses := rfl
@[simp] theorem State.setRam_net (m : Nat) (r : Ram) : (s.setRam m r).net = s.net := rfl
@[simp] theorem State.setRam_streams (m : Nat) (r : Ram) : (s.setRam m r).streams = s.streams := rfl
@[simp] theorem State.setRam_tnd (m : Nat) (r : Ram) : (s.setRam m r).tnd = s.tnd := rfl
@[simp] theorem State.setRam_cask (m : Nat) (r : Ram) : (s.setRam m r).cask = s.cask := rfl
@[simp] theorem State.setRam_otp (m : Nat) (r : Ram) : (s.setRam m r).otp = s.otp := rfl
@[simp] theorem State.setRam_spi (m : Nat) (r : Ram) : (s.setRam m r).spi = s.spi := rfl
@[simp] theorem State.setRam_runFrom (m : Nat) (r : Ram) : (s.setRam m r).runFrom = s.runFrom := rfl
@[simp] theorem State.setRam_safeFrom (m : Nat) (r : Ram) : (s.setRam m r).safeFrom = s.safeFrom := rfl
@[simp] theorem State.setRam_log (m : Nat) (r : Ram) : (s.setRam m r).memc.log = s.memc.log := by
  simp only [State.setRam]; repeat' split
  all_goals rfl

/-! ### What an update sets -/

@[simp] theorem State.rput_rget_same (a : Nat) (w : Word) : (s.rput a w).rget a = w := by
  simp [State.rget, State.rput]

theorem State.rput_rget_ne {a b : Nat} (w : Word) (h : b ≠ a) : (s.rput a w).rget b = s.rget b := by
  simp [State.rget, State.rput, Tab.get_set_ne _ _ _ h]

theorem State.fput_rget_ne {f : Fld} {b : Nat} (v : Nat) (h : b ≠ f.addr) : (s.fput f v).rget b = s.rget b :=
  State.rput_rget_ne s _ h

theorem State.fbool_rget_ne {f : Fld} {a : Nat} (b : Bool) (h : a ≠ f.addr) : (s.fbool f b).rget a = s.rget a :=
  State.rput_rget_ne s _ h

theorem State.finc_rget_ne {f : Fld} {b : Nat} (h : b ≠ f.addr) : (s.finc f).rget b = s.rget b :=
  State.rput_rget_ne s _ h

theorem State.fincSat_rget_ne {f : Fld} {b : Nat} (h : b ≠ f.addr) : (s.fincSat f).rget b = s.rget b :=
  State.rput_rget_ne s _ h

theorem State.fpeak_rget_ne {f : Fld} {b : Nat} (v : Nat) (h : b ≠ f.addr) : (s.fpeak f v).rget b = s.rget b :=
  State.rput_rget_ne s _ h

/-- A field reads as it was put, cut to its width. -/
theorem State.fput_fget_same {f : Fld} (h : fldOk f) (v : Nat) : (s.fput f v).fget f = v % 2 ^ (f.hi + 1 - f.lo) := by
  simp [State.fget, State.fput, fldVal_fldIns_same h]

theorem State.fput_fget_ne {f g : Fld} (v : Nat) (h : g.addr ≠ f.addr) : (s.fput f v).fget g = s.fget g := by
  simp [State.fget, State.fput_rget_ne s v h]

/-- A field of the same register that shares no bit with it reads as before. -/
theorem State.fput_fget_other {f g : Fld} (v : Nat) (ha : g.addr = f.addr)
    (h : g.hi < f.lo ∨ (f.hi < g.lo ∧ f.lo ≤ f.hi)) : (s.fput f v).fget g = s.fget g := by
  simp [State.fget, State.fput, ha, fldVal_fldIns_other h]

theorem State.rput_fget_ne {a : Nat} {g : Fld} (w : Word) (h : g.addr ≠ a) : (s.rput a w).fget g = s.fget g := by
  simp [State.fget, State.rput_rget_ne s w h]

@[simp] theorem State.rput_fget_same (g : Fld) (w : Word) : (s.rput g.addr w).fget g = fldVal g w := by
  simp [State.fget]

@[simp] theorem State.setChan_chan_same (n : Nat) (c : Chan) : (s.setChan n c).chan n = c := by
  simp [State.chan, State.setChan]

theorem State.setChan_chan_ne {n m : Nat} (c : Chan) (h : m ≠ n) : (s.setChan n c).chan m = s.chan m := by
  simp [State.chan, State.setChan, Tab.get_set_ne _ _ _ h]

@[simp] theorem State.setFe_fe_same (n : Nat) (f : Fe) : (s.setFe n f).fe n = f := by simp [State.fe, State.setFe]

theorem State.setFe_fe_ne {n m : Nat} (f : Fe) (h : m ≠ n) : (s.setFe n f).fe m = s.fe m := by
  simp [State.fe, State.setFe, Tab.get_set_ne _ _ _ h]

@[simp] theorem State.setGroup_group_same (g : Nat) (x : Group) : (s.setGroup g x).group g = x := by
  simp [State.group, State.setGroup]

theorem State.setGroup_group_ne {g m : Nat} (x : Group) (h : m ≠ g) : (s.setGroup g x).group m = s.group m := by
  simp [State.group, State.setGroup, Tab.get_set_ne _ _ _ h]

@[simp] theorem State.setSess_sess_same (i : Nat) (x : Ses) : (s.setSess i x).sess i = x := by
  simp [State.sess, State.setSess]

theorem State.setSess_sess_ne {i m : Nat} (x : Ses) (h : m ≠ i) : (s.setSess i x).sess m = s.sess m := by
  simp [State.sess, State.setSess, Tab.get_set_ne _ _ _ h]

@[simp] theorem State.halves_sess_same (i : Nat) (f : SesHalf → SesHalf) :
    (s.halves i f).sess i = { s.sess i with ha := f (s.sess i).ha, hb := (f (s.sess i).hb.restore).cpl } :=
  State.setSess_sess_same s i _

theorem State.halves_sess_ne {i m : Nat} (f : SesHalf → SesHalf) (h : m ≠ i) : (s.halves i f).sess m = s.sess m :=
  State.setSess_sess_ne s _ h

@[simp] theorem State.setPort_port_same (p : Nat) (x : Port) : (s.setPort p x).port p = x := by
  simp [State.port, State.setPort]

theorem State.setPort_port_ne {p m : Nat} (x : Port) (h : m ≠ p) : (s.setPort p x).port m = s.port m := by
  simp [State.port, State.setPort, Tab.get_set_ne _ _ _ h]

@[simp] theorem State.setStream_stream_same (e : Nat) (x : Stream) : (s.setStream e x).stream e = x := by
  simp [State.stream, State.setStream]

theorem State.setStream_stream_ne {e m : Nat} (x : Stream) (h : m ≠ e) : (s.setStream e x).stream m = s.stream m := by
  simp [State.stream, State.setStream, Tab.get_set_ne _ _ _ h]

/-- The register table stays in rising order. -/
theorem State.rput_rising {s : State} (a : Nat) (w : Word) (h : risingKeys s.regs.entries = true) :
    risingKeys (s.rput a w).regs.entries = true := Tab.set_rising a w h

end Sys2Proof.Machine
end

