-- ==== Sys2Proof/Laws/Ops.lean ====
section
/-! SUPPORT. What the shared operations can do, each said once: the fields that may change, and what the others keep. A
`shape` lemma answers any question about a field: `(post s e).fes = s.fes` is `by rw [post_shape]`. -/

namespace Sys2Proof.Machine

/-! ### Events (R402) -/

/-- A lost event changes registers alone. -/
theorem loseEvent_shape (s : State) : loseEvent s = { s with regs := (loseEvent s).regs } := rfl

theorem loseEvent_rget (s : State) {a : Nat} (h : a ∉ eventRegs) : (loseEvent s).rget a = s.rget a := by
  simp only [eventRegs, List.mem_cons, List.not_mem_nil, or_false, not_or] at h
  unfold loseEvent
  rw [State.fput_rget_ne _ _ h.2, State.fincSat_rget_ne _ h.1]

/-- Posting an event changes the two registers of the queue, and the queue by at most one entry at its end. -/
theorem post_shape (s : State) (e : Ev) :
    post s e = { s with regs := (post s e).regs, cask := { s.cask with queue := (post s e).cask.queue } } := by
  unfold post; split
  · rfl
  · split <;> rfl

theorem post_rget (s : State) (e : Ev) {a : Nat} (h : a ∉ eventRegs) : (post s e).rget a = s.rget a := by
  unfold post; split
  · exact loseEvent_rget s h
  · split
    · exact loseEvent_rget s h
    · simp only [eventRegs, List.mem_cons, List.not_mem_nil, or_false, not_or] at h
      rw [State.fpeak_rget_ne _ _ h.1, State.fput_rget_ne _ _ h.1]
      rfl

/-- The queue of events keeps to its 64 entries. -/
theorem post_queue (s : State) (e : Ev) :
    (post s e).cask.queue = s.cask.queue
      ∨ ((post s e).cask.queue = s.cask.queue ++ [e] ∧ s.cask.queue.length < 64 ∧ s.fget F.CSK_STAT_pfw = 0) := by
  unfold post; split
  · exact .inl rfl
  · next h =>
    split
    · exact .inl rfl
    · next h2 => exact .inr ⟨rfl, by omega, by simpa [State.flag] using h⟩

theorem post_queue_bounded (s : State) (e : Ev) (h : s.cask.queue.length ≤ 64) : (post s e).cask.queue.length ≤ 64 := by
  rcases post_queue s e with h' | ⟨h', hl, -⟩
  · rw [h']; exact h
  · rw [h']; simp only [List.length_append, List.length_singleton]; omega

theorem report_shape (s : State) (line : Nat) (items : List Nat) :
    report s line items = { s with regs := (report s line items).regs
                                   cask := { s.cask with queue := (report s line items).cask.queue } } :=
  post_shape s _

theorem report_rget (s : State) (line : Nat) (items : List Nat) {a : Nat} (h : a ∉ eventRegs) :
    (report s line items).rget a = s.rget a := post_rget s _ h

theorem postCode_shape (s : State) (line code : Nat) (items : List Nat) :
    postCode s line code items = { s with regs := (postCode s line code items).regs
                                          cask := { s.cask with queue := (postCode s line code items).cask.queue } } :=
  post_shape s _

theorem postCode_rget (s : State) (line code : Nat) (items : List Nat) {a : Nat} (h : a ∉ eventRegs) :
    (postCode s line code items).rget a = s.rget a := post_rget s _ h

/-- The register table stays in rising order through a posted event. -/
theorem post_rising (s : State) (e : Ev) (h : risingKeys s.regs.entries = true) :
    risingKeys (post s e).regs.entries = true := by
  unfold post; split
  · exact State.rput_rising _ _ (State.rput_rising _ _ h)
  · split
    · exact State.rput_rising _ _ (State.rput_rising _ _ h)
    · exact State.rput_rising _ _ (State.rput_rising _ _ h)

/-! ### States of the module -/

theorem toMode_shape (s : State) (m : Mode) : toMode s m = { s with mode := m, regs := (toMode s m).regs } := rfl

theorem toMode_rget (s : State) (m : Mode) {a : Nat} (h : a ≠ R.SYS_EV) : (toMode s m).rget a = s.rget a := by
  unfold toMode
  rw [State.fput_rget_ne _ _ h]
  rfl

theorem leaveStartup_shape (s : State) (m : Mode) :
    leaveStartup s m = { s with mode := m, regs := (leaveStartup s m).regs, boot := { s.boot with phase := .none }
                                chans := (leaveStartup s m).chans } := rfl

/-- Discarding dark tests touches the channels' books and CHN_ODET (R247). -/
theorem discardTests_shape (s : State) (l : List Nat) (t : Nat) :
    discardTests s l t = { s with regs := (discardTests s l t).regs, chans := (discardTests s l t).chans } := by
  unfold discardTests
  induction l generalizing s with
  | nil => rfl
  | cons n r ih =>
    simp only [List.foldl_cons]
    split
    · exact ih s
    · rw [ih]; rfl

/-- Clearing configuration words changes registers alone. -/
theorem clearCfg_shape (s : State) (l : List Nat) (p : State → Nat → Bool) :
    l.foldl (fun s n => if p s n then s else s.rput (R.CHN_CFG n) 0) s
      = { s with regs := (l.foldl (fun s n => if p s n then s else s.rput (R.CHN_CFG n) 0) s).regs } := by
  induction l generalizing s with
  | nil => rfl
  | cons n r ih =>
    simp only [List.foldl_cons]
    split
    · exact ih s
    · rw [ih]; rfl

/-- Going to measurement only touches front ends and registers (R44). -/
theorem measureOnly_shape (s : State) (k : Bool) :
    measureOnly s k = { s with regs := (measureOnly s k).regs
                               fes := s.fes.map (fun f => if k && f.isStd then f else measureFe f) } := by
  unfold measureOnly
  have h := clearCfg_shape { s with fes := s.fes.map (fun f => if k && f.isStd then f else measureFe f) } allChans
    (fun s n => decide (s.rget (R.CHN_CFG n) = 0 ∨ (k ∧ s.fget (F.CHN_CFG_mode n) = 5)))
  simp only [decide_eq_true_eq] at h
  exact h

/-- The front ends after going to measurement only (R44, R256). -/
theorem measureOnly_fe (s : State) (k : Bool) (n : Nat) :
    (measureOnly s k).fe n = if k && (s.fe n).isStd then s.fe n else measureFe (s.fe n) := by
  rw [measureOnly_shape]
  have h := Tab.get_map s.fes (fun f => if k && f.isStd then f else measureFe f) Fe.reset n
  have hr : (if k && Fe.reset.isStd then Fe.reset else measureFe Fe.reset) = Fe.reset := by cases k <;> decide
  rw [hr] at h
  exact h

theorem enterHeld_shape (s : State) :
    enterHeld s = { s with mode := .held, regs := (enterHeld s).regs, boot := { s.boot with phase := .none }
                           chans := (leaveStartup s .held).chans
                           fes := s.fes.map measureFe, safeFrom := s.now } := by
  unfold enterHeld pmbx
  dsimp only
  rw [measureOnly_shape, leaveStartup_shape]
  rfl

theorem recordCause_shape (s : State) (cause : Nat) (inrun : Bool) :
    recordCause s cause inrun = { s with regs := (recordCause s cause inrun).regs } := rfl

theorem recordCause_rget (s : State) (cause : Nat) (inrun : Bool) {a : Nat}
    (h : a ≠ R.SYS_FAULT ∧ a ≠ R.SYS_FTS ∧ a ≠ R.SYS_EV) : (recordCause s cause inrun).rget a = s.rget a := by
  unfold recordCause
  rw [State.fput_rget_ne _ _ h.2.2, State.rput_rget_ne _ _ h.2.1, State.rput_rget_ne _ _ h.1]

theorem journalCause_shape (s : State) (cause : Nat) :
    journalCause s cause = { s with regs := (journalCause s cause).regs
                                    cask := { s.cask with queue := (journalCause s cause).cask.queue } } :=
  report_shape s 0 _

/-! ### Sessions -/

theorem sessFault_shape (s : State) (i code : Nat) (st : Nat) :
    sessFault s i code st = { s with regs := (sessFault s i code st).regs, ses := (sessFault s i code st).ses
                                     cask := { s.cask with queue := (sessFault s i code st).cask.queue }
                                     pins := { s.pins with faultN := false } } := by
  unfold sessFault
  dsimp only
  rw [report_shape]
  rfl

/-- A session fault touches its own session alone. -/
theorem sessFault_sess_ne (s : State) {i j : Nat} (code : Nat) (st : Nat) (h : j ≠ i) :
    (sessFault s i code st).sess j = s.sess j := by
  unfold sessFault
  dsimp only
  rw [report_shape]
  exact State.setSess_sess_ne s _ h

/-- The consumers of a step into SAFE change sessions, their registers, the event queue and FAULT_N. -/
theorem sessionsSafe_shape (s : State) :
    sessionsSafe s = { s with regs := (sessionsSafe s).regs, ses := (sessionsSafe s).ses
                              cask := { s.cask with queue := (sessionsSafe s).cask.queue }
                              pins := { s.pins with faultN := (sessionsSafe s).pins.faultN } } := by
  unfold sessionsSafe
  generalize allSessions = l
  induction l generalizing s with
  | nil => rfl
  | cons i r ih =>
    simp only [List.foldl_cons]
    split
    · rw [ih, sessFault_shape]
      rfl
    · exact ih s

/-- FAULT_N does not go high. -/
theorem sessionsSafe_faultN (s : State) (h : s.pins.faultN = false) : (sessionsSafe s).pins.faultN = false := by
  unfold sessionsSafe
  generalize allSessions = l
  induction l generalizing s with
  | nil => exact h
  | cons i r ih =>
    simp only [List.foldl_cons]
    split
    · refine ih _ ?_
      rw [sessFault_shape]
    · exact ih s h

/-! ### Device faults (R222 to R228) -/

/-- Entry to SAFE: what it sets, and the fields that may change. -/
theorem enterSafe_shape (s : State) :
    enterSafe s = { s with mode := .safe, regs := (enterSafe s).regs, ses := (enterSafe s).ses, safeFrom := s.now
                           fes := s.fes.map (fun f => if f.isStd then f else measureFe f)
                           chans := (enterSafe s).chans
                           enA := { s.enA with line := true }, enB := { s.enB with line := true }
                           cask := { s.cask with queue := (enterSafe s).cask.queue }
                           pins := { s.pins with faultN := false, syncOut := false } } := by
  unfold enterSafe
  dsimp only
  rw [sessionsSafe_shape, sessionsSafe_faultN _ rfl]
  generalize sessionsSafe _ = z
  rw [measureOnly_shape, discardTests_shape]
  simp [toMode, State.now]

/-- A device fault keeps the fuses, the memories, the pair, the switch and the microtick count. -/
theorem deviceFault_keeps (s : State) (cause : Nat) :
    (deviceFault s cause).otp = s.otp ∧ (deviceFault s cause).memc = s.memc
      ∧ (deviceFault s cause).tnd = s.tnd ∧ (deviceFault s cause).net = s.net ∧ (deviceFault s cause).tick = s.tick
      ∧ (deviceFault s cause).pending = s.pending
      ∧ (deviceFault s cause).hub = s.hub ∧ (deviceFault s cause).comp = s.comp
      ∧ (deviceFault s cause).cask.bytes = s.cask.bytes ∧ (deviceFault s cause).la.cfg = s.la.cfg
      ∧ (deviceFault s cause).lb.cfg = s.lb.cfg ∧ (deviceFault s cause).freshIdx = s.freshIdx := by
  unfold deviceFault
  have hj := journalCause_shape s cause
  generalize journalCause s cause = j at hj
  rw [hj]
  have hn : ∀ u c, noteCmp u c = { u with regs := (noteCmp u c).regs } := fun u c => by unfold noteCmp; split <;> rfl
  cases s.mode <;> simp only
  · simp
  · rw [enterHeld_shape, recordCause_shape]; simp
  · split
    · rw [recordCause_shape]; simp
    · simp
  · rw [enterSafe_shape, recordCause_shape]; simp
  · rw [enterSafe_shape, recordCause_shape, hn]; simp
  · split
    · simp
    · split
      · rw [recordCause_shape, hn]; simp
      · rw [hn]; simp
  · split
    · simp
    · rw [recordCause_shape]; simp

/-- The state of the module after a device fault (R222 to R228). -/
theorem deviceFault_mode (s : State) (cause : Nat) :
    (deviceFault s cause).mode = (match s.mode with
      | .startup => .held | .run => .safe | .idle => .safe | m => m) := by
  unfold deviceFault
  have hj : (journalCause s cause).mode = s.mode := by rw [journalCause_shape]
  generalize journalCause s cause = j at hj
  have hr : ∀ u c b, (recordCause u c b).mode = u.mode := fun u c b => by rw [recordCause_shape]
  have hs : ∀ u, (enterSafe u).mode = .safe := fun u => by rw [enterSafe_shape]
  have hh : ∀ u, (enterHeld u).mode = .held := fun u => by rw [enterHeld_shape]
  have hn : ∀ u c, (noteCmp u c).mode = u.mode := fun u c => by unfold noteCmp; split <;> rfl
  cases hm : s.mode <;> simp only [hs, hh] <;> (try exact hm) <;> split <;> (try split) <;> simp only [hr, hn, hm] at hj ⊢ <;>
    exact hj

/-! ### Channel faults -/

theorem markFault_shape (s : State) (f : Fld) (n : Nat) : markFault s f n = { s with regs := (markFault s f n).regs } := by
  unfold markFault; split <;> rfl

theorem invalidate_shape (s : State) (n idx : Nat) :
    invalidate s n idx = { s with regs := (invalidate s n idx).regs, chans := (invalidate s n idx).chans } := rfl

theorem addCause_shape (s : State) (n : Nat) (k : ChCause) (idx : Nat) :
    addCause s n k idx = { s with chans := (addCause s n k idx).chans, pins := { s.pins with faultN := false } } := rfl

theorem recordOut_shape (s : State) (n code : Nat) :
    recordOut s n code = { s with regs := (recordOut s n code).regs, chans := (recordOut s n code).chans } := by
  unfold recordOut
  simp only
  split <;> (try split) <;> (try split) <;> rfl

/-- A channel fault changes registers, its channel's book and FAULT_N. -/
theorem chanFault_shape (s : State) (n : Nat) (k : ChCause) (idx : Nat) :
    chanFault s n k idx = { s with regs := (chanFault s n k idx).regs, chans := (chanFault s n k idx).chans
                                   pins := { s.pins with faultN := false } } := by
  unfold chanFault
  cases k <;> simp only <;> rw [invalidate_shape, addCause_shape] <;>
    first
    | rfl
    | (rw [recordOut_shape, markFault_shape])
    | (rw [markFault_shape])

theorem chansFault_shape (s : State) (l : List Nat) (k : ChCause) (idx : Nat) :
    chansFault s l k idx = { s with regs := (chansFault s l k idx).regs, chans := (chansFault s l k idx).chans
                                    pins := (chansFault s l k idx).pins } := by
  unfold chansFault
  induction l generalizing s with
  | nil => rfl
  | cons n r ih =>
    simp only [List.foldl_cons]
    rw [ih, chanFault_shape]

/-- A channel fault leaves every other channel's book alone. -/
theorem chanFault_chan_ne (s : State) {n m : Nat} (k : ChCause) (idx : Nat) (h : m ≠ n) :
    (chanFault s n k idx).chan m = s.chan m := by
  have hr : ∀ u : State, ∀ code, (recordOut u n code).chan m = u.chan m := by
    intro u code
    unfold recordOut
    simp only
    split <;> (try split) <;> (try split) <;>
      first
      | rfl
      | (rw [State.setChan_chan_ne _ _ h]; rfl)
  have ha : ∀ u : State, (invalidate (addCause u n k idx) n idx).chan m = u.chan m := by
    intro u
    refine Eq.trans (State.setChan_chan_ne (addCause u n k idx) _ h) ?_
    exact State.setChan_chan_ne u _ h
  have hm : ∀ f, (markFault s f n).chan m = s.chan m := fun f => by rw [markFault_shape]; rfl
  unfold chanFault
  cases k <;> simp only [ha, hr, hm]

/-! ### Refused writes (R493) -/

theorem refuse_shape (s : State) (req : Requester) (addr why : Nat) :
    refuse s req addr why = { s with regs := (refuse s req addr why).regs } := rfl

/-- A refusal touches the two registers that record it alone. -/
theorem refuse_rget (s : State) (req : Requester) (addr why : Nat) {a : Nat} (h : a ≠ R.SYS_REFA ∧ a ≠ R.SYS_REFI) :
    (refuse s req addr why).rget a = s.rget a := by
  unfold refuse
  rw [State.fincSat_rget_ne _ h.2, State.fput_rget_ne _ _ h.2, State.fbool_rget_ne _ _ h.2, State.fput_rget_ne _ _ h.2,
    State.rput_rget_ne _ _ h.1]

theorem refuse_refa (s : State) (req : Requester) (addr why : Nat) :
    (refuse s req addr why).rget R.SYS_REFA = BitVec.ofNat 32 addr := by
  unfold refuse
  rw [State.fincSat_rget_ne _ (by decide), State.fput_rget_ne _ _ (by decide), State.fbool_rget_ne _ _ (by decide),
    State.fput_rget_ne _ _ (by decide), State.rput_rget_same]

/-! ### Reset entry (R465, R467) -/

/-- What entry to reset keeps. -/
theorem enterReset_keeps (s : State) (c : Cask) (cause : Word) :
    (enterReset s c cause).mode = .reset ∧ (enterReset s c cause).pending = s.pending
      ∧ (enterReset s c cause).freshIdx = s.freshIdx ∧ (enterReset s c cause).cask.bytes = c.bytes
      ∧ (enterReset s c cause).otp.normal = s.otp.normal ∧ (enterReset s c cause).otp.strict = s.otp.strict
      ∧ (enterReset s c cause).memc = MemCtl.reset ∧ (enterReset s c cause).tnd = Tandem.reset
      ∧ (enterReset s c cause).pins.faultN = false :=
  ⟨rfl, rfl, rfl, rfl, rfl, rfl, rfl, rfl, rfl⟩

theorem enterReset_rget (s : State) (c : Cask) (cause : Word) {a : Nat} (h : a ≠ R.SYS_RCAUSE) :
    (enterReset s c cause).rget a = regReset a := by
  unfold enterReset
  rw [State.rput_rget_ne _ _ h]
  rfl

theorem enterReset_cause (s : State) (c : Cask) (cause : Word) : (enterReset s c cause).rget R.SYS_RCAUSE = cause :=
  State.rput_rget_same _ _ _

theorem enterReset_fe (s : State) (c : Cask) (cause : Word) (n : Nat) : (enterReset s c cause).fe n = feAtReset (s.fe n) :=
  Tab.get_map s.fes feAtReset Fe.reset n

end Sys2Proof.Machine
end

