-- ==== Sys2Proof/Laws/Access.lean ====
section
/-! SUPPORT. Register writes and reads: how a write ends, each way said once. -/

namespace Sys2Proof.Machine

/-- A write that reaches the registers passes each test of `regWrite` before its description. -/
theorem reachesRegs_iff (s : State) (req : Requester) (a : Nat) :
    reachesRegs s req a = true ↔ ¬ (s.mode = .reset ∨ (req = .checker ∧ s.inLockstep = true))
      ∧ ¬ (a % 4 ≠ 0 ∨ ¬ inSpan a = true ∨ ¬ mayWrite s req a = true)
      ∧ noTrigger s req onStore (BitVec.ofNat 32 a) = true := by
  cases req <;> simp [reachesRegs, not_or, and_assoc]

/-- An access that no trigger watches is made. -/
theorem watched_none {s : State} {req : Requester} {kind : Nat} {a : Word} (h : noTrigger s req kind a = true) (f : State → State) :
    watched s req kind a f = f s := by
  unfold watched
  rw [Option.isNone_iff_eq_none.mp h]

/-- A write that reaches the registers is what `regWrite` makes of it, unless it is a region refusal of the registers themselves. -/
theorem busWrite_done {s : State} {req : Requester} {a : Nat} {w : Word} (h : reachesRegs s req a = true)
    (hw : (regWrite s req a w).1 ≠ .region) : busWrite s req a w = (regWrite s req a w).2 := by
  obtain ⟨ha, -, hn⟩ := (reachesRegs_iff s req a).mp h
  unfold busWrite
  rw [if_neg (fun hm => ha (.inl hm)), watched_none hn]
  exact if_neg hw

theorem writeAccepted_iff (s : State) (req : Requester) (a : Nat) (w : Word) :
    writeAccepted s req a w = true ↔ reachesRegs s req a = true ∧
      ∃ d, regDesc a = some d ∧ accessWhy s d a (maskUsed d w) = 0 ∧ rangeOk s a (maskUsed d w) = true
        ∧ ruleOk s req d a (maskUsed d w) = true := by
  unfold writeAccepted
  cases regDesc a with
  | none => simp
  | some d => simp [and_assoc]

/-- A field refusal changes registers alone. -/
theorem fieldRefuse_shape (s : State) (req : Requester) (a why : Nat) :
    (fieldRefuse s req a why).2 = { s with regs := (fieldRefuse s req a why).2.regs } := by
  have h := refuse_shape s req a why
  unfold fieldRefuse
  dsimp only
  generalize refuse s req a why = t at h ⊢
  split
  · rw [h]
    rfl
  · exact h

theorem fieldRefuse_rget (s : State) (req : Requester) (a why : Nat) {b : Nat}
    (h : b ≠ R.SYS_REFA ∧ b ≠ R.SYS_REFI ∧ b ≠ R.BST_EV) : (fieldRefuse s req a why).2.rget b = s.rget b := by
  unfold fieldRefuse
  dsimp only
  split
  · rw [State.fput_rget_ne _ _ h.2.2, refuse_rget _ _ _ _ ⟨h.1, h.2.1⟩]
  · exact refuse_rget s req a why ⟨h.1, h.2.1⟩

/-- A write that access codes, range and rule let pass takes the register's own effect. -/
theorem regWrite_accepted {s : State} {req : Requester} {a : Nat} {w : Word} {d : RDesc}
    (h : writeAccepted s req a w = true) (hd : regDesc a = some d) :
    regWrite s req a w = (match regEffect s req d a (maskUsed d w) with
      | some t => (.done, noteRws s req d a (maskUsed d w) t)
      | none => fieldRefuse s req a 5) := by
  obtain ⟨hr, d', hd', h1, h2, h3⟩ := (writeAccepted_iff s req a w).mp h
  rw [hd] at hd'
  obtain rfl := Option.some.inj hd'
  obtain ⟨ha, hb, -⟩ := (reachesRegs_iff s req a).mp hr
  unfold regWrite
  rw [if_neg ha, if_neg hb, hd]
  cases e : regEffect s req d a (maskUsed d w) <;> simp only [judge, h1, h2, h3, e, ne_eq, not_true_eq_false, if_false]

/-- A write that breaks an access code, a range or a rule is refused, with the first of them as its reason. -/
theorem regWrite_refused {s : State} {req : Requester} {a : Nat} {w : Word} (h : writeRefused s req a w = true) :
    ∃ why, 1 ≤ why ∧ regWrite s req a w = fieldRefuse s req a why := by
  unfold writeRefused at h
  obtain ⟨hr, hd⟩ := Bool.and_eq_true_iff.mp h
  obtain ⟨ha, hb, -⟩ := (reachesRegs_iff s req a).mp hr
  unfold regWrite
  rw [if_neg ha, if_neg hb]
  cases hx : regDesc a with
  | none => rw [hx] at hd; exact absurd hd (by simp)
  | some d =>
    rw [hx] at hd
    simp only [judge]
    by_cases h1 : accessWhy s d a (maskUsed d w) = 0
    · by_cases h2 : rangeOk s a (maskUsed d w) = true
      · by_cases h3 : ruleOk s req d a (maskUsed d w) = true
        · simp [h1, h2, h3] at hd
        · exact ⟨5, by omega, by simp [h1, h2, h3]⟩
      · exact ⟨4, by omega, by simp [h1, h2]⟩
    · exact ⟨accessWhy s d a (maskUsed d w), by omega, by simp [h1]⟩

/-- The note of a write to an RWS field touches the seal's book alone. -/
theorem noteRws_shape (s : State) (req : Requester) (d : RDesc) (a : Nat) (w : Word) (t : State) :
    noteRws s req d a w t = { t with sealr := { t.sealr with rws := (noteRws s req d a w t).sealr.rws } } := by
  unfold noteRws
  split <;> rfl

/-- A write to an address that holds no register changes nothing. -/
theorem regWrite_none {s : State} {req : Requester} {a : Nat} {w : Word}
    (h : regDesc a = none ∨ inSpan a = false ∨ a % 4 ≠ 0 ∨ s.mode = .reset) : (regWrite s req a w).2 = s := by
  unfold regWrite
  split
  · rfl
  · split
    · rfl
    · next h1 h2 =>
      simp only [not_or, ne_eq, not_not] at h1 h2
      rcases h with h | h | h | h
      · rw [h]
      · exact absurd h2.2.1 (by simp [h])
      · exact absurd h2.1 h
      · exact absurd h h1.1

/-- A read of a register changes the read latches alone. -/
theorem readReg_shape (s : State) (req : Requester) (a : Nat) :
    (readReg s req a).2 = { s with spi := (readReg s req a).2.spi } := by
  unfold readReg setLatch
  dsimp only
  repeat' split
  all_goals rfl

end Sys2Proof.Machine
end

