-- ==== Sys2Proof/Laws/Memory.lean ====
section
/-! SUPPORT. Memories, their log, and the fuse array: what each operation can change. -/

namespace Sys2Proof.Machine

/-! ### The log of the memory error control -/

theorem putLog_shape (s : State) (t : Tab LogEnt) :
    putLog s t = { s with regs := (putLog s t).regs, memc := { s.memc with log := t } } := rfl

theorem bumpEntry_shape (s : State) (k : Nat) (e : LogEnt) (cls : Nat) :
    bumpEntry s k e cls = { s with regs := (bumpEntry s k e cls).regs
                                   memc := { s.memc with log := (bumpEntry s k e cls).memc.log } } := by
  unfold bumpEntry
  dsimp only
  split <;> split <;> rfl

theorem newEntry_shape (s : State) (k m addr cls : Nat) (page : Bool) :
    newEntry s k m addr cls page = { s with regs := (newEntry s k m addr cls page).regs
                                            memc := { s.memc with log := (newEntry s k m addr cls page).memc.log } } := by
  unfold newEntry
  dsimp only
  split <;> rfl

/-- A logged correction changes registers and the log. -/
theorem logCorrection_shape (s : State) (m addr cls : Nat) (page : Bool) :
    logCorrection s m addr cls page = { s with
      regs := (logCorrection s m addr cls page).regs
      memc := { s.memc with log := (logCorrection s m addr cls page).memc.log } } := by
  unfold logCorrection
  split
  · exact bumpEntry_shape s _ _ cls
  · split
    · exact newEntry_shape s _ m addr cls page
    · rfl

theorem noteWrite_shape (s : State) (m addr : Nat) :
    noteWrite s m addr = { s with regs := (noteWrite s m addr).regs
                                  memc := { s.memc with log := (noteWrite s m addr).memc.log } } := by
  unfold noteWrite
  split <;> rfl

theorem notePageWrite_shape (s : State) (page a n : Nat) :
    notePageWrite s page a n = { s with regs := (notePageWrite s page a n).regs
                                        memc := { s.memc with log := (notePageWrite s page a n).memc.log } } := rfl

theorem markRetired_shape (s : State) (p : LogEnt → Bool) :
    markRetired s p = { s with regs := (markRetired s p).regs, memc := { s.memc with log := (markRetired s p).memc.log } } :=
  rfl

theorem onlyRegs_refl (s : State) : onlyRegs s s := rfl

theorem onlyRegs_rput {s t : State} (a : Nat) (w : Word) (h : onlyRegs s t) : onlyRegs s (t.rput a w) := by
  unfold onlyRegs at h ⊢
  rw [h]
  rfl

theorem onlyRegs_fput {s t : State} (f : Fld) (v : Nat) (h : onlyRegs s t) : onlyRegs s (t.fput f v) :=
  onlyRegs_rput _ _ h

/-- Recording an uncorrectable error changes registers alone. -/
theorem recordUe_shape (s : State) (m addr cls : Nat) : onlyRegs s (recordUe s m addr cls) := by
  unfold recordUe
  have h0 : onlyRegs s (s.fput F.EDC_EV_ue 1) := onlyRegs_fput _ _ (onlyRegs_refl s)
  generalize s.fput F.EDC_EV_ue 1 = u at h0
  dsimp only
  split
  · exact onlyRegs_rput _ _ h0
  · exact onlyRegs_rput _ _ (onlyRegs_rput _ _ (onlyRegs_fput _ _ (onlyRegs_fput _ _ (onlyRegs_fput _ _
      (onlyRegs_rput _ _ (onlyRegs_rput _ _ h0))))))

/-- A Cask page write changes the Cask and the log. -/
theorem writeSpan_shape (s : State) (page off : Nat) (l : List Byte) (a n : Nat) :
    writeSpan s page off l a n = { s with
      regs := (writeSpan s page off l a n).regs
      memc := { s.memc with log := (writeSpan s page off l a n).memc.log }
      cask := { s.cask with
        bytes := memPutList 0 s.cask.bytes (page * 0x800 + off) l
        err := if errOutside (s.pageErr page) a n = ⟨[], 0⟩ then s.cask.err.del page
               else s.cask.err.set page (errOutside (s.pageErr page) a n)
        spare := s.cask.spare.set page (spareArea page (s.fget F.EDC_CCFG_t)
          (memGetList 0 (memPutList 0 s.cask.bytes (page * 0x800 + off) l) (page * 0x800) 0x800))
        cache := uncache s.cask.cache page } } := rfl

/-- A write of a whole page leaves no error in it (R380). -/
theorem writeSpan_whole (s : State) (page off : Nat) (l : List Byte) :
    (writeSpan s page off l 0 0x800).cask.err = s.cask.err.del page := by
  rw [writeSpan_shape]
  rfl

/-- Bytes outside the page's written range keep their values. -/
theorem writeSpan_other (s : State) (page off : Nat) (l : List Byte) (b n : Nat) {a : Nat}
    (h : a < page * 0x800 + off ∨ page * 0x800 + off + l.length ≤ a) :
    memGet 0 (writeSpan s page off l b n).cask.bytes a = memGet 0 s.cask.bytes a := by
  rw [writeSpan_shape]
  exact memGet_memPutList_out _ _ _ _ h

/-! ### Words of a RAM -/

/-- A stored word reads back. -/
theorem stored_store {r : Ram} (h : memWf 0 r.bytes = true) (off : Nat) (w : Word) : (r.store off w).stored off = w := by
  have hb : ∀ i, i < 4 → memGet 0 (memPutList 0 r.bytes (off / 4 * 4) (leBytes 4 w.toNat)) (off / 4 * 4 + i)
      = (leBytes 4 w.toNat).getD i 0 := fun i hi => memGet_memPutList_in _ _ h (by simpa using hi)
  have hl : memGetList 0 (r.store off w).bytes (off / 4 * 4) 4 = leBytes 4 w.toNat := by
    have e : memGetList 0 (r.store off w).bytes (off / 4 * 4) 4 = (List.range 4).map (fun i => (leBytes 4 w.toNat).getD i 0) :=
      List.map_congr_left (fun i hi => hb i (List.mem_range.mp hi))
    rw [e]
    rfl
  have hw : w.toNat < 256 ^ 4 := w.isLt
  rw [Ram.stored, hl, leNat_leBytes, Nat.mod_eq_of_lt hw]
  exact BitVec.eq_of_toNat_eq (by simp)

/-- A store leaves the bytes of every other word alone. -/
theorem store_other (r : Ram) (off : Nat) (w : Word) {a : Nat} (h : a / 4 ≠ off / 4) :
    memGet 0 (r.store off w).bytes a = memGet 0 r.bytes a := by
  refine memGet_memPutList_out _ _ _ _ ?_
  rw [length_leBytes]
  omega

theorem store_wf {r : Ram} (h : memWf 0 r.bytes = true) (off : Nat) (w : Word) : memWf 0 (r.store off w).bytes = true :=
  memWf_memPutList _ _ h

@[simp] theorem store_valid (r : Ram) (off : Nat) (w : Word) : (r.store off w).valid.get false (off / 4) = true := by
  simp [Ram.store]

theorem keepErr_bytes (r : Ram) (off : Nat) (u : Option WordUpset) : (r.keepErr off u).bytes = r.bytes := by
  cases u <;> rfl

theorem keepErr_valid (r : Ram) (off : Nat) (u : Option WordUpset) : (r.keepErr off u).valid = r.valid := by
  cases u <;> rfl

/-! ### The fuse array -/

/-- A blown fuse stays blown when another is blown (R424, R438). -/
theorem blow_keeps (s : State) (f : Nat × Nat) (w : Nat) :
    s.otp.normal.get 0 w &&& ~~~ (blow s f).otp.normal.get 0 w = 0#32
      ∧ s.otp.strict.get 0 w &&& ~~~ (blow s f).otp.strict.get 0 w = 0#32 := by
  have key : ∀ a m : Word, a &&& ~~~(a ||| m) = 0#32 := by intro a m; ext i; simp; intro h1 h2; simp [h1] at h2
  have self : ∀ a : Word, a &&& ~~~a = 0#32 := by intro a; ext i; simp
  unfold blow
  dsimp only
  by_cases h : w = f.1
  · subst h
    rw [Tab.get_set_same, Tab.get_set_same]
    exact ⟨key _ _, key _ _⟩
  · rw [Tab.get_set_ne _ _ _ h, Tab.get_set_ne _ _ _ h]
    exact ⟨self _, self _⟩

/-- Blowing a fuse changes the array alone. -/
theorem blow_shape (s : State) (f : Nat × Nat) : blow s f = { s with otp := (blow s f).otp } := rfl

theorem weak_shape (s : State) (f : Nat × Nat) :
    weak s f = { s with otp := (weak s f).otp, freshIdx := s.freshIdx + 1 } := rfl

end Sys2Proof.Machine
end

