-- ==== Sys2Proof/Laws/Cask.lean ====
section
/-! SUPPORT. What the operations of the Cask controller can do: they change registers, the Cask, the log of the error
control and the model's counter of open values, nothing else. -/

namespace Sys2Proof.Machine

/-- At most the registers, the Cask, the log and the counter of open values differ. -/
def CaskOnly (s t : State) : Prop :=
  t = { s with regs := t.regs, cask := t.cask, memc := { s.memc with log := t.memc.log }, freshIdx := t.freshIdx }

theorem CaskOnly.refl (s : State) : CaskOnly s s := rfl

theorem CaskOnly.trans {s t u : State} (h : CaskOnly s t) (h' : CaskOnly t u) : CaskOnly s u := by
  unfold CaskOnly at *
  rw [h', h]

theorem CaskOnly.fput {s t : State} (h : CaskOnly s t) (f : Fld) (v : Nat) : CaskOnly s (t.fput f v) := h.trans rfl

theorem CaskOnly.rput {s t : State} (h : CaskOnly s t) (a : Nat) (w : Word) : CaskOnly s (t.rput a w) := h.trans rfl

theorem CaskOnly.setCask {s t : State} (h : CaskOnly s t) (c : Cask) : CaskOnly s { t with cask := c } := h.trans rfl

/-- A fold of operations on the Cask is one. -/
theorem CaskOnly.foldl {α : Type} {g : State → α → State} (hg : ∀ u a, CaskOnly u (g u a)) (l : List α) {s t : State}
    (h : CaskOnly s t) : CaskOnly s (l.foldl g t) := by
  induction l generalizing t with
  | nil => exact h
  | cons a r ih => exact ih (h.trans (hg t a))

theorem post_caskOnly (s : State) (e : Ev) : CaskOnly s (post s e) := by
  unfold CaskOnly
  rw [post_shape]

theorem loseEvent_caskOnly (s : State) : CaskOnly s (loseEvent s) := rfl

/-! ### Records (R394, R401) -/

theorem writeSpan_caskOnly (s : State) (page off : Nat) (l : List Byte) (a n : Nat) : CaskOnly s (writeSpan s page off l a n) := rfl

theorem writePage_caskOnly (s : State) (page off : Nat) (l : List Byte) : CaskOnly s (writePage s page off l) := rfl

theorem showPages_caskOnly (s : State) : CaskOnly s (showPages s) :=
  ((((CaskOnly.refl s).fput _ _).fput _ _).fput _ _).fput _ _

theorem putJournal_caskOnly (s : State) (page off : Nat) (l : List Byte) : CaskOnly s (putJournal s page off l) := by
  unfold putJournal
  split
  · exact ((CaskOnly.refl s).setCask _).trans (writeSpan_caskOnly ..)
  · exact writePage_caskOnly ..

/-- A write to a journal page leaves the bytes of other pages alone. -/
theorem putJournal_other (s : State) (page off : Nat) (l : List Byte) {a : Nat} (h : a / 0x800 ≠ page)
    (hl : off + l.length ≤ 0x800) : memGet 0 (putJournal s page off l).cask.bytes a = memGet 0 s.cask.bytes a := by
  unfold putJournal
  split
  · rw [writeSpan_other _ _ _ _ _ _ (by omega)]
    exact congrArg (fun o => o.getD 0) (findKey_filter a (fun i => i / 0x800 != page) (by simpa using h) s.cask.bytes)
  · exact writeSpan_other _ _ _ _ _ _ (by omega)

theorem showCal_caskOnly (s : State) : CaskOnly s (showCal s) := by
  unfold showCal
  split
  · exact ((((CaskOnly.refl s).fput _ _).fput _ _).fput _ _).fput _ _
  · exact ((CaskOnly.refl s).rput _ _).fput _ _

theorem showAcc_caskOnly (s : State) : CaskOnly s (showAcc s) := by
  unfold showAcc
  split
  all_goals exact (((CaskOnly.refl s).fput _ _).fput _ _).fput _ _

theorem indexRec_caskOnly (s : State) (r : JRec) : CaskOnly s (indexRec s r) := by
  have a : ∀ u : State, CaskOnly u (if r.typ = tEvent then { u with cask := { u.cask with evNo := r.gen } } else u) :=
    fun u => by split <;> rfl
  have b : ∀ u : State, CaskOnly u (if r.typ = tLees ∧ !u.cask.lees.contains r.key then
      { u with cask := { u.cask with lees := u.cask.lees ++ [r.key] } } else u) := fun u => by split <;> rfl
  have d : ∀ u : State, CaskOnly u (if r.typ = tLees then
      markRetired u (fun e => e.mem == mCask && (e.addr.toNat - caskBase) / 0x800 == r.key) else u) := fun u => by
    split <;> rfl
  have c : ∀ u : State, CaskOnly u (if r.typ = tCalcommit then showCal u else u) := fun u => by
    split
    · exact showCal_caskOnly u
    · exact CaskOnly.refl u
  exact ((((((CaskOnly.refl s).setCask
    { s.cask with recs := s.cask.recs ++ [r], wpage := r.page, woff := r.off + r.size }).trans (a _)).trans
      (b _)).trans (d _)).trans (c _)).trans (showPages_caskOnly _)

theorem writeRec_caskOnly (s : State) (page off typ key gen : Nat) (data : List Byte) :
    CaskOnly s (writeRec s page off typ key gen data) :=
  (putJournal_caskOnly ..).trans (indexRec_caskOnly ..)

theorem openSeg_caskOnly (s : State) (j : Nat) : CaskOnly s (openSeg s j) :=
  ((CaskOnly.refl s).setCask _).trans (writeRec_caskOnly ..)

theorem allocateFresh_caskOnly {s : State} {size : Nat} {r : Nat × Nat × State} (h : allocateFresh s size = some r) :
    CaskOnly s r.2.2 := by
  unfold allocateFresh at h
  split at h
  · cases h
  · split at h
    · cases h; exact CaskOnly.refl s
    · split at h
      · cases h
      · dsimp only at h
        split at h
        · cases h; exact openSeg_caskOnly ..
        · obtain ⟨p, -, rfl⟩ := Option.map_eq_some_iff.mp h
          exact openSeg_caskOnly ..

theorem allocate_caskOnly {s : State} {size : Nat} {r : Nat × Nat × State} (h : allocate s size = some r) :
    CaskOnly s r.2.2 := by
  unfold allocate at h
  split at h
  · cases h; exact CaskOnly.refl s
  · exact allocateFresh_caskOnly h

theorem appendWhole_caskOnly {s t : State} {typ key gen : Nat} {data : List Byte}
    (h : appendWhole s typ key gen data = some t) : CaskOnly s t := by
  obtain ⟨r, hr, rfl⟩ := Option.map_eq_some_iff.mp h
  exact (allocate_caskOnly hr).trans (writeRec_caskOnly ..)

theorem appendEvent_caskOnly {s t : State} {e : Ev} (h : appendEvent s e = some t) : CaskOnly s t :=
  appendWhole_caskOnly h

/-! ### Commands (R400) -/

theorem cmdRefuse_caskOnly (s : State) (err : Nat) : CaskOnly s (cmdRefuse s err) := by
  unfold cmdRefuse
  exact (((CaskOnly.refl s).fput F.CSK_CMD_err err).fput F.CSK_CMD_busy 0).fput F.CSK_EV_cerr 1

theorem cmdFull_caskOnly (s : State) : CaskOnly s (cmdFull s) := ((cmdRefuse_caskOnly s 3).fput _ _).fput _ _

theorem cmdDone_caskOnly (s : State) : CaskOnly s (cmdDone s) := ((CaskOnly.refl s).fput _ _).fput _ _

theorem startJob_caskOnly (s : State) : CaskOnly s (startJob s) := by
  unfold startJob
  split
  · exact CaskOnly.refl s
  · split
    · exact CaskOnly.refl s
    · split
      · exact ((CaskOnly.refl s).setCask _).trans (cmdFull_caskOnly _)
      · next h => exact ((allocate_caskOnly h).trans (putJournal_caskOnly ..)).setCask _

/-- A LEES record has no generation to show (R423). -/
theorem showGen_caskOnly (s : State) (j : Job) :
    CaskOnly s (if j.typ = tLees then s else s.fput F.CSK_RGEN_gen j.gen) := by
  split
  · exact CaskOnly.refl s
  · exact (CaskOnly.refl s).fput _ _

theorem commitJob_caskOnly (s : State) : CaskOnly s (commitJob s) := by
  unfold commitJob
  split
  · exact CaskOnly.refl s
  · split
    · exact CaskOnly.refl s
    · exact (((((writePage_caskOnly ..).setCask _).trans (indexRec_caskOnly ..)).trans (showGen_caskOnly ..)).rput _ _).trans
        (cmdDone_caskOnly _)

theorem queueJob_caskOnly (s : State) (typ key gen : Nat) (data : List Byte) :
    CaskOnly s (queueJob s typ key gen data) :=
  (((CaskOnly.refl s).setCask { s.cask with job := some ⟨typ, key, gen, data, s.cask.queue.length, none⟩ }).fput
    F.CSK_CMD_busy 1).trans (startJob_caskOnly _)

theorem startRack_caskOnly (s : State) : CaskOnly s (startRack s).2 := by
  unfold startRack
  split
  · exact ((CaskOnly.refl s).setCask _).fput _ _
  · exact ((putJournal_caskOnly ..).setCask _).fput _ _

theorem cmdRack_caskOnly (s : State) : CaskOnly s (cmdRack s) := by
  unfold cmdRack
  dsimp only
  split
  · exact cmdRefuse_caskOnly ..
  · split
    · exact (startRack_caskOnly s).trans (cmdDone_caskOnly _)
    · exact (startRack_caskOnly s).trans (cmdRefuse_caskOnly ..)

theorem cmdRetire_caskOnly (s : State) : CaskOnly s (cmdRetire s) := by
  unfold cmdRetire
  dsimp only
  split
  · exact cmdRefuse_caskOnly ..
  · split
    · exact cmdRefuse_caskOnly ..
    · exact CaskOnly.trans (t := s.draw.2) rfl (queueJob_caskOnly ..)

theorem cmdLookup_caskOnly (s : State) : CaskOnly s (cmdLookup s) := by
  unfold cmdLookup
  dsimp only
  split
  · exact cmdRefuse_caskOnly ..
  · split
    · exact ((CaskOnly.refl s).rput _ _).trans (cmdDone_caskOnly _)
    · exact (((CaskOnly.refl s).fput _ _).rput _ _).trans (cmdDone_caskOnly _)

/-! ### Racking ends (R407) -/

theorem logCorrection_caskOnly (s : State) (m addr cls : Nat) (page : Bool) : CaskOnly s (logCorrection s m addr cls page) := by
  unfold CaskOnly
  rw [logCorrection_shape]

/-- An uncorrectable error of a Cask page changes registers alone: it is no device fault (R422). -/
theorem meetUe_caskOnly (s : State) (addr cls : Nat) : CaskOnly s (meetUe s mCask addr cls) := by
  have h : onlyRegs s (recordUe s mCask addr cls) := recordUe_shape ..
  unfold meetUe
  dsimp only
  rw [if_neg (fun h => absurd h.1 (by decide))]
  unfold CaskOnly
  rw [h]

theorem logInner_caskOnly (s : State) (page : Nat) (e : PageUpset) : CaskOnly s (logInner s page e) :=
  CaskOnly.foldl (fun _ _ => logCorrection_caskOnly ..) _ (CaskOnly.refl s)

theorem cachePage_caskOnly (s : State) (page : Nat) (wrong : List Nat) : CaskOnly s (cachePage s page wrong) := by
  unfold cachePage
  split <;> rfl

theorem readPage_caskOnly (s : State) (page : Nat) (p : Option PageUpset) : CaskOnly s (readPage s page p).2 := by
  unfold readPage
  dsimp only
  have a : ∀ e : PageUpset, CaskOnly s (if p.isSome then
      { s with cask := { s.cask with err := if e = ⟨[], 0⟩ then s.cask.err.del page else s.cask.err.set page e } } else s) :=
    fun e => by split <;> rfl
  split
  · exact a _
  · have h := (a (mergePage (s.pageErr page) p)).trans (logInner_caskOnly _ page (mergePage (s.pageErr page) p))
    split
    · exact h.trans (cachePage_caskOnly ..)
    · exact (h.trans (logCorrection_caskOnly ..)).trans (cachePage_caskOnly ..)
    · exact h.trans (meetUe_caskOnly ..)
    · exact h.trans (meetUe_caskOnly ..)
    · exact (h.trans (logCorrection_caskOnly ..)).trans (cachePage_caskOnly ..)

theorem recoverPage_caskOnly (s : State) (ends : List Nat) (page : Nat) : CaskOnly s (recoverPage s ends page).2 := by
  unfold recoverPage
  dsimp only
  split
  · exact logInner_caskOnly ..
  · exact readPage_caskOnly ..

theorem rackRead_caskOnly {s : State} {a : RackReads} (h : CaskOnly s a.st) (r : JRec) : CaskOnly s (rackRead a r).st := by
  have hp := h.trans (recoverPage_caskOnly a.st [] r.page)
  unfold rackRead
  dsimp only
  split
  · exact hp
  · exact hp.fput _ _

theorem rackRound_caskOnly {s : State} (l : List JRec) {a : RackReads} (h : CaskOnly s a.st) : CaskOnly s (l.foldl rackRead a).st := by
  induction l generalizing a with
  | nil => exact h
  | cons r t ih => exact ih (rackRead_caskOnly h r)

theorem rackReads_caskOnly {s : State} (n : Nat) {a : RackReads} (h : CaskOnly s a.st) : CaskOnly s (rackReads n a).st := by
  induction n generalizing a with
  | zero => exact h
  | succ n ih =>
    unfold rackReads
    split
    · exact h
    · exact ih (rackRound_caskOnly _ h)

theorem readLive_caskOnly (s : State) : CaskOnly s (readLive s).2 := rackReads_caskOnly _ (CaskOnly.refl s)

/-- Reading the image in the Cask changes the registers, the log and the cache alone. -/
theorem caskImage_caskOnly (s : State) : CaskOnly s (caskImage s).2 := by
  unfold caskImage
  have h : ∀ (l : List JRec) (a : Option (List Byte) × State), CaskOnly s a.2 →
      CaskOnly s (l.foldl (fun (a : Option (List Byte) × State) r =>
        match a.1 with
        | none => a
        | some l =>
          if imageWhole l then a
          else
            let p := readPayload a.2 r
            (p.1.map (l ++ ·), p.2)) a).2 := by
    intro l
    induction l with
    | nil => exact fun _ h => h
    | cons r t ih =>
      intro a ha
      refine ih _ ?_
      dsimp only
      split
      · exact ha
      · split
        · exact ha
        · exact ha.trans (readPage_caskOnly a.2 r.page none)
  exact h _ _ (CaskOnly.refl s)

theorem finishRack_caskOnly (s : State) (k : Rack) : CaskOnly s (finishRack s k) := by
  unfold finishRack
  dsimp only
  have h := readLive_caskOnly s
  split
  · exact ((h.setCask _).fput _ _).fput _ _
  · exact (((((((((CaskOnly.foldl (fun _ _ => putJournal_caskOnly ..) _ h).setCask _).rput _ _).rput _ _).fput _ _).fput _ _).fput
      _ _).trans (showPages_caskOnly _)).trans (showCal_caskOnly _)).trans (showAcc_caskOnly _)

end Sys2Proof.Machine
end

