-- ==== Sys2Proof/Laws/Duals.lean ====
section
/-! SUPPORT. Lane B's complements: complementing twice gives the value back, and the engine's half restores field by
field. -/

namespace Sys2Proof.Machine

@[simp] theorem BNet.cpl_cpl (n : BNet) : n.cpl.cpl = n := by cases n; simp [BNet.cpl]

@[simp] theorem ANet.cpl_cpl (n : ANet) : n.cpl.cpl = n := by cases n; simp [ANet.cpl]

@[simp] theorem SesBits.cpl_cpl (b : SesBits) : b.cpl.cpl = b := by
  cases b; simp [SesBits.cpl, Function.comp_def]

@[simp] theorem Pull.cpl_cpl (p : Pull) : p.cpl.cpl = p := by
  cases p; simp [Pull.cpl, Function.comp_def]

/-- The shadows' complement complements back (R435). -/
@[simp] theorem Shadow.cpl_cpl (x : Shadow) : x.cpl.cpl = x := by
  cases x; simp [Shadow.cpl, Function.comp_def]

variable (h : SesHalf)

@[simp] theorem SesHalf.cpl_restore_st : h.cpl.restore.st = h.st := by
  simp only [SesHalf.cpl, SesHalfC.restore]; cases h.st <;> decide

@[simp] theorem SesHalf.cpl_restore_vSent : h.cpl.restore.vSent = h.vSent := by simp [SesHalf.cpl, SesHalfC.restore]
@[simp] theorem SesHalf.cpl_restore_vTx : h.cpl.restore.vTx = h.vTx := by simp [SesHalf.cpl, SesHalfC.restore]
@[simp] theorem SesHalf.cpl_restore_vLast : h.cpl.restore.vLast = h.vLast := by simp [SesHalf.cpl, SesHalfC.restore]
@[simp] theorem SesHalf.cpl_restore_base : h.cpl.restore.base = h.base := by simp [SesHalf.cpl, SesHalfC.restore]
@[simp] theorem SesHalf.cpl_restore_peerTs : h.cpl.restore.peerTs = h.peerTs := by simp [SesHalf.cpl, SesHalfC.restore]
@[simp] theorem SesHalf.cpl_restore_hasTs : h.cpl.restore.hasTs = h.hasTs := by simp [SesHalf.cpl, SesHalfC.restore]

/-- A microtick restored is the own count modulo 2^64. -/
theorem cplTick_restore (n : Nat) : (~~~cplTick n).toNat = n % 2 ^ 64 := by simp [cplTick]

/-- A half whose microticks fit 64 bits restores whole (R298). -/
theorem SesHalf.cpl_restore (hw : ∀ n ∈ h.win, n < 2 ^ 64) (hr : ∀ n ∈ h.rejAt, n < 2 ^ 64) (hf : h.failAt < 2 ^ 64)
    (hu : ∀ n ∈ h.runAt, n < 2 ^ 64) (ho : ∀ n ∈ h.sentOpn, n < 2 ^ 64) (ht : ∀ e ∈ h.retHist, e.1 < 2 ^ 64)
    (hb : ∀ e ∈ h.bits, e.1 < 2 ^ 64) (hk : ∀ e ∈ h.oks, e.1 < 2 ^ 64) :
    h.cpl.restore = h := by
  have opt : ∀ x : Option Nat, (∀ n ∈ x, n < 2 ^ 64) → (x.map cplTick).map (fun w => (~~~w).toNat) = x := by
    intro x hx
    cases x with
    | none => rfl
    | some n => exact congrArg some ((cplTick_restore n).trans (Nat.mod_eq_of_lt (hx n rfl)))
  have st := h.cpl_restore_st
  cases h with
  | mk =>
    simp only [SesHalf.cpl, SesHalfC.restore, SesHalf.mk.injEq] at *
    refine ⟨st, by simp, by simp, by simp, by simp, by simp, by simp, opt _ hw, opt _ hr, ?_, opt _ hu, ?_, ?_, ?_, ?_⟩
    · exact (cplTick_restore _).trans (Nat.mod_eq_of_lt hf)
    · rw [List.map_map]
      exact (List.map_congr_left (fun n hn => (cplTick_restore n).trans (Nat.mod_eq_of_lt (ho n hn)))).trans (List.map_id _)
    · rw [List.map_map]
      exact (List.map_congr_left (fun e he => Prod.ext ((cplTick_restore e.1).trans (Nat.mod_eq_of_lt (ht e he)))
        (by simp))).trans (List.map_id _)
    · rw [List.map_map]
      exact (List.map_congr_left (fun e he => Prod.ext ((cplTick_restore e.1).trans (Nat.mod_eq_of_lt (hb e he)))
        (by simp))).trans (List.map_id _)
    · rw [List.map_map]
      exact (List.map_congr_left (fun e he => Prod.ext ((cplTick_restore e.1).trans (Nat.mod_eq_of_lt (hk e he)))
        (by simp))).trans (List.map_id _)

end Sys2Proof.Machine
end

