-- ==== Sys2Proof/Laws/Net.lean ====
section
/-! SUPPORT. What the operations of the switch can do: they change registers and what the switch holds, nothing else. -/

namespace Sys2Proof.Machine

/-- At most the registers and the switch differ. -/
def NetOnly (s t : State) : Prop := t = { s with regs := t.regs, net := t.net }

theorem NetOnly.refl (s : State) : NetOnly s s := rfl

theorem NetOnly.trans {s t u : State} (h : NetOnly s t) (h' : NetOnly t u) : NetOnly s u := by
  unfold NetOnly at *
  rw [h', h]

theorem NetOnly.fput {s t : State} (h : NetOnly s t) (f : Fld) (v : Nat) : NetOnly s (t.fput f v) := h.trans rfl

theorem NetOnly.rput {s t : State} (h : NetOnly s t) (a : Nat) (w : Word) : NetOnly s (t.rput a w) := h.trans rfl

theorem NetOnly.finc {s t : State} (h : NetOnly s t) (f : Fld) : NetOnly s (t.finc f) := h.trans rfl

theorem NetOnly.fincSat {s t : State} (h : NetOnly s t) (f : Fld) : NetOnly s (t.fincSat f) := h.trans rfl

theorem NetOnly.fpeak {s t : State} (h : NetOnly s t) (f : Fld) (v : Nat) : NetOnly s (t.fpeak f v) := h.trans rfl

theorem NetOnly.setPort {s t : State} (h : NetOnly s t) (p : Nat) (x : Port) : NetOnly s (t.setPort p x) := h.trans rfl

theorem NetOnly.setNet {s t : State} (h : NetOnly s t) (n : Net) : NetOnly s { t with net := n } := h.trans rfl

/-- A fold of operations on the switch is one. -/
theorem NetOnly.foldl {α : Type} {g : State → α → State} (hg : ∀ u a, NetOnly u (g u a)) (l : List α) {s t : State}
    (h : NetOnly s t) : NetOnly s (l.foldl g t) := by
  induction l generalizing t with
  | nil => exact h
  | cons a r ih => exact ih (h.trans (hg t a))

/-! ### The buffer (R322, R323) -/

theorem setPool_netOnly (s : State) (n : Nat) : NetOnly s (setPool s n) := (((NetOnly.refl s).setNet _).fput _ _).fpeak _ _

theorem tailDrop_netOnly (s : State) (p : Nat) : NetOnly s (tailDrop s p) := ((NetOnly.refl s).fincSat _).fput _ _

theorem pushQ_netOnly (s : State) (p q : Nat) (x : QFrame) : NetOnly s (pushQ s p q x) := (NetOnly.refl s).setPort _ _

theorem popQueue_netOnly (s : State) (p q : Nat) : NetOnly s (popQueue s p q) := (NetOnly.refl s).setPort _ _

theorem sendPause_netOnly (s : State) (p quanta : Nat) (cls : Fin 2) : NetOnly s (sendPause s p quanta cls) := by
  unfold sendPause
  dsimp only
  split
  · exact NetOnly.refl s
  · exact (((NetOnly.refl s).setPort _ _).finc _).fincSat _

theorem enterXoff_netOnly (s : State) (p : Nat) (cls : Fin 2) : NetOnly s (enterXoff s p cls) := by
  unfold enterXoff
  split
  · exact NetOnly.refl s
  · exact ((NetOnly.refl s).setPort _ _).trans (sendPause_netOnly ..)

/-- A frame that enters a queue, or is dropped, changes registers and the switch alone. -/
theorem enqueue_netOnly (s : State) (p q : Nat) (f : Frame) (ingress pcp : Nat) (cut : Bool) :
    NetOnly s (enqueue s p q f ingress pcp cut) := by
  unfold enqueue
  dsimp only
  split
  · exact NetOnly.refl s
  · split
    · split
      · exact tailDrop_netOnly s p
      · exact (setPool_netOnly s _).trans (pushQ_netOnly ..)
    · split
      · split
        · exact tailDrop_netOnly s p
        · exact (setPool_netOnly s _).trans (pushQ_netOnly ..)
      · split
        · have h := fun pt n q x =>
            (((NetOnly.refl s).setPort ingress pt).trans (setPool_netOnly _ n)).trans (pushQ_netOnly _ p q x)
          split
          · exact (h _ _ _ _).trans (enterXoff_netOnly ..)
          · exact h _ _ _ _
        · split
          · exact (((NetOnly.refl s).setPort _ _).trans (enterXoff_netOnly ..)).trans (pushQ_netOnly ..)
          · exact (((NetOnly.refl s).fincSat _).fput _ _).trans (enterXoff_netOnly ..)

/-- A port with no link takes no frame (R312). -/
theorem enqueue_down (s : State) (p q : Nat) (f : Frame) (ingress pcp : Nat) (cut : Bool) (h : (s.port p).link = none) :
    enqueue s p q f ingress pcp cut = s := by
  unfold enqueue
  exact if_pos h

theorem release_netOnly (s : State) (x : QFrame) : NetOnly s (release s x) := by
  unfold release
  dsimp only
  repeat' split
  all_goals first
    | exact setPool_netOnly ..
    | exact ((NetOnly.refl s).setPort _ _).trans (setPool_netOnly ..)
    | exact (NetOnly.refl s).setPort _ _

/-! ### Forwarding (R314 to R320) -/

theorem forwardTo_netOnly (s : State) (ingress : Nat) (inSp : Option Speed) (f : Frame) (p : Nat) :
    NetOnly s (forwardTo s ingress inSp f p) := by
  unfold forwardTo
  dsimp only
  split
  · exact enqueue_netOnly ..
  · exact NetOnly.refl s

theorem learn_netOnly (s : State) (p vid : Nat) (src : BitVec 48) : NetOnly s (learn s p vid src) := by
  unfold learn
  dsimp only
  repeat' split
  all_goals first
    | exact NetOnly.refl s
    | exact (NetOnly.refl s).setNet _

theorem sendOwn_netOnly (s : State) (from_ : Nat) (f : Frame) (ports : List Nat) : NetOnly s (sendOwn s from_ f ports) := by
  unfold sendOwn
  split
  · exact NetOnly.refl s
  · exact (NetOnly.refl s).foldl (fun _ _ => enqueue_netOnly ..) _

/-- Where no valid VLAN entry names the frame's VID, nothing is sent (R279). -/
theorem sendOwn_none (s : State) (from_ : Nat) (f : Frame) (ports : List Nat) (h : vlanOf s (frameVid f) = none) :
    sendOwn s from_ f ports = s := by
  unfold sendOwn
  rw [h]

/-! ### Next hops (R316) -/

theorem showUnresolved_netOnly (s : State) : NetOnly s (showUnresolved s) := by
  unfold showUnresolved
  dsimp only
  split
  · exact ((NetOnly.refl s).fput _ _).fput _ _
  · exact (NetOnly.refl s).fput _ _

theorem resolved_netOnly (s : State) (ip : List Byte) (mac : BitVec 48) : NetOnly s (resolved s ip mac) :=
  ((NetOnly.refl s).setNet _).trans (showUnresolved_netOnly _)

theorem askHop_netOnly (s : State) (x : SesNet) : NetOnly s (askHop s x) := sendOwn_netOnly ..

theorem addressProtocol_netOnly (s : State) (port : Nat) (f : Frame) : NetOnly s (addressProtocol s port f) := by
  unfold addressProtocol
  dsimp only
  repeat' split
  all_goals first
    | exact NetOnly.refl s
    | exact sendOwn_netOnly ..
    | exact resolved_netOnly ..

/-! ### Pauses and egress (R323, R325) -/

theorem showPauses_netOnly (s : State) (p : Nat) : NetOnly s (showPauses s p) := (NetOnly.refl s).fput _ _

theorem pauseKey_netOnly (s : State) (p k quanta : Nat) (sp : Speed) : NetOnly s (pauseKey s p k quanta sp) :=
  ((NetOnly.refl s).setPort _ _).trans (showPauses_netOnly ..)

theorem pauseReceived_netOnly (s : State) (p : Nat) (f : Frame) (sp : Speed) : NetOnly s (pauseReceived s p f sp) := by
  unfold pauseReceived
  dsimp only
  split
  · exact NetOnly.refl s
  · have h := (NetOnly.refl s).fincSat (F.NET_FCNT_rx p)
    split
    · exact h.foldl (fun _ _ => pauseKey_netOnly ..) _
    · split
      · refine h.foldl (fun u pr => ?_) _
        split
        · exact pauseKey_netOnly ..
        · exact NetOnly.refl u
      · exact h

theorem dropUnfit_netOnly (s : State) (p : Nat) (sp : Speed) : NetOnly s (dropUnfit s p sp) := by
  refine (NetOnly.refl s).foldl (fun u q => ?_) _
  split
  · exact NetOnly.refl u
  · split
    · exact ((((popQueue_netOnly ..).trans (release_netOnly ..)).fincSat _).fput _ _)
    · exact NetOnly.refl u

/-! ### The logic supply -/

/-- The discharge of a joined capacitor: its voltage alone moves, down, and not through VL24 or the falling threshold (R510, R524). -/
theorem drainHoldup_cases (s : State) :
    drainHoldup s = s ∨ (s.pins.powerGood = true ∧ s.pins.holdupOn = true ∧ ∃ h : Int, s.pins.vl24 ≤ h ∧ 11700 ≤ h ∧ h ≤ s.pins.holdup
      ∧ drainHoldup s = { s with pins := { s.pins with holdup := h }, freshIdx := s.freshIdx + 1 }) := by
  by_cases hc : s.pins.powerGood ∧ s.pins.holdupOn ∧ min s.pins.holdup (max s.pins.vl24 (point 48 2 12000 300)) < s.pins.holdup
  · refine .inr ⟨hc.1, hc.2.1, _, ?_, ?_, ?_, if_pos hc⟩
    all_goals
      obtain ⟨-, -, h⟩ := hc
      have hp : 11700 ≤ point 48 2 12000 300 := by unfold point; omega
      have hx := Int.emod_lt_of_pos (s.draw.1.toNat : Int)
        (show 0 < s.pins.holdup - min s.pins.holdup (max s.pins.vl24 (point 48 2 12000 300)) + 1 by omega)
      have hn := Int.emod_nonneg (s.draw.1.toNat : Int)
        (show s.pins.holdup - min s.pins.holdup (max s.pins.vl24 (point 48 2 12000 300)) + 1 ≠ 0 by omega)
      have e : (((s.pins.holdup - min s.pins.holdup (max s.pins.vl24 (point 48 2 12000 300)) + 1).toNat : Nat) : Int)
          = s.pins.holdup - min s.pins.holdup (max s.pins.vl24 (point 48 2 12000 300)) + 1 := Int.toNat_of_nonneg (by omega)
      push_cast [e]
      omega
  · exact .inl (if_neg hc)

@[simp] theorem vl24Stands_vl24 (s : State) (mv : Int) : (vl24Stands s mv).pins.vl24 = mv := rfl
@[simp] theorem vl24Stands_holdup (s : State) (mv : Int) : (vl24Stands s mv).pins.holdup = s.pins.holdup := rfl
@[simp] theorem vl24Stands_mode (s : State) (mv : Int) : (vl24Stands s mv).mode = s.mode := rfl

end Sys2Proof.Machine
end

