-- ==== Sys2Proof/WellFormed.lean ====
section
/-! DEFINITION. Which terms of Instr are commands that the block can see: the bounds that the operand types do not
already give. `exec` answers for every term; a term that is not well formed is none that the outside can send. -/

namespace Sys2Proof

/-- The two tags of a frame stand in their own fields: an untagged frame shows no tag's type as its type. -/
def Frame.wellFormed (f : Frame) : Bool :=
  (f.tci.isSome || f.etype != 0x8100#16) && (f.rtag.isSome || f.etype != 0xF1C1#16)

/-- A host transaction: a write carries as many bytes as its length field says, and no other request carries data (R499 to R502). -/
def SpiReq.wellFormed (r : SpiReq) : Bool := if r.op = 0x02#8 then r.data.length == r.len.toNat else r.data.isEmpty

/-- Wrong bits of a Cask page lie in its 264 words of 72 bits, each named once (R370). -/
def PageUpset.wellFormed (u : PageUpset) : Bool := u.bits.all (· < 264 * 72) && decide u.bits.Nodup

/-- A tasting slice ends inside its time box of at most 2.0 µs (R448, R450). -/
def SliceObs.wellFormed (o : SliceObs) : Bool := o.dur ≤ 0x200

/-- Upsets name each place once. -/
def distinctPlaces {α : Type} (l : List (Nat × α)) : Bool := decide (l.map (fun e => e.1)).Nodup

/-- A disturbed device-fault line is named once. -/
def LaneWires.wellFormed (w : LaneWires) : Bool := decide (w.lines.map (fun e => e.1)).Nodup

/-- Upsets of a configuration lie in the 1 MiB of a vintage (R137). -/
def configPlaces (l : List (Nat × Byte)) : Bool := l.all (fun e => e.1 < 0x100000) && distinctPlaces l

/-- The data of an event is at most 52 bytes (R396). -/
def eventData (l : List Byte) : Bool := l.length ≤ 52

/-- The logic supply lies inside what the module survives, reversed or not (R509). -/
def supplyMv (mv : Int) : Bool := -32000 ≤ mv && mv ≤ 60000

/-- The well-formed commands. -/
def Instr.wellFormed : Instr → Bool
  | .resetNLow _ => true
  | .powerGoodLost => true
  | .startupBegin _ _ obs => supplyMv obs.vl24
  | .initEntryTimeout => true
  | .initEntryReturn _ _ => true
  | .sealLatchRead _ _ obs => decide obs.stageFail.Nodup
  | .acceptPairAppend => true
  | .microtick ca cb => ca.wires.wellFormed && cb.wires.wellFormed
  | .laneTickTimeout _ => true
  | .enableMonitorTimeout _ => true
  | .fieldSample _ _ => true
  | .uplinkFrameReceived _ _ _ => true
  | .downlinkFrameReceived _ _ _ => true
  | .logicSilentTimeout _ _ => true
  | .programmedStateTimeout _ => true
  | .linkAcquisition _ => true
  | .auxWordApply _ => true
  | .feCommit _ => true
  | .feReopen _ => true
  | .configEchoTimeout _ _ => true
  | .sourceLimitTrip _ => true
  | .sourceRetry _ _ => true
  | .indeterminateFlag _ => true
  | .wireBreakFault _ => true
  | .dipStart _ => true
  | .dipWindowClose _ => true
  | .feExercise _ _ => true
  | .feSelfTimeout _ => true
  | .outputStageTest _ => true
  | .outputStageTestDone _ _ => true
  | .currentLimitTrip _ => true
  | .currentLimitLatchClear _ => true
  | .supplyBandChange _ _ => true
  | .bridgingTimeout _ => true
  | .bridgingTimerReset _ => true
  | .supplyLatchClear _ => true
  | .darkTestSlotStart _ => true
  | .darkTestObservationClose _ => true
  | .darkTestRestoreClose _ => true
  | .offStateFeedDetect _ => true
  | .openLoadFlag _ => true
  | .sharingBlockEnd => true
  | .groupCurrentBlockEnd => true
  | .overloadStdqRelease _ => true
  | .laneACycleStart _ o up => o.wellFormed && decide (up.map (fun e => e.1)).Nodup
  | .laneBCycleStart _ o up => o.wellFormed && decide (up.map (fun e => e.1)).Nodup
  | .windowClose _ _ => true
  | .evaluationOverrun _ _ => true
  | .sliceOverrun _ _ => true
  | .coverageDeadline => true
  | .laneRelease _ f parityFlips => distinctPlaces f.flips && distinctPlaces parityFlips
  | .outputUpdatePoint f => distinctPlaces f.flips
  | .shadowSlotCheck _ _ => true
  | .configReadbackPass _ flipsA flipsB => configPlaces flipsA && configPlaces flipsB
  | .syncInEdge _ => true
  | .syncSourceTimeout => true
  | .syncRearm _ _ => true
  | .hostRequestWrite _ _ => true
  | .forcedMismatch _ _ => true
  | .sessionSendInstant _ => true
  | .telegramReceived => true
  | .consumerWatchdog _ => true
  | .echoAgeWindow _ => true
  | .failedDwellEnd _ => true
  | .frameReceived _ f _ => f.wellFormed
  | .nextHopRetry _ => true
  | .egressTransmit _ => true
  | .xoffRepeat _ _ => true
  | .bufferXon _ _ => true
  | .addressAgeing => true
  | .linkChange _ _ => true
  | .gateCycleStart _ => true
  | .gateListCommit _ _ _ => true
  | .gptpSyncInterval _ => true
  | .syncReceiptTimeout _ => true
  | .frerRecoveryReset _ => true
  | .streamFrame _ => true
  | .forwardingEnable _ _ => true
  | .splitRequest _ _ => true
  | .splitPoint _ => true
  | .splitRequestLapse => true
  | .mergeRequest _ _ => true
  | .mergePoint => true
  | .mergeComplete _ => true
  | .mergeTimeout => true
  | .splitBudgetWarning => true
  | .splitBudgetExpired => true
  | .lockstepMismatch _ => true
  | .diagnosticKick _ _ => true
  | .diagnosticDeadline => true
  | .machineTimerInterrupt => true
  | .hostMailboxWrite _ _ => true
  | .pairMailboxWrite _ _ => true
  | .status => true
  | .fuseService _ _ => true
  | .checkFirmwareInTheCask => true
  | .bootFirmwareFromSram => true
  | .programSlot _ _ _ _ => true
  | .blowLock _ _ _ => true
  | .raiseThermometer _ _ _ => true
  | .fuseShadowMismatch => true
  | .dmactiveWrite _ => true
  | .debugPermitLapse => true
  | .debugHalt => true
  | .debugResume => true
  | .singleStep _ => true
  | .accessRegister _ _ _ => true
  | .accessMemory _ _ _ => true
  | .memoryRead _ _ u p => (u.isNone || p.isNone) && (match p with | none => true | some x => x.wellFormed)
  | .memoryWrite _ _ _ _ _ => true
  | .deadlineWindowClose _ => true
  | .logRelease _ _ => true
  | .edcLockSet _ _ => true
  | .scrubStart _ _ => true
  | .scrubAbort _ _ => true
  | .scrubEnd => true
  | .bankRemap _ _ => true
  | .remapComplete _ => true
  | .appendARecord _ _ => true
  | .appendCommit => true
  | .startRacking _ _ => true
  | .retirePage _ _ => true
  | .writeSlotPage _ _ => true
  | .lookUpTheLiveRecord _ _ => true
  | .eventQueuePost _ _ _ data => eventData data
  | .eventAppend => true
  | .rackingTrigger => true
  | .rackingSeal => true
  | .powerFailWarning mv => supplyMv mv
  | .powerFailWarningClear => true
  | .holdupConnect mv => supplyMv mv
  | .internalRailOutOfBand _ _ => true
  | .sw1On => true
  | .sw1Off _ => true
  | .sealReadInRun _ _ => true
  | .sealReadOutsideRun _ _ => true
  | .restartRequest _ _ => true
  | .restartReset => true
  | .bstOrderWrite _ _ _ => true
  | .readWords r => r.op == 0x0B#8 && r.wellFormed
  | .writeWords r => r.op == 0x02#8 && r.wellFormed
  | .repeatTheTrailer r => r.op == 0x05#8 && r.wellFormed
  | .hcsNAbort r => match r with | none => true | some x => x.op != 0x02#8 || x.data.length <= 65535
  | .registerWrite _ _ _ => true
  | .holdupDisconnect mv => supplyMv mv
  | .pauseTimerExpiry _ _ => true
  | .announceReceiptTimeout _ => true
  | .latchingRegisterRead _ _ => true
  | .unknownOpcode r => r.op != 0x0B#8 && r.op != 0x02#8 && r.op != 0x05#8 && r.wellFormed

end Sys2Proof
end

