-- ==== Sys2Proof/Tests/Slice0.lean ====
section
/-! SUPPORT. The model's own tests: an ill-formed term for each check of WellFormed, for each statement with premises a
state and operands that meet them (for each of its clauses), and the spec's own examples. -/

namespace Sys2Proof.Tests

open Sys2Proof.Machine

set_option Elab.async false

/-! ### Ill-formed terms -/

/-- A frame of 46 bytes of payload. -/
def frame0 : Frame := ⟨0x020000000001#48, 0x020000000009#48, none, none, 0x0800#16, List.replicate 46 0x5A#8, true⟩

/-- A host request without data, with its CRC. -/
def spi0 (op : Byte) (addr : BitVec 24) (len : BitVec 16) : SpiReq := sentReq op addr len []

def obs0 : LoadObs := ⟨true, true, []⟩
def seal0 (c : BitVec 20) : SealRead := ⟨c, ~~~c⟩
def slice0 (dur : Nat) : SliceObs := ⟨none, true, true, dur⟩

theorem test_illformed_frame_tag : Instr.wellFormed (.frameReceived 0 { frame0 with etype := 0x8100#16 } 0) = false := by
  decide +kernel
theorem test_illformed_frame_rtag : Instr.wellFormed (.frameReceived 0 { frame0 with etype := 0xF1C1#16 } 0) = false := by
  decide +kernel
theorem test_wellformed_frame : Instr.wellFormed (.frameReceived 0 frame0 0) = true := by decide +kernel
theorem test_illformed_spi_length : Instr.wellFormed (.writeWords ⟨0x02#8, 0, 4, [0#8], 0⟩) = false := by decide +kernel
theorem test_illformed_spi_data : Instr.wellFormed (.readWords ⟨0x0B#8, 0, 4, [0#8], 0⟩) = false := by decide +kernel
theorem test_illformed_spi_opcode : Instr.wellFormed (.readWords (spi0 0x02#8 0 4)) = false := by decide +kernel
theorem test_illformed_unknown_opcode : Instr.wellFormed (.unknownOpcode (spi0 0x05#8 0 0)) = false := by decide +kernel
theorem test_illformed_page_bit : Instr.wellFormed (.memoryRead ⟨.pair, false⟩ 0x60000000#32 none (some ⟨[19008], 0⟩)) = false := by
  decide +kernel
theorem test_illformed_page_twice : Instr.wellFormed (.memoryRead ⟨.pair, false⟩ 0x60000000#32 none (some ⟨[3, 3], 0⟩)) = false := by
  decide +kernel
theorem test_illformed_two_upsets :
    Instr.wellFormed (.memoryRead ⟨.pair, false⟩ 0x60000000#32 (some ⟨1, 0, 0, 0⟩) (some ⟨[3], 0⟩)) = false := by decide +kernel
theorem test_illformed_slice : Instr.wellFormed (.laneACycleStart ⟨0, none⟩ (slice0 0x201) []) = false := by decide +kernel
theorem test_illformed_upset_twice : Instr.wellFormed (.laneBCycleStart ⟨0, none⟩ (slice0 0x200) [⟨1, 1⟩, ⟨1, 2⟩]) = false := by
  decide +kernel
theorem test_illformed_flips : Instr.wellFormed (.laneRelease .a ⟨[(0, 1), (0, 2)], none⟩ []) = false := by decide +kernel
theorem test_illformed_config_place : Instr.wellFormed (.configReadbackPass 1 [(0x100000, 1)] []) = false := by decide +kernel
theorem test_illformed_event : Instr.wellFormed (.eventQueuePost 1 1 1 (List.replicate 53 0)) = false := by decide +kernel
theorem test_illformed_supply : Instr.wellFormed (.powerFailWarning (-40000)) = false := by decide +kernel
theorem test_illformed_stage_fail :
    Instr.wellFormed (.sealLatchRead (seal0 0) (seal0 0) { obs0 with stageFail := [3, 3] }) = false := by decide +kernel
theorem test_illformed_startup_supply :
    Instr.wellFormed (.startupBegin false false ⟨70000, true, true, [], true, true, true⟩) = false := by decide +kernel
theorem test_wellformed_stage_fail :
    Instr.wellFormed (.sealLatchRead (seal0 0) (seal0 0) { obs0 with stageFail := [3, 4] }) = true := by decide +kernel

/-! ### States -/

/-- The module in a state, one second after t = 0. -/
def inMode (m : Mode) : State := { State.reset with mode := m, tick := 1000000#64 }

def run0 : State := inMode .run

/-- One front end of a state. -/
def withFe (s : State) (n : Nat) (f : Fe) : State := s.setFe n f

/-- A powered and linked front end with a committed configuration. -/
def fe0 (words : List (Nat × Word)) : Fe :=
  { Fe.reset with band := .normal, locked := true, committed := true, held := ⟨words⟩ }

/-! ### Witnesses: the whole block -/

theorem witness_StepTakesFrontCommand :
    step { run0 with pending := [.status] } = exec .status { run0 with pending := [] } := rfl

theorem witness_ModeChangesFollowTable : ∃ t, exec (.enableMonitorTimeout .a) run0 = .next t ∧ t.mode = .safe := ⟨_, rfl, by decide +kernel⟩

theorem witness_StepKeepsStatesWf :
    State.wf { run0 with pending := [.edcLockSet .pair 0#32] } = true
      ∧ (step { run0 with pending := [.edcLockSet .pair 0#32] } matches .next _) = true := by decide +kernel

theorem witness_StepKeepsQueuesBounded :
    State.bounded { run0 with pending := [.status], cask := { Cask.reset with queue := List.replicate 64 ⟨0, 0, 0, 0, [], []⟩ } } := by
  unfold State.bounded; decide +kernel

theorem witness_StepKeepsFusesBlown : (step { run0 with pending := [.fuseShadowMismatch] } matches .next _) = true := by
  decide +kernel

theorem witness_OtherCommandsKeepMemoryAndConfig :
    mayStore .status = false ∧ mayConfigure .status = false ∧ mayStore .scrubEnd = true ∧ mayConfigure .scrubEnd = false
      ∧ (exec .status run0 matches .next _) = true := by decide +kernel

/-! ### Witnesses: reset and start-up -/

/-- A restart whose record has committed. -/
def restart0 : State := { run0 with boot := { Boot.reset with rstAccept := true } }

theorem witness_ResetEntry : restart0.boot.rstAccept = true ∧ restart0.boot.rstEvent = 0 ∧ restart0.otp.call = false
    ∧ (1000 ≤ 1000 ∧ 499 < 500) := by decide +kernel

/-- The words of a fuse slot with its check word. -/
def slot0 (k : Nat) : List (Nat × Word) :=
  let l := (List.range (slotLen k)).map (fun i => BitVec.ofNat 32 (i + 1))
  (List.range (slotLen k)).map (fun i => (slotBase k + i, BitVec.ofNat 32 (i + 1))) ++ [(slotBase k + slotLen k, fuseCheck k l)]

/-- A programmed module: identity, trim and vendor key, each in its first slot. -/
def fused0 : State :=
  let t : Tab Word := ⟨slot0 0 ++ slot0 2 ++ slot0 4⟩
  { State.reset with otp := { Fuses.reset with normal := t, strict := t } }

/-- Every test of hardware passes, and no fuse reads otherwise. -/
def start0 : StartObs := ⟨24000, true, true, [], true, true, true⟩

theorem witness_StartupBegins :
    fused0.mode = .reset
      ∧ { fused0 with pins := { fused0.pins with powerGood := false } }.pins.powerGood = false ∧ (16899 : Int) < 16900
      ∧ (17500 : Int) ≤ start0.vl24
      ∧ (hardwareTests (beginStartup fused0 true false 24000) false start0).1 = true
      ∧ (hardwareTests (beginStartup fused0 false true 24000) true start0).1 = true := by decide +kernel

/-- The init entry called at t = 5. -/
def init0 (now : Nat) : State :=
  { State.reset with mode := .startup, tick := BitVec.ofNat 64 now, boot := { Boot.reset with phase := .initCall 5 } }

theorem witness_InitEntryEnds : (init0 10004).mode = .startup ∧ (init0 10004).boot.phase = .initCall 5
    ∧ (init0 10004).tnd.halted = false ∧ (init0 10004).now < 5 + 10000 ∧ 5 + 10000 ≤ (init0 10005).now := by decide +kernel

/-- Reading the seal after n reads, the last of them `prev`. -/
def sealing (n : Nat) (prev : Option (BitVec 20)) : State :=
  { inMode .startup with boot := { Boot.reset with phase := .sealRead n prev } }

theorem witness_SealIsLatched :
    (sealing 3 none).boot.phase = .sealRead 3 none ∧ (sealing 3 none).tnd.halted = false
      ∧ latchDue (sealing 3 none) 3 = true ∧ latchDue ((sealing 3 none).rput R.SEAL_RTS (sealing 3 none).stamp) 3 = false
      ∧ latchDue (inMode .startup) 0 = true
      ∧ sealGood (seal0 0x30000#20) (seal0 0x30000#20) = true ∧ sealGood (seal0 5#20) ⟨5#20, 5#20⟩ = false
      ∧ (3 + 1 < 5 ∧ 5 ≤ 4 + 1) ∧ (some 0x40000#20).isSome = true ∧ 4 ≤ (seal0 0x40000#20).code.toNat / 65536 := by
  decide +kernel

/-! ### Witnesses: seal and supply -/

/-- SW1 has read on for its time. -/
def sw1Ready : State := { run0 with sealr := { Seal.reset with sw1 := ⟨2, 2⟩, onRun := 10000 } }
/-- SW1 counts as on. -/
def sw1Held : State := run0.fput F.SEAL_NOW_sw1 1
/-- An RWS write of the microtick in hand. -/
def rws0 : RwsWrite := ⟨1000000, .host, R.CMP_TEST, 5#32, some 5, [], some (0, 0)⟩

theorem witness_SealIsWatched :
    run0.mode = .run ∧ run0.now % 100000 = 0 ∧ run0.sealr.sw1Pair = false ∧ sw1Ready.sealr.sw1Pair = true
      ∧ 10000 ≤ sw1Ready.sealr.onRun ∧ sw1Ready.fget F.SEAL_NOW_sw1 = 0 ∧ sw1Held.fget F.SEAL_NOW_sw1 ≠ 0
      ∧ sealGood (seal0 0) (seal0 0) = true ∧ (seal0 0).code.toNat = run0.fget F.SEAL_ACC_sw6 * 65536 + run0.fget F.SEAL_ACC_fp
      ∧ sealGood (seal0 1) (seal0 1) = true ∧ (seal0 1).code.toNat ≠ run0.fget F.SEAL_ACC_sw6 * 65536 + run0.fget F.SEAL_ACC_fp
      ∧ sealGood (seal0 1) (seal0 0) = false
      ∧ (⟨2, 1⟩ : Sw1Read) ≠ ⟨2, 2⟩ ∧ (⟨3, 2⟩ : Sw1Read) ≠ ⟨2, 2⟩ ∧ sw1Held.sw1 = true ∧ run0.sw1 = false
      ∧ { sw1Held with sealr := { Seal.reset with rws := [rws0] } }.sealr.rws = [rws0] ∧ rws0.at_ = sw1Held.now
      ∧ rws0.addr ∉ [R.SYS_REFA, R.SYS_REFI, R.SYS_HSTAT, R.SEAL_NOW, R.SEAL_EV, R.CHN_CALQLO, R.CHN_CALQHI]
      ∧ rws0.later = [] ∧ rws0.req = .host ∧ rws0.tx = some (0, sw1Held.spi.count)
      ∧ latchReads { inMode .held with sealr := { Seal.reset with last := some (seal0 0, seal0 0) } } = false
      ∧ latchReads (inMode .startup) = false ∧ latchReads (sealing 3 none) = true
      ∧ latchReads { sealing 3 none with tnd := { Tandem.reset with halted := true } } = false ∧ (inMode .held).now % 1000 = 0
      ∧ sealDiffers { inMode .held with sealr := { Seal.reset with last := some (seal0 0, seal0 0) } } (seal0 1) (seal0 1) = true := by
  decide +kernel

/-- The power-fail warning has stood down for its time. -/
def pfw0 : State := { run0.fput F.CSK_STAT_pfw 1 with pins := { run0.pins with pfwClear := 10000 } }

/-- A charged capacitor has joined the converter input. -/
def joined0 : State := { State.reset with pins := { State.reset.pins with vl24 := 0, holdupOn := true, charging := false } }

theorem witness_LogicSupplyEvents :
    run0.pins.powerGood = true ∧ run0.pins.holdupOn = false ∧ run0.fget F.CSK_STAT_pfw = 0 ∧ run0.fget F.CSK_STAT_rdy = 0
      ∧ joined0.pins.powerGood = true ∧ joined0.pins.holdupOn = true ∧ joined0.pins.charging = false ∧ joined0.mode = .reset
      ∧ joined0.pins.holdup = 40000 ∧ (24000 : Int) < 40000 ∧ (16300 : Int) ≤ 16300 ∧ (17500 : Int) ≤ 17500
      ∧ { joined0 with pins := { joined0.pins with powerGood := false } }.pins.powerGood = false
      ∧ ((15699 : Int) < 15700 ∧ (16300 : Int) < 16301 ∧ (16699 : Int) < 16700)
      ∧ (run0.fput F.CSK_STAT_pfw 1).pins.pfwClear < 10000 ∧ run0.pins.charging = false ∧ (18000 : Int) ≤ 18000
      ∧ pfw0.fget F.CSK_STAT_pfw = 1 ∧ 10000 ≤ pfw0.pins.pfwClear ∧ pfw0.cask.job = none := by decide +kernel

/-! ### Witnesses: device faults in RUN -/

def logEnt0 (dl : Option Nat) (hard : Bool) : LogEnt :=
  ⟨0x20000000#32, 0, 1, false, false, hard, false, 1, 0, 0, dl, false⟩

/-- A slice of Lane A whose last step runs past its box of 2.0 µs. -/
def over0 : Slice := ⟨999990, 100, slice0 0x200, 1, [0], true⟩

/-- A state in RUN in which every watcher has something to see but the pair's. -/
def watch0 : State :=
  let s := { run0 with boot := { Boot.reset with lanesOn := true }
                       la := { LaneSt.reset with slice := some over0 }
                       taste := { Taste.reset with running := true, passAt := 999000 }
                       tnd := { Tandem.reset with ddlEnd := 1000000 }
                       memc := { MemCtl.reset with log := ⟨[(15, logEnt0 (some 1000000) false)]⟩ } }
  (s.fput F.TND_STAT_ddlarm 1).fput F.OTP_STAT_rd 1
/-- Split, with the budget at its end. -/
def split0 : State := { run0.fput F.TND_STAT_mode 1 with tnd := { Tandem.reset with splitAt := 990000, budget := 10 } }
/-- Merging, 1 ms after the merge point. -/
def merging0 : State := { run0.fput F.TND_STAT_mode 2 with tnd := { Tandem.reset with mergeAt := 999000, splitAt := 990000, budget := 10 } }

theorem witness_WatchersGoSafe :
    watch0.mode = .run ∧ watch0.boot.lanesOn = true ∧ 288 < 289 ∧ (watch0.lane .a).slice = some over0 ∧ watch0.fget F.BST_FAIL_vld = 0
      ∧ over0.begun = true ∧ sliceOver watch0 over0 = true ∧ sliceAt .a over0 (boxClocks watch0 .a) ≤ watch0.now
      ∧ sliceOver watch0 { over0 with obs := slice0 0 } = false ∧ over0.obs.restoreOk = true
      ∧ watch0.taste.running = true
      ∧ watch0.taste.passAt + watch0.taste.tdl + 1000 ≤ watch0.now ∧ watch0.fget F.TND_STAT_mode = 0
      ∧ (.fetch : LockDiff) ≠ .mirror ∧ watch0.fget F.TND_LSE_vld = 0 ∧ watch0.fget F.TND_STAT_ddlarm = 1 ∧ watch0.tnd.halted = false
      ∧ watch0.tnd.ddlEnd ≤ watch0.now ∧ watch0.memc.log.find 15 = some (logEnt0 (some 1000000) false)
      ∧ watch0.pins.powerGood = true ∧ ((759 : Int) < (railBand 0).1 ∧ (railBand 5).2 < 3461) ∧ watch0.fget F.OTP_STAT_rd = 1
      ∧ (watch0.otp.upset .b ⟨.level, 1⟩).shadowN ≠ (watch0.otp.upset .b ⟨.level, 1⟩).shadow.cpl
      ∧ watch0.otp.shadowN = watch0.otp.shadow.cpl
      ∧ split0.isSplit = true ∧ split0.tnd.expired = false ∧ budgetEnd split0 ≤ split0.now
      ∧ merging0.fget F.TND_STAT_mode = 2 ∧ merging0.tnd.mlate = false ∧ merging0.tnd.mergeAt + 1000 ≤ merging0.now := by
  decide +kernel

/-! ### Witnesses: the link hub -/

/-- Health shows, and nothing is wrong with either lane. -/
def healthy0 : State :=
  { run0 with boot := { Boot.reset with lanesOn := true }
              comp := { Comp.reset with made := true, since := 1000001, through := 1000001 } }

/-- What a lane sees where nothing is wrong on its wires. -/
def wires0 : LaneWires := ⟨none, [(3, 0b01#2)]⟩
/-- A tick of Lane A that brings a fault to its half of session 1 and to its form of the shadows. -/
def tickBad : LaneTick := ⟨248, wires0, some ⟨1, .state, 1⟩, some ⟨.level, 1⟩⟩

theorem witness_MicrotickRuns :
    healthy0.mode = .run ∧ tickOkA 248 = true ∧ tickOkB 244 = true ∧ tickOkA 247 = false ∧ healthy0.comp.bad = false
      ∧ healthy0.comp.made = true ∧ healthy0.now + 1 < 2 ^ 64 ∧ healthy0.comp.since ≤ healthy0.now + 1 ∧ healthy0.now + 1 ≤ healthy0.comp.through
      ∧ healthy0.enA.laneFlt = false ∧ healthy0.enA.line = false ∧ healthy0.enB.laneFlt = false ∧ healthy0.enB.line = false
      ∧ wires0.pair.getD (healthCode 1000001) = healthCode 1000001
      ∧ (some 0b01#2).getD (healthCode 1000001) = healthCode 1000001 ∧ (∀ x ∈ wires0.lines ++ wires0.lines, x.2 = 0b01#2)
      ∧ State.reset.mode = .reset ∧ State.reset.pins.holdupOn = false ∧ healthy0.comp.since ≤ healthy0.now + 1 ∧ (healthy0.sess 1).split = false
      ∧ (∃ x ∈ [((4 : Fin 5), 0b11#2)], x.2 ≠ 0b01#2) ∧ healthy0.boot.lanesOn = true ∧ (inMode .safe).mode = .safe
      ∧ (healthy0.fput F.OTP_STAT_rd 1).fget F.OTP_STAT_rd = 1 ∧ tickBad.shadow = some ⟨.level, 1⟩ ∧ tickBad.half = some ⟨1, .state, 1⟩
      ∧ (healthy0.tick + 1).toNat % 160 = 1
      ∧ (healthy0.sess 1).hb ≠ ((healthy0.sess 1).ha.upset .state 1).cpl := by decide +kernel

/-- The external sync source is chosen, its last edge two periods ago. -/
def sync0 (lost : Bool) : State :=
  { (run0.fput F.PRS_SYNC_src 1) with hub := { Hub.reset with lastEdge := some (1000000 - 2 * run0.cyc), phi := 3, lost := lost } }

theorem witness_SyncIsLostAndRearmed :
    (199 < 200 ∧ 200 ≤ 200) ∧ run0.hub.lastEdge = none
      ∧ { sync0 false with hub := { (sync0 false).hub with lastEdge := some 999999 } }.now < 999999 + (0 + 1) * (sync0 false).cyc
      ∧ (1000000 - 2 * run0.cyc) + (0 + 1) * (sync0 false).cyc ≤ (sync0 false).now ∧ (sync0 false).fget F.PRS_SYNC_src = 1 ∧ (sync0 false).hub.lost = false
      ∧ (1000000 - 2 * run0.cyc) + 2 * (((sync0 false).fget F.PRS_SYNC_pdiv + 1) * (sync0 false).cyc) ≤ (sync0 false).now
      ∧ writeAccepted (sync0 true) .pair R.PRS_SYNC (withBit 1#32 31) = true ∧ (sync0 true).hub.srcBad = false
      ∧ (sync0 true).hub.lastEdge.isSome = true ∧ (1#32).toNat % 4 = 1 ∧ (sync0 false).mode = .run
      ∧ (inMode .idle).mode ≠ .run ∧ (inMode .idle).mode ≠ .reset
      ∧ { inMode .idle with hub := { Hub.reset with lastEdge := some (inMode .idle).now } }.now
          < (inMode .idle).now + (0 + 1) * (inMode .idle).cyc := by decide +kernel

/-! ### Witnesses: front ends -/

/-- A safety input with N = 100, its counter at 99. -/
def feIn : Fe := { fe0 [(0, 1#32), (1, 0x00640000#32)] with count := 99 }
/-- The same with the hold of a dip in force. -/
def feHeld : Fe := { feIn with holdEnd := 1000001 }

theorem witness_IntegratingCounterCounts :
    feIn.powered = true ∧ feIn.live = true ∧ feIn.mode = 1 ∧ feIn.count ≤ feIn.nLim ∧ feIn.holdEnd ≤ run0.fieldNow
      ∧ run0.fieldNow < feHeld.holdEnd ∧ feIn.src.latched = false := by decide +kernel

/-- A standard input with T_d = 3. -/
def feDeb : Fe := fe0 [(0, 3#32), (1, 3#32)]

theorem witness_DebounceNeedsWholeRun : feDeb.powered = true ∧ feDeb.live = true ∧ feDeb.mode = 3
    ∧ { feDeb with committed := false }.live = false ∧ (fe0 [(0, 7#32)]).mode = 7 ∧ 1 ≤ feDeb.deb ∧ feDeb.deb ≤ 3 ∧ true ≠ feDeb.lastRaw ∧ 1 < feDeb.deb := by
  decide +kernel

/-- Output kinds: a PN safety output of channel 8, a PP lead, and a PP partner that names it. -/
def fePn : Fe := { fe0 [(0, 4#32), (3, 0x00400008#32)] with phB := true }
def fePp (lead : Word) : Fe := { fe0 [(0, 4#32), (3, lead)] with phB := true }
/-- A frame that asks for both switches of channel 8, with a change of both phases. -/
def ask0 (dts : Nat) : BitVec 64 := downFrame 8 1 true true true false false dts false 0
/-- The front end of channel 8 in RUN, ready for SEQ 1. -/
def outState (f : Fe) : State := withFe run0 8 { f with lastSeq := some 0 }

theorem witness_DownlinkFrameDrives :
    ((outState fePn).fe 8).locked = true ∧ ((outState fePn).fe 8).powered = true ∧ fePn.stRun = none
      ∧ { fePn with stRun := some 999990 }.stRun.isSome = true
      ∧ linkLost (addErr ((outState fePn).fe 8).errHist false) = false
      ∧ downOk ((outState fePn).fe 8) 8 (ask0 1) = true ∧ (ask0 1).toNat / 2 ^ 53 % 4 = 1
      ∧ downOk ((outState fePn).fe 8) 8 (ask0 2) = true ∧ (ask0 2).toNat / 2 ^ 53 % 4 = 2
      ∧ downOk ((outState fePn).fe 8) 8 (ask0 3) = false
      ∧ ((outState { fePn with climLatch := some 0x10#8 }).fe 8).mayDrive = false := by decide +kernel

theorem witness_SwitchNeedsRequestAndEnable :
    ((outState fePn).fe 8).mode = 4 ∧ ((outState fePn).fe 8).stRun = none ∧ downOk ((outState fePn).fe 8) 8 (ask0 0) = true
      ∧ (acceptDown ((outState fePn).fe 8) 8 1000000 (ask0 0)).hs = true
      ∧ (acceptDown ((outState fePn).fe 8) 8 1000000 (ask0 0)).ls = true ∧ fePn.otype = 1 ∧ (fePp 8).lead = 8
      ∧ (acceptDown ((outState (fePp 9)).fe 8) 8 1000000 (ask0 0)).hs = true ∧ (fePp 9).otype ≠ 1 ∧ (fePp 9).lead ≠ 8 := by
  decide +kernel

/-- A powered front end without a link. -/
def feNew : Fe := { Fe.reset with band := .normal }

theorem witness_LinkAcquisitionStartsAnew :
    ((withFe run0 47 feNew).fe 47).powered = true ∧ (withFe run0 47 feNew).mode ≠ .reset ∧ (withFe run0 47 feNew).mode ≠ .safe
      ∧ ¬ (((withFe run0 47 feNew).fe 47).locked = true ∧ ((withFe run0 47 feNew).chan 47).locked = true) := by decide +kernel

/-- A front end that has collected a word twice. -/
def feWord (committed : Bool) (r : Byte) (v : Word) : Fe :=
  { fe0 [(11, 7#32)] with committed := committed, aux0 := some (r, v), aux1 := some (r, v), staged := ⟨[(0, 4#32)]⟩ }

theorem witness_ConfigurationWords :
    (feWord false 11 7).committed = false ∧ (11#8).toNat < 12 ∧ (feWord true 11 7).committed = true
      ∧ (feWord true 11 7).reg 11 = 7#32 ∧ (feWord true 11 8).reg 11 ≠ 8#32 ∧ (feWord true 11 7).locked = true
      ∧ (feWord false 0x0F 0xA5).aux0 = some (0x0F#8, 0xA5#32) ∧ (feWord true 0x0F 0x5A).aux1 = some (0x0F#8, 0x5A#32)
      ∧ run0.mode = .run ∧ (commitFe (feWord false 0x0F 0xA5) ⟨[(0, 4#32)]⟩ Trim.neutral 0).stPend = true
      ∧ (commitFe (feWord false 0x0F 0xA5) ⟨[(0, 1#32)]⟩ Trim.neutral 0).stPend = false := by decide +kernel

/-- Nothing at the terminals. -/
def fieldObs0 : FieldObs := ⟨0, 0, 0, 0, false, false, false⟩

/-- A pulsed source of channel 0 in its slot. -/
def feSrc (src : Source) : Fe := { fe0 [(0, 1#32), (2, 0x00640064#32)] with src := src }
def srcState (src : Source) : State :=
  ((withFe run0 0 (feSrc src)).rput (R.CHN_CFG 0) 1#32).rput R.CHN_TPCFG 0x00640064#32

theorem witness_SourcesLatchAndRetry :
    ((srcState ⟨true, some 995000, false, 0⟩).fe 0).src.limSince = some 995000 ∧ 995000 + 5000 ≤ (srcState ⟨true, none, false, 0⟩).now
      ∧ ((srcState ⟨true, some 995000, false, 0⟩).fe 0).src.on = true
      ∧ ((srcState ⟨true, some 995000, true, 0⟩).fe 0).src.latched = true
      ∧ ((srcState ⟨false, none, true, 0⟩).fe 0).src.latched = true ∧ ((srcState ⟨false, none, true, 0⟩).fe 0).src.on = false
      ∧ 0 < 1000000 ∧ (1000000 - 0) % 1000000 = 0 ∧ (feSrc ⟨false, none, true, 0⟩).hasSource = true
      ∧ (feSrc ⟨false, none, true, 0⟩).powered = true ∧ { feSrc ⟨false, none, true, 0⟩ with committed := false }.live = false
      ∧ { fePn with src := ⟨false, none, true, 0⟩ }.hasSource = false ∧ fieldObs0.limSrc = false
      ∧ ((srcState ⟨true, none, true, 0⟩).fe 0).dipStart = none ∧ (feSrc ⟨true, none, false, 0⟩).locked = true
      ∧ tpdNow (srcState ⟨true, none, false, 0⟩) 1 1000000 = false
      ∧ tpdNow (srcState ⟨true, none, false, 0⟩) 0 1000000 = true ∧ (feSrc ⟨true, none, false, 0⟩).live = true
      ∧ (feSrc ⟨true, none, false, 0⟩).pulsed = true ∧ (feSrc ⟨true, none, false, 0⟩).dipStart = none
      ∧ (feSrc ⟨true, none, false, 0⟩).srcsel = 0 ∧ (feSrc ⟨true, none, false, 0⟩).holdEnd = 0 := by decide +kernel

/-- A standard output with its programmed state. -/
def feStd (lsst : Word) : Fe := { fe0 [(0, 5#32), (4, 100#32 ||| (lsst <<< 16))] with lastAcc := 999900, stdq := true }

theorem witness_SilenceOpensSwitches :
    fePn.mode = 4 ∧ fePn.stRun = none ∧ freshPhase (some 999995) 1000000 = false ∧ freshPhase (some 999996) 1000000 = true
      ∧ freshPhase fePn.chgA 1000000 = false ∧ fePn.otype = 1 ∧ (fePp 8).lead = 8 ∧ (fePp 8).otype ≠ 1 ∧ (fePp 9).lead ≠ 8
      ∧ (feStd 0).mode = 5 ∧ (feStd 0).live = true ∧ (feStd 0).prog = false ∧ (feStd 0).lsto ≤ 1000000 - (feStd 0).lastAcc
      ∧ (feStd 0).lsst = 0 ∧ (feStd 1).lsst = 1 ∧ (feStd 2).lsst = 2 ∧ (feStd 2).mayDrive = true ∧ (feStd 2).band = .normal := by
  decide +kernel

/-- A channel whose front end is due for its exercise, and whose hub has waited long. -/
def exState : State :=
  (withFe run0 3 { feIn with exAt := 1000000 }).setChan 3
    { Chan.reset with locked := true, reopen := false, selfAt := 897991, echoAt := ⟨[(11, 999478)]⟩ }

theorem witness_ExerciseAndEchoWatched :
    (exState.fe 3).powered = true ∧ (exState.fe 3).committed = true ∧ (exState.fe 3).exAt = exState.now
      ∧ (exState.chan 3).locked = true ∧ (exState.chan 3).selfAt + 102009 ≤ exState.now ∧ exState.now < 897992 + 102009
      ∧ exState.now ≤ 999479 + 521 ∧ quiet exState (exState.chan 3) = false
      ∧ quiet exState { exState.chan 3 with reopen := true, grace := some 999999 } = false
      ∧ (exState.chan 3).echoAt.get 0 11 + 521 < exState.now := by decide +kernel

/-- An exercise under way since a microtick, before or after its swap. -/
def exRuns (t0 : Nat) (swapped : Bool) : State :=
  withFe run0 3 { feIn with exRun := some ⟨t0, exerciseBits ⟨false, true, false, false, false, false, false⟩, swapped⟩ }

theorem witness_ExerciseAndEchoWatched_steps :
    ((exRuns 999902 false).fe 3).powered = true ∧ (exRuns 999902 false).fieldNow < 999902 + 99
      ∧ 999901 + 99 ≤ (exRuns 999901 false).fieldNow ∧ (exRuns 999801 true).fieldNow < 999801 + 200
      ∧ 999800 + 200 ≤ (exRuns 999800 true).fieldNow
      ∧ ((exRuns 999800 true).fe 3).exRun = some ⟨999800, exerciseBits ⟨false, true, false, false, false, false, false⟩, true⟩ := by
  decide +kernel

/-- The output-stage test of channel 8, wanted, under way and deferred. -/
def stageState (run : Option Nat) : State :=
  (((withFe run0 8 { fePn with stPend := run.isNone, stRun := run, stHigh := true, stLow := true }).rput (R.CHN_CFG 8) 4#32).fput
    (odefFld 8) 1)

theorem witness_OutputStageTests :
    isOutputMode ((stageState none).fe 8).mode = true ∧ ((stageState none).fe 8).live = true
      ∧ ((stageState none).fe 8).locked = true ∧ ((stageState none).fe 8).band = .normal
      ∧ ((stageState none).fe 8).stRun = none ∧ ((stageState none).fe 8).stPend = true
      ∧ ((stageState none).fe 8).otype = 1 ∧ ((stageState none).fe 8).climLatch = none ∧ ((stageState none).fe 8).supLatch = none
      ∧ fePn.stPend = false ∧ fePn.stFail = false
      ∧ { fePn with stFail := true, stAgain := 1000000 }.stAgain ≤ 1000000 ∧ fePn.reqA = false ∧ fePn.reqB = false ∧ fePn.stdq = false
      ∧ ((stageState (some 999990)).fe 8).stRun = some 999990 ∧ (stageState none).fget (odefFld 8) ≠ 0
      ∧ 1000000 - 999990 + 1 < 200 ∧ 200 ≤ 1000000 - 999801 + 1 ∧ 1000000 - 999601 + 1 = 400
      ∧ 1000000 < 999990 + ((stageState (some 999990)).fe 8).stageTime
      ∧ 998000 + ((stageState (some 998000)).fe 8).stageTime ≤ (stageState (some 998000)).fieldNow
      ∧ (stageState (some 998000)).fieldNow ≤ 998000 + 2000 ∧ 997999 + 2000 < 1000000
      ∧ ((stageState (some 998000)).fe 8).stageSeen = true ∧ fePn.stageSeen = false
      ∧ (stageState none).mode = .run ∧ (stageState none).unitOf 8 = [8] ∧ { stageState none with mode := .safe }.mode = .safe := by
  decide +kernel

/-- An output in Sag with its bridging time gone, and one with each latch ready to clear. -/
def feSag : Fe := { fePn with band := .sag, brt := 50000 }
def feLim : Fe := { fePn with limHs := some 999982, limLs := some 999982 }
def feClim (z : Nat) : Fe := { fePn with climLatch := some 0x10#8, zeroFrames := z }
def feSup : Fe := { fePn with supLatch := some 0x18#8, zeroNorm := 10000, normRun := 1000 }

theorem witness_OutputLatches :
    feLim.limHs = some 999982 ∧ feLim.limLs = some 999982 ∧ 999982 + 18 ≤ 1000000
      ∧ { feLim with limHs := some 999983 }.limLs = some 999982 ∧ 1000000 < 999983 + 18 ∧ feLim.climLatch = none ∧ feLim.fault = 0#8
      ∧ (feClim 1000).climLatch.isSome = true ∧ 1000 ≤ (feClim 1000).zeroFrames ∧ (feClim 999).zeroFrames < 1000
      ∧ fePn.band = .normal ∧ ((10000 : Int) ≤ 15099 ∧ (15099 : Int) < 15100 ∧ (31800 : Int) < 31801)
      ∧ feSag.band = .sag ∧ feSag.sagTrip = false ∧ isOutputMode feSag.mode = true
      ∧ (outState feSag).fget (F.FSG_CFG_brg 1) * 1000 ≤ feSag.brt ∧ 1000 ≤ feSup.normRun ∧ feSup.supLatch.isSome = true
      ∧ feSup.band = .normal ∧ 10000 ≤ feSup.zeroNorm := by decide +kernel

/-! ### Witnesses: channels on the logic side -/

/-- A monitored input, long in its bands. -/
def feMon : Fe := { fe0 [(0, 2#32)] with ind := 10000, wbrk := 1000 }
/-- Channel 8 as an output with a feed and an open load; channel 9 is its partner in a PN unit where `safe`. -/
def fedState (safe : Bool) : State :=
  let s := if safe then (run0.rput (R.CHN_CFG 8) 4#32).rput (R.CHN_OCFG 8) 0x00400008#32 else run0.rput (R.CHN_CFG 8) 5#32
  let s := if safe then (s.rput (R.CHN_CFG 9) 4#32).rput (R.CHN_OCFG 9) 0x00400008#32 else s
  (s.setChan 8 { Chan.reset with feedA := 1000, olRun := 100000 }).fput (F.CHN_OCFG_ol 8) 1

theorem witness_ChannelMonitors :
    (feMon.readI 2 { fieldObs0 with ia := 5000 } ≠ feMon.readI 2 fieldObs0)
      ∧ { feMon with ind := 9999 }.ind < 10000 ∧ { feMon with wbrk := 999 }.wbrk < 1000
      ∧ ({ (fedState false).chan 8 with feedA := 999, olRun := 99999 }).feedA < 1000 ∧ ((fedState false).chan 8).feedB < 1000
      ∧ ({ (fedState false).chan 8 with olRun := 99999 }).olRun < 100000
      ∧ ((withFe run0 2 feMon).fe 2).powered = true ∧ ((withFe run0 2 feMon).fe 2).live = true ∧ ((withFe run0 2 feMon).fe 2).mode = 2
      ∧ 10000 ≤ ((withFe run0 2 feMon).fe 2).ind ∧ 1000 ≤ ((withFe run0 2 feMon).fe 2).wbrk
      ∧ (fedState false).chMode 8 ≠ 4 ∧ (fedState true).chMode 8 = 4 ∧ 1000 ≤ ((fedState true).chan 8).feedA
      ∧ ((fedState true).chan 8).causes.contains (.out 0x15) = false
      ∧ { (fedState true).chan 8 with feedA := 999, feedB := 1000 }.causes.contains (.out 0x16) = false
      ∧ (fedState true).unitOf 8 = [8, 9] ∧ (fedState true).fget (F.CHN_OCFG_ol 8) = 1
      ∧ 100000 ≤ ((fedState true).chan 8).olRun := by decide +kernel

/-- An uplink frame of channel 5 with the SEQ of the index 999 991. -/
def up0 : BitVec 64 := sealFrame false 5 (7 * 2 ^ 60 + 2 ^ 59 + 2 ^ 58)
def upState : State := (run0.setChan 5 { Chan.reset with locked := true }).fput (F.FSG_CFG_use 0) 1

theorem witness_UplinkFramesJudged :
    upState.mode ≠ .reset ∧ (upState.chan 6).locked = false ∧ upState.mode = .run ∧ upState.fget (F.FSG_CFG_use (groupOf 6)) = 1
      ∧ (upState.chan 6).causes.contains .link = false ∧ 9 ≤ upState.now ∧ (upState.chan 5).locked = true
      ∧ linkLost (addErr (upState.chan 5).errHist false) = false ∧ upCheck 5 999991 (some up0) false = none
      ∧ upCheck 5 999991 (some (up0 ^^^ 1#64)) false = some .crc
      ∧ upCheck 5 999991 (some (sealFrame false 5 (6 * 2 ^ 60))) false = some .seq
      ∧ linkMatters upState 5 = true ∧ upState.fget (F.CHN_ERRC_crcc 5) < 65535
      ∧ upState.fget (F.CHN_ERRC_seqc 5) < 65535 := by decide +kernel

/-- Channel 0 is a pulsed input that was closed before its dip and stayed closed; its slot has ended. -/
def dipState : State :=
  { ((run0.rput (R.CHN_CFG 0) 1#32).rput R.CHN_TPCFG 0x00640064#32).setChan 0
      { Chan.reset with preRaw := true, winAll := false } with tick := 1000108#64 }

theorem witness_DipFindsExternalFeed :
    9 ≤ dipState.now ∧ slotAt dipState (dipState.now - 9) = some (0, 99) ∧ tpDip dipState ≤ 99 + 1 ∧ dipState.pulsed 0 = true
      ∧ ownSlot dipState 0 = some 0 ∧ (dipState.chan 0).preRaw = true ∧ (dipState.chan 0).winBad = false
      ∧ (dipState.chan 0).winAll = false := by decide +kernel

/-- Channel 0 is a PN output (`lead` 1) or the lead of a PP pair; its test of a side stands as given. -/
def darkState (d : Option DarkTest) (lead : Word) : State :=
  let s := ((run0.rput (R.CHN_CFG 0) 4#32).rput (R.CHN_OCFG 0) (lead <<< 22)).fput (F.FSG_CFG_dtw 0) 100
  let s := s.fput (F.FSG_CFG_dti 0) 100
  let s := (withFe s 0 fePn).setChan 0 { Chan.reset with prevOn := true, dtHs := d }
  { s with enA := { s.enA with conds := true }, enB := { s.enB with conds := true } }
/-- A high-side test under way since 900 000, its windows as given. -/
def dark0 (live done obs res : Bool) : DarkTest := ⟨900000, live, done, obs, res⟩

theorem witness_DarkTestsJudged :
    (dtSlots (darkState none 1))[0]? = some (0, true) ∧ (dtSlots (darkState none 1))[1]? = some (0, false)
      ∧ dtMembers (darkState none 1) 0 = [0] ∧ (darkState none 1).unitOf 0 = [0] ∧ (darkState none 1).mode = .run
      ∧ 0 * (dtWidth (darkState none 1) + 50) ≤ 1000000
      ∧ (1000000 - 0 * (dtWidth (darkState none 1) + 50)) % dtRound (darkState none 1) = 0
      ∧ (∀ m ∈ (darkState none 1).unitOf 0, ((darkState none 1).chan m).prevOn = true ∧ ((darkState none 1).chan m).prevSlow = false)
      ∧ ((darkState none 1).setChan 0 Chan.reset).unitOf 0 = [0]
      ∧ (((darkState none 1).setChan 0 Chan.reset).chan 0).prevOn = false
      ∧ 1 ≤ (darkState none 1).fget (F.FSG_CFG_dtw (groupOf 0)) ∧ dtsNow (darkState none 1) 0 1000000 = 0 := by decide +kernel

theorem witness_DarkTestsJudged_closes :
    ((darkState (some (dark0 true false true true)) 1).chan 0).test true = some (dark0 true false true true)
      ∧ (dark0 true false true true).start + dtWidth (darkState none 1) + 58 ≤ 1000000
      ∧ (dark0 true false true true).live = true ∧ (dark0 true false true true).obsDone = false
      ∧ (∀ m ∈ dtMembers (darkState none 1) 0, ∃ x,
          ((darkState (some (dark0 true false true true)) 1).chan m).test true = some x ∧ x.obs = true)
      ∧ (¬ ∀ m ∈ dtMembers (darkState none 1) 0, ∃ x,
          ((darkState (some (dark0 true false false true)) 1).chan m).test true = some x ∧ x.obs = true)
      ∧ (dark0 true true true true).obsDone = true ∧ (dark0 false true true true).live = false
      ∧ (∀ m ∈ dtMembers (darkState none 1) 0, ∃ x,
          ((darkState (some (dark0 true true true true)) 1).chan m).test true = some x ∧ x.res = true)
      ∧ (¬ ∀ m ∈ dtMembers (darkState none 1) 0, ∃ x,
          ((darkState (some (dark0 true true true false)) 1).chan m).test true = some x ∧ x.res = true)
      ∧ ((darkState (some (dark0 true true true true)) 1).chan 0).test (!true) = none := by
  have h : dtMembers (darkState none 1) 0 = [0] := by decide +kernel
  simp only [h, List.forall_mem_singleton]
  refine ⟨by decide +kernel, by decide +kernel, rfl, rfl, ⟨_, rfl, rfl⟩, ?_, rfl, rfl, ⟨_, rfl, rfl⟩, ?_, by decide +kernel⟩
  · rintro ⟨x, hx, h1⟩
    cases hx.symm.trans (rfl : _ = some (dark0 true false false true)); cases h1
  · rintro ⟨x, hx, h1⟩
    cases hx.symm.trans (rfl : _ = some (dark0 true true true false)); cases h1

/-- A block of 1000 and of 10 000 microticks ends; group 0 draws more than its limit. -/
def blockState : State :=
  { (run0.rput (R.CHN_CFG 1) 5#32).setChan 1 { Chan.reset with sumI := 5000000, sumG := 210000001 } with
      tick := 1000008#64, groups := ⟨[(2, { Group.reset with tripAt := some 8, stdHold := true })]⟩ }

theorem witness_CurrentBlocks :
    blockState.mode ≠ .reset ∧ 10008 ≤ blockState.now ∧ (blockState.now - 8) % 1000 = 0 ∧ (blockState.now - 8) % 10000 = 0
      ∧ 210000000 < (groupChans 0).foldl (fun a k => a + (blockState.chan k).sumG) 0
      ∧ isOutputMode (blockState.chMode 1) = true ∧ groupOf 1 = 0 ∧ (blockState.group 2).tripAt = some 8
      ∧ 8 + 1000000 ≤ blockState.now := by decide +kernel

/-! ### Witnesses: lanes and comparator -/

/-- A configuration whose only cell, in slot 0, has a type. -/
def oneCell (typ : Byte) : Mem := [(0x550, typ)]
/-- A snapshot of a boundary. -/
def snap0 (b : Nat) : Snap := ⟨b, 7, false, 1, Tab.empty, Tab.empty, Tab.empty, Tab.empty, Tab.empty⟩
/-- Lane A is due to start on the oldest boundary, Lane B on its own. -/
def startState (first : Nat) : State :=
  { run0 with hub := { Hub.reset with bounds := [(7, 999988, 1)], first := first, next := 1000388, nextCyc := 8 }
              lb := { LaneSt.reset with nextSnap := some (snap0 (999988 - run0.cyc / 2)) } }
/-- Both lanes have evaluated a cycle whose time is over. -/
def releaseState (delay : Option Rel) : State :=
  { run0 with la := { LaneSt.reset with snap := some (snap0 999000), evaled := true, startAt := 1000000 - run0.cyc }
              lb := { LaneSt.reset with snap := some (snap0 999000), evaled := true, startAt := 1000000 - run0.cyc }
              comp := { Comp.reset with delay := delay } }
/-- A released set of two words, as a vintage without cells has. -/
def rel0 (w : BitVec 64) : Rel := ⟨7, 999000, [⟨w, parity w, false⟩, ⟨w, parity w, false⟩], none, false, Tab.empty, Tab.empty⟩
/-- A window of 1000 that has ended at the boundary 999 000. -/
def win0 : Win := ⟨998000#32, 1000⟩
/-- A cell with that window open. -/
def cellState (typ : Byte) (st : Nat) : State :=
  { run0 with la := { LaneSt.reset with cfg := oneCell typ, snap := some (snap0 999000), evaled := true, bnd := 999000
                                        cells := ⟨[(0, { CellSt.reset with seen := true, w1 := some win0, st := st })]⟩ } }

theorem witness_LaneCyclesRun :
    (startState 0).hub.bounds = [(7, 999988, 1)] ∧ 999988 + 12 ≤ (startState 0).now ∧ (288 ≤ 288 ∧ 288 < 289)
      ∧ (snap0 (999988 - run0.cyc / 2)).boundary + 12 + (startState 0).cyc / 2 ≤ (startState 0).now
      ∧ (startState 0).lb.nextSnap = some (snap0 (999988 - run0.cyc / 2)) ∧ (snap0 0).first = false
      ∧ { snap0 0 with first := true }.first = true ∧ 7 = (startState 7).hub.first ∧ 7 ≠ (startState 0).hub.first
      ∧ ((none : Option Int).getD 1).natAbs ≤ 1 ∧ ((startState 0).la.phi + 1).natAbs ≤ (startState 0).cyc / 2
      ∧ 1 < ((some 2 : Option Int).getD 1).natAbs
      ∧ (releaseState none).la.evaled = true ∧ (releaseState none).la.startAt + (releaseState none).cyc ≤ (releaseState none).now
      ∧ (releaseState none).comp.delay = none ∧ (releaseState (some (rel0 1))).comp.delay.isSome = true
      ∧ (((cellState 3 0).img .a).cell 0).typ = 3 ∧ isDual (((cellState 0x14 1).img .a).cell 0).typ = true
      ∧ ((cellState 3 0).la.cells.get CellSt.reset 0).w1 = some win0 ∧ winDone win0 (BitVec.ofNat 32 (laneBound (cellState 3 0) .a (cellState 3 0).la)) = true
      ∧ (cellOf .a (cellState 3 0).la.cells 3 0).seen = true ∧ (cellOf .a (cellState 3 0).la.cells 3 0).w1 = some win0
      ∧ ((cellState 0x10 4).la.cells.get CellSt.reset 0).st = 4 := by decide +kernel

/-- A comparison of cycle 7 is due, with the sets of both lanes as given. -/
def compState (a b : Option Rel) : State :=
  { run0 with comp := { Comp.reset with dues := [(7, 1000000)], delay := a }, la := { LaneSt.reset with snap := some (snap0 999000) }
              lb := { LaneSt.reset with release := b } }

theorem witness_UpdatePointCompares :
    (compState none none).comp.dues = [(7, 1000000)] ∧ 1000000 ≤ (compState none none).now
      ∧ (laneSet (compState none none) .a (compState none none).la (snap0 999000)).length = 2
      ∧ badWords false (rel0 5).words = false ∧ firstDiff 2 (rel0 5).words (rel0 (~~~5)).words 0 = none
      ∧ firstDiff 2 (rel0 5).words (rel0 (~~~4)).words 1 = none ∧ (rel0 5).words.length ≠ 3
      ∧ netsAgree (rel0 5) (rel0 (~~~5)) (7 - run0.hub.first) = true ∧ (some 1 : Option Nat) = some 1
      ∧ firstDiff 2 (rel0 5).words (rel0 5).words 0 = some 0
      ∧ badWords false [⟨5#64, parity 5#64 ^^^ 1#4, false⟩] = true ∧ badWords false [⟨5#64, parity 5#64, true⟩] = true
      ∧ (rel0 5).cyc = 7 := by decide +kernel

/-- An injected step has been compared. -/
def shadowState (j : Option Nat) (flag : ShadowFlag) : State :=
  { run0 with comp := { Comp.reset with shadow := j, shadowAt := 999999, flag := some flag } }
/-- Both lanes hold the same configuration of one byte, the lowest of the press cycle setting. -/
def configState : State :=
  { run0 with la := { LaneSt.reset with cfg := [(0x34, 5#8)] }, lb := { LaneSt.reset with cfg := [(0x34, 0xFA#8)] } }

/-- That configuration after upsets in Lane A. -/
def upsetState (xa : List (Nat × Byte)) : State :=
  { configState with la := { configState.la with cfg := flipMem 0 configState.la.cfg (cfgFlips configState.la xa) }
                     lb := { configState.lb with cfg := flipMem 0xFF configState.lb.cfg (cfgFlips configState.lb []) } }

theorem witness_ShadowAndReadbackChecked :
    run0.comp.flag = none ∧ (shadowState none .none).comp.flag = some .none
      ∧ (shadowState none .none).comp.shadowAt + 1 ≤ (shadowState none .none).now
      ∧ shadowWant (some 63) = .column 63 ∧ shadowWant (some 64) = .entryParity ∧ shadowWant (some 65) = .exitParity
      ∧ (shadowState (some 65) .exitParity).comp.shadow = some 65 ∧ shadowWant (shadowState none .none).comp.shadow = .none
      ∧ (none : Option ShadowFlag).getD .exitParity = shadowWant (some 65)
      ∧ (some (.column 0) : Option ShadowFlag).getD .exitParity ≠ shadowWant (some 65)
      ∧ (10000 ≤ 10000) ∧ configOk (upsetState []) = true ∧ configOk (upsetState [(0x34, 1)]) = false := by
  decide +kernel

/-! ### Witnesses: register writes -/

/-- A state with SW1 on. -/
def keyed (m : Mode) : State := (inMode m).fput F.SEAL_NOW_sw1 1

theorem witness_RegisterWritesAreWhole :
    writeRefused run0 .pair R.SYS_STATE 1#32 = true ∧ writeRefused run0 .host R.BST_ORD0 0#32 = true
      ∧ reachesRegs run0 .pair 0x40001FFC = true ∧ regDesc 0x40001FFC = none ∧ inSpan 0x50000000 = false
      ∧ (0x40000001 % 4 ≠ 0 ∧ State.reset.mode = .reset) ∧ mayWrite split0 .checker R.SEAL_EV = false ∧ run0.mode ≠ .reset
      ∧ isHost .host = true ∧ isHost .pair = false ∧ noTrigger run0 .pair onStore 0x50000000#32 = true
      ∧ (exec (.registerWrite .pair 0x40000000#32 ⟨1#32, 0#32, none⟩) run0 matches .next _) = true
      ∧ writeAccepted run0 .pair R.SEAL_EV 0xFFFFFFFF#32 = true ∧ R.SEAL_EV / 0x10000 = 0x4000
      ∧ writeAccepted run0 .host (R.SES_EV 159) 1#32 = true ∧ (R.SES_EV 159) / 0x10000 = 0x4005
      ∧ writeAccepted run0 .pair (R.FSG_FLT 5) 0xFFFFFFFF#32 = true ∧ (R.FSG_FLT 5) / 0x10000 = 0x4002
      ∧ writeAccepted run0 .pair R.BST_EV 1#32 = true ∧ R.BST_EV / 0x10000 = 0x400c := by decide +kernel

/-- An OUTP cell in slot 0, SW1 on. -/
def outpState : State := { keyed .run with la := { LaneSt.reset with cfg := oneCell 0x30 } }
/-- The first half of the restart sequence has come from the pair. -/
def rstState : State := { run0 with boot := { Boot.reset with rstFirst := some (.pair, 999001) } }
/-- A pending gate list of one entry, with its length in steps of 64 ns. -/
def gates0 (n : Nat) : State := run0.setPort 0 { Port.reset with pending := ⟨[(0, ⟨0xFF, n⟩)]⟩ }
def gateList (n : Nat) : List GateEnt :=
  (List.range (bits (0#32).toNat 5 0 + 1)).map (fun i => ((gates0 n).port 0).pending.get ⟨0xFF, 0x10⟩ i)

theorem witness_BlockCommandWrites :
    writeAccepted run0 .host R.PRS_HREQ 0xFFFF#32 = true
      ∧ writeAccepted outpState .pair R.CMP_TEST (withBit 0#32 31) = true ∧ outpState.mode = .run ∧ outpState.sw1 = true
      ∧ outpState.fget F.CMP_TEST_force = 0 ∧ ((imgA outpState).cell (bits (0#32).toNat 10 0)).typ = 0x30 ∧ ((imgA outpState).cell (bits (1#32).toNat 10 0)).typ ≠ 0x30
      ∧ writeAccepted (keyed .run) .pair R.BST_ORD0 (run0.rget R.BST_ORD0) = true
      ∧ writeAccepted (keyed .run) .pair R.BST_ORD1 (run0.rget R.BST_ORD1) = true
      ∧ writeRefused run0 .pair R.BST_ORD1 0#32 = true
      ∧ writeAccepted run0 .pair (R.NET_GCFG 4) (withBit 63#32 30) = true
      ∧ gateCycle (gateList 16) = 1024 ∧ gateCycle (gateList 15625000) = 1000000000 ∧ gateCycle (gateList 15) < 1024
      ∧ 1000000000 < gateCycle (gateList 15625001)
      ∧ run0.mode ≠ .startup ∧ writeAccepted run0 .pair R.NET_CTL (withBit (run0.rget R.NET_CTL) 31) = true
      ∧ writeAccepted run0 .pair R.SYS_RST 0xA5#32 = true ∧ run0.boot.rstAccept = false ∧ run0.boot.rstFirst = none
      ∧ rstState.boot.rstFirst = some (.pair, 999001) ∧ rstState.now < 999001 + 1000 ∧ 999000 + 1000 ≤ rstState.now ∧ isHost .pair = isHost .pair
      ∧ (0x5A#32).toNat % 256 = 0x5A ∧ isHost .pair ≠ isHost .host := by decide +kernel

/-- The diagnostic deadline runs. -/
def kickState (a5 : Bool) : State :=
  { (run0.fput F.TND_STAT_ddlarm 1).fput F.TND_DDL_ms 10 with tnd := { Tandem.reset with kickA5 := a5, ddlEnd := 1000001 } }

theorem witness_TandemCommandWrites :
    writeAccepted run0 .pair R.TND_SPLIT (withBit 0xC8#32 31) = true ∧ writeAccepted run0 .host R.TND_SPLIT (withBit 1#32 31) = true
      ∧ run0.fget F.TND_STAT_mode = 0 ∧ run0.fget F.TND_STAT_spend = 0 ∧ run0.tnd.dmact = false
      ∧ writeAccepted split0 .pair R.TND_MERGE (withBit 0#32 31) = true ∧ split0.fget F.TND_STAT_mode = 1
      ∧ writeAccepted (kickState true) .pair R.TND_KICK 0xA5#32 = true ∧ (kickState true).fget F.TND_STAT_ddlarm = 1
      ∧ (kickState true).tnd.kickA5 = true ∧ (kickState false).tnd.kickA5 = false
      ∧ writeAccepted run0 .host R.TND_HMBX 0x80000000#32 = true ∧ romServes run0 = false
      ∧ writeAccepted run0 .pair R.TND_HMBX 0#32 = true ∧ writeAccepted run0 .pair R.TND_PMBX 7#32 = true := by decide +kernel

/-- A log with one entry in slot 15, in a safety-relevant region where `rel`. -/
def logState (e : LogEnt) (rel : Bool) : State :=
  let s := { run0 with memc := { MemCtl.reset with log := ⟨[(15, e)]⟩ } }
  if rel then s.rput (R.EDC_SREG 0) 0x81000000#32 else s

theorem witness_LogReleaseFreesEntry :
    (logState (logEnt0 none false) false).wf = true
      ∧ writeAccepted (logState (logEnt0 none false) false) .pair R.EDC_LREL (withBit 15#32 31) = true
      ∧ (logState (logEnt0 none false) false).memc.log.find ((15#32).toNat % 16) = some (logEnt0 none false)
      ∧ (logEnt0 (some 5) false).dl.isSome = true ∧ (logEnt0 none true).hard = true ∧ (logEnt0 none true).ret = false
      ∧ safetyRel (logState (logEnt0 none true) true) 0 0x20000000 = true := by decide +kernel

/-- The scrubber is told to take the first two words of SRAM. -/
def scrubState : State := (run0.rput R.EDC_SCBASE 0x20000000#32).rput R.EDC_SCEND 0x20000008#32
/-- A scrub runs, and a bank is being copied. -/
def busyState : State :=
  { (scrubState.fput F.EDC_SCCTL_busy 1).fput F.EDC_REMAP_busy 1 with
      memc := { MemCtl.reset with scrub := some (0x20000000, 0x20000008, 0, true, 999000), remap := some (15, 999000) } }

theorem witness_EdcCommandWrites :
    writeAccepted run0 .pair R.EDC_LOCK (withBit 0#32 0) = true
      ∧ writeAccepted scrubState .pair R.EDC_SCCTL (withBit 0#32 31) = true ∧ bits (0#32).toNat 27 26 ≤ 2
      ∧ scrubState.memc.scrub = none ∧ scrubState.fget F.EDC_SCBASE_addr % (scrubSpan 0).2.2 = 0
      ∧ scrubState.fget F.EDC_SCEND_addr % (scrubSpan 0).2.2 = 0 ∧ (scrubSpan 0).1 ≤ scrubState.fget F.EDC_SCBASE_addr
      ∧ scrubState.fget F.EDC_SCEND_addr ≤ (scrubSpan 0).1 + (scrubSpan 0).2.1
      ∧ scrubState.fget F.EDC_SCBASE_addr < scrubState.fget F.EDC_SCEND_addr ∧ run0.fget F.EDC_SCEND_addr ≤ run0.fget F.EDC_SCBASE_addr
      ∧ writeAccepted busyState .pair R.EDC_SCCTL (withBit (withoutBit 0#32 31) 29) = true ∧ busyState.memc.scrub.isSome = true
      ∧ writeAccepted run0 .pair R.EDC_REMAP (withBit 0x000F0000#32 31) = true ∧ run0.memc.remap = none ∧ run0.isSplit = false
      ∧ writeAccepted busyState .pair R.EDC_REMAP 0#32 = true
      ∧ writeAccepted busyState .pair R.EDC_REMAP (withBit 0#32 31) = true ∧ busyState.memc.remap.isSome = true := by
  decide +kernel

/-! ### Witnesses: Cask commands and records -/

/-- The Cask controller is ready, in segment 0 of its epoch; the first word of SRAM has been written. -/
def cask0 : State :=
  let s := { keyed .run with
    memc := { MemCtl.reset with sram := { Ram.reset with bytes := [(0, 7)], valid := ⟨[(0, true)]⟩ } }
    cask := { Cask.reset with segs := [0], wpage := 2048, woff := 168 } }
  (s.fput F.CSK_STAT_rdy 1).rput R.CSK_SADDR 0x20000000#32
def ev0 : Ev := ⟨3, 2, 1, 999000, [7#8], []⟩
/-- One event waits. -/
def caskQ : State := { cask0 with cask := { cask0.cask with queue := [ev0] } }
/-- A PARAM append of 8 bytes is set up. -/
def caskAppend : State := (caskQ.fput F.CSK_RHDR_type tParam).fput F.CSK_RHDR_len 8
/-- A page number is set up. -/
def caskPage (p : Nat) : State := caskQ.fput F.CSK_PAGE_page p
def rec0 : JRec := ⟨2048, 168, tParam, 9, 1, [5#8]⟩
/-- A lookup of PARAM key 9 or 8. -/
def caskLookup (key : Nat) : State :=
  ({ caskAppend with cask := { caskQ.cask with recs := [rec0] } }).fput F.CSK_RKEY_key key
def ready0 (op : Nat) (s : State) : Prop :=
  s.fget F.CSK_CMD_busy = 0 ∧ s.fget F.CSK_STAT_pfw = 0 ∧ s.fget F.CSK_STAT_rdy = 1
    ∧ writeAccepted s .pair R.CSK_CMD (caskWord 0#32 op) = true

theorem witness_RegisterWritesAreWhole_tie :
    writeAccepted cask0 .pair R.CSK_CMD 0x90000000#32 = true ∧ (0x90000000#32).getLsbD 31 = true ∧ cask0.fget F.CSK_CMD_busy = 0
      ∧ ((exec (.registerWrite .pair (BitVec.ofNat 32 R.CSK_CMD) ⟨0x90000000#32, 0#32, none⟩) cask0) matches .next _) = true := by
  decide +kernel

theorem witness_CaskCommands_states :
    pfw0.fget F.CSK_CMD_busy = 0 ∧ pfw0.fget F.CSK_STAT_pfw = 1 ∧ run0.fget F.CSK_STAT_rdy = 0 ∧ (1 ≤ 1 ∧ 5 ≤ 5)
      ∧ writeAccepted run0 .pair R.CSK_CMD (caskWord 0#32 5) = true ∧ writeAccepted pfw0 .pair R.CSK_CMD (caskWord 0#32 1) = true := by
  decide +kernel

theorem witness_CaskCommands_append :
    ready0 1 caskAppend ∧ caskAppend.fget F.CSK_RHDR_type = tParam ∧ caskAppend.fget F.CSK_RHDR_len ≤ 2024
      ∧ sourceOk (caskAppend.fget F.CSK_SADDR_addr) (caskAppend.fget F.CSK_RHDR_len) = true
      ∧ caskAppend.fget F.CSK_RKEY_key < fwKey ∧ paramFits caskAppend (caskAppend.fget F.CSK_RKEY_key) 8 = true
      ∧ (sramBytes caskAppend (caskAppend.fget F.CSK_SADDR_addr - sramBase) 8).1 = some [7, 0, 0, 0, 0, 0, 0, 0]
      ∧ caskAppend.cask.queue ≠ [] := by unfold ready0; decide +kernel

theorem witness_CaskCommands_racking : ready0 2 caskQ ∧ caskQ.cask.rack = none ∧ rackTarget caskQ = some 1 := by
  unfold ready0; decide +kernel

theorem witness_CaskCommands_retire :
    ready0 3 (caskPage 2047) ∧ (caskPage 2047).fget F.CSK_PAGE_page < 2048 ∧ ready0 3 (caskPage 2048)
      ∧ 2048 ≤ (caskPage 2048).fget F.CSK_PAGE_page ∧ (caskPage 2048).cask.lees.contains 2048 = false
      ∧ (caskPage 2048).cask.lees.length < 256 ∧ caskQ.cask.queue ≠ []
      ∧ ([2048].contains 2048 = true ∧ 256 ≤ (List.replicate 256 2049).length) := by unfold ready0; decide +kernel

theorem witness_CaskCommands_slot :
    ready0 4 (caskPage 2047) ∧ (caskPage 2047).fget F.CSK_PAGE_page < 2048
      ∧ sourceOk ((caskPage 2047).fget F.CSK_SADDR_addr) 2048 = true ∧ (caskPage 2047).wf = true ∧ (caskPage 2047).mode ≠ .startup
      ∧ (caskPage 2047).sw1 = true ∧ (caskPage 2047).isSplit = false ∧ ((caskPage 2047).fput F.SEAL_NOW_sw1 0).sw1 = false
      ∧ (sramBytes (caskPage 2047) 0 2048).1 = some (7 :: List.replicate 2047 0) := by unfold ready0; decide +kernel

theorem witness_CaskCommands_lookup :
    ready0 5 (caskLookup 9) ∧ (1 ≤ tParam ∧ tParam ≤ 9) ∧ lookupRec (caskLookup 9) tParam 9 = some rec0
      ∧ ready0 5 (caskLookup 8) ∧ lookupRec (caskLookup 8) tParam 8 = none := by unfold ready0; decide +kernel

theorem witness_RecordRoundTrip :
    (1 ≤ 9 ∧ 9 ≤ 9) ∧ (List.replicate 2024 0#8).length ≤ 2024 ∧ 0xFFFFFFFF < 2 ^ 32 ∧ ([] : List Byte).length + recSize 2024 ≤ 2048 := by
  decide +kernel

theorem witness_EventsAreQueuedAndAppended :
    caskQ.mode ≠ .reset ∧ caskQ.fget F.CSK_STAT_pfw = 0 ∧ caskQ.cask.queue.length < 64 ∧ pfw0.fget F.CSK_STAT_pfw = 1
      ∧ 64 ≤ (List.replicate 64 ev0).length ∧ caskQ.fget F.CSK_STAT_rdy = 1 ∧ jobBusy caskQ = false ∧ caskQ.cask.job = none
      ∧ caskQ.cask.queue = ev0 :: [] ∧ caskQ.cask.wpage ∉ caskQ.cask.lees ∧ 0 < caskQ.cask.woff
      ∧ caskQ.cask.woff + recSize (12 + ev0.data.length) ≤ 2048 := by decide +kernel

/-- A command append whose header and payload stand. -/
def caskJob : State :=
  { caskQ with cask := { caskQ.cask with job := some ⟨tParam, 9, 2, [5#8], 0, some (2048, 168)⟩ } }
/-- Records stand on 62 pages of 6144, with the fill threshold at one per cent. -/
def caskFull : State :=
  { cask0 with cask := { cask0.cask with
      recs := (List.range 62).map (fun i => ⟨2048 + i, 0, tCal, 0, 0, []⟩) } }.fput F.CSK_RCFG_fill 1
def caskRack : State := { cask0 with cask := { cask0.cask with rack := some ⟨1, 999000⟩ } }
def caskVint : State := { cask0 with vint := some ⟨1, List.replicate 32 7, 0x1234, 1024, 0⟩ }

theorem witness_CaskWorkCompletes :
    caskJob.cask.job = some ⟨tParam, 9, 2, [5#8], 0, some (2048, 168)⟩ ∧ caskWrites caskRack = true
      ∧ caskRack.cask.rack = some ⟨1, 999000⟩ ∧ jobBusy caskRack = false
      ∧ (layoutAt (usableOf caskRack.cask.lees 1) (recSize 144) ((readLive caskRack).1.map JRec.size ++ [recSize 16])).isSome = true
      ∧ (layoutAt [1] 0 [2048, recSize 16]).isSome = false
      ∧ caskVint.mode = .run ∧ caskWrites caskVint = true ∧ jobBusy caskVint = false ∧ livePair caskVint.cask.recs = none
      ∧ ((appendWhole caskVint tAccept 0 1 (acceptPayload caskVint ⟨1, List.replicate 32 7, 0x1234, 1024, 0⟩)).all
          (fun s => (allocateFresh s (recSize 48)).isSome)) = true
      ∧ (acceptPayload caskVint ⟨1, List.replicate 32 7, 0x1234, 1024, 0⟩).length = 48
      ∧ max (newestGen caskVint.cask.recs tAccept 0) (newestGen caskVint.cask.recs tAccept 1) + 1 = 1 := by decide +kernel

theorem witness_CaskWorkCompletes_trigger :
    caskWrites caskFull = true ∧ caskFull.cask.rack = none ∧ fillReached caskFull = true ∧ rackTarget caskFull = some 1 := by
  decide +kernel

/-! ### Witnesses: the host port and the read latches -/

/-- A write of zeros. -/
def word0 (addr : BitVec 24) (len : BitVec 16) : SpiReq := sentReq spiWrite addr len (List.replicate len.toNat 0)

theorem witness_HostRefusalsReported :
    run0.mode ≠ .reset ∧ spiWhole { word0 0 4 with crc := ~~~(word0 0 4).crc } = false
      ∧ spiFormOk (word0 0 1028) = false ∧ spiWhole (word0 0 6) = true ∧ spiFormOk (word0 0 6) = false
      ∧ spiWhole (word0 2 4) = true ∧ spiFormOk (word0 2 4) = true
      ∧ spiAddrOk (word0 2 4) = false ∧ spiAddrOk (word0 0x0CFFFE 4) = false ∧ spiAddrOk (word0 0x0FFFFC 4) = true
      ∧ spiWindowOk (run0.fput F.SYS_HWIN_base 0x1000) (word0 0x0FFFFC 4) = false
      ∧ (0x40000000 ≤ 0x40002000 ∧ 0x40002000 % 4 = 0 ∧ inSpan 0x40002000 = false)
      ∧ writeRefused run0 .host R.SYS_STATE 1#32 = true ∧ writeRefused run0 .pair R.SYS_STATE 1#32 = true
      ∧ run0.isSplit = false := by decide +kernel

theorem witness_HostPortTransactions :
    run0.mode ≠ .reset ∧ (0x0CFFFC#24).toNat < 0x0D0000 ∧ (0x0CFFFC#24).toNat % 4 = 0 ∧ inSpan (0x40000000 + (0x0CFFFC#24).toNat) = true
      ∧ (regWrite run0 .host R.SEAL_EV 1#32).1 = .done ∧ inSpan R.SEAL_EV = true
      ∧ ((0x0A#8) ≠ spiRead ∧ (0x0A#8) ≠ spiWrite ∧ (0x0A#8) ≠ spiRepeat) := by decide +kernel

/-- The host has read the lower half of the tick count. -/
def latchState : State := { run0 with spi := { Spi.reset with latchH := ⟨[(R.PRS_TICKH, 5#32)]⟩ } }

theorem witness_ReadLatchesAreApart :
    latchState.mode ≠ .reset ∧ inSpan (BitVec.ofNat 32 R.PRS_TICKL).toNat = true ∧ (BitVec.ofNat 32 R.PRS_TICKL).toNat % 4 = 0
      ∧ noTrigger latchState .pair onLoad (BitVec.ofNat 32 R.PRS_TICKL) = true
      ∧ isHost .pair ≠ isHost .host ∧ R.PRS_TICKH ∈ latches R.PRS_TICKL
      ∧ (latchOf latchState .host).find R.PRS_TICKH = some 5#32 ∧ (latchOf latchState .pair).find R.PRS_TICKH = none
      ∧ split0.inLockstep = false ∧ latchState.mode = .run ∧ (inMode .safe).mode ≠ .run
      ∧ inSpan (0x50000000#32).toNat = false ∧ (0x40000002#32).toNat % 4 ≠ 0 := by
  decide +kernel

/-! ### Witnesses: sessions -/

/-- A configuration with one session (CID 5, period 1000, two bytes of payload, a limit of 12 000) and one stream. -/
def netImage (sid role xport : Byte) : Mem :=
  (if sid = 0 then [] else [(0x9650, sid)]) ++ [(0x9651, role), (0x9652, 2#8), (0x9653, xport), (0x9654, 5#8), (0x9658, 0xE8#8), (0x9659, 3#8)]
    ++ (if role = 2 then [(0x965C, 0xE0#8), (0x965D, 0x2E#8)] else [(0x9660, 0xE0#8), (0x9661, 0x2E#8)])
    ++ [(0x9670, 2#8), (0xBE51, 1#8)]
def half0 (st : SesSt) : SesHalf := { SesHalf.reset with st := st }
/-- That session in RUN of the module, with its state. -/
def sesState (sid : Nat) (role : Nat) (xport : Byte) (h : SesHalf) : State :=
  let m := netImage (BitVec.ofNat 8 sid) (BitVec.ofNat 8 role) xport
  ({ run0 with la := { LaneSt.reset with cfg := m }
               lb := { LaneSt.reset with cfg := m.map (fun e : Nat × Byte => (e.1, ~~~e.2)) }
               vint := some ⟨0, [], 0, 1024, 0⟩
               ses := ⟨[(sid, { Ses.reset with ha := h, hb := h.cpl })]⟩ }).fput (F.SES_CFG_role sid) role
/-- What the engine knows of it. -/
def ses0 (sid role xport : Nat) (peer : List Byte) : SesNet :=
  ⟨sid, role, 2, xport, 5, 1000, 12000, 0, 0, false, 0, peer⟩
def peer0 : List Byte := [2, 0, 0, 0, 0, 0]
def heard (st : SesSt) (win : Nat) : SesHalf := { half0 st with win := some win }
/-- A half in OPENING that is about to send its last number there. -/
def last0 : SesHalf := { half0 .opening with vSent := 65534#32 }

theorem witness_SessionTimes :
    sesCfgOf (sesState 159 2 3 (heard .run 988000)) 159 = some (ses0 159 2 3 peer0)
      ∧ (sesState 159 2 3 (heard .hold 988000)).mode = .run
      ∧ (sesState 159 2 3 (heard .hold 988000)).fget (F.SES_CFG_role 159) = (ses0 159 2 3 peer0).role
      ∧ (heard .run 988000).win = some 988000 ∧ 988000 + (ses0 159 2 3 peer0).lim ≤ run0.now
      ∧ run0.now < 988001 + (ses0 159 2 3 peer0).lim
      ∧ sesCfgOf (sesState 159 1 3 (heard .run 988000)) 159 = some (ses0 159 1 3 peer0)
      ∧ (sesState 159 1 3 (heard .run 988000)).fget (F.SES_CFG_role 159) = 1
      ∧ ((sesState 159 2 3 (half0 .failed)).sess 159).ha.st = .failed ∧ (half0 .failed).failAt + 1000000 ≤ run0.now
      ∧ sesCfgOf (sesState 0 1 3 (half0 .opening)) 0 = some (ses0 0 1 3 peer0)
      ∧ sesSends (sesState 0 1 3 (half0 .opening)) (ses0 0 1 3 peer0) = true ∧ run0.now % 1000 = 3 * 0 % 1000
      ∧ ((sesState 0 1 3 (half0 .opening)).sess 0).sentAt ≠ some (run0.now, false)
      ∧ ((half0 .opening).st == .opening && (half0 .opening).vSent + 1#32 == 65535#32) = false
      ∧ (last0.st == .opening && last0.vSent + 1#32 == 65535#32) = true := by decide +kernel

/-- A data telegram of sequence number 1, its check values from two copies of which Lane B's holds the given data. -/
def teleBody (d : List Byte) : List Byte := teleHead (vfWord 2 false false false) 5 1 999000 999500 ++ d
def teleOf (d : List Byte) : List Byte := buildTele (1, 5, teleBody [0xA5, 0x5A]) (1, 5, teleBody d)
def tele0 : List Byte := teleOf [0xA5, 0x5A]
/-- A consumer in RUN with a telegram in the engine's queue. -/
def teleState (l : List Byte) (rej : Option Nat) : State :=
  let s := sesState 159 2 3 { heard .run 999000 with rejAt := rej }
  { s with net := { s.net with engine := [(159, l)] } }

theorem witness_TelegramsAreJudged :
    (teleState tele0 none).mode = .run ∧ (teleState tele0 none).net.engine = (159, tele0) :: []
      ∧ sesCfgOf (teleState tele0 none) 159 = some (ses0 159 2 3 peer0)
      ∧ sesCfgB (teleState tele0 none) 159 = some (ses0 159 2 3 peer0)
      ∧ ((teleState tele0 none).sess 159).hb.restore = ((teleState tele0 none).sess 159).ha
      ∧ ((teleState tele0 none).sess 159).ha.st = .run
      ∧ ((teleState tele0 none).sess 159).fltAt ≠ some (teleState tele0 none).now
      ∧ (teleState tele0 none).fget (F.SES_CFG_role 159) = 2
      ∧ ((teleState tele0 none).sess 159).ha.win = some 999000 ∧ (teleState tele0 none).now < 999000 + (ses0 159 2 3 peer0).lim := by
  decide +kernel

theorem witness_TelegramsAreJudged_accepted :
    formatOk (ses0 159 2 3 peer0) (readTele tele0) = true ∧ (readTele tele0).opn = false ∧ (readTele tele0).fs = false
      ∧ virtualSeq ((teleState tele0 none).sess 159).ha.vLast (readTele tele0) = some 1
      ∧ c32Ok (ses0 159 2 3 peer0) 1 (readTele tele0) = true ∧ c16Ok (ses0 159 2 3 peer0) 1 (readTele tele0) = true
      ∧ ageOf (teleState tele0 none).stamp (readTele tele0).echo < (ses0 159 2 3 peer0).lim := by decide +kernel

theorem witness_TelegramsAreJudged_rejected :
    formatOk (ses0 159 2 3 peer0) (readTele [0#8]) = false ∧ ((teleState [0] none).sess 159).ha.rejAt = none
      ∧ ((teleState [0] (some 1)).sess 159).ha.rejAt = some 1 ∧ (teleState [0] (some 1)).now < 1 + 1000000
      ∧ formatOk (ses0 159 2 3 peer0) (readTele (teleOf [0])) = true ∧ (readTele (teleOf [0])).opn = false
      ∧ virtualSeq ((teleState (teleOf [0]) none).sess 159).ha.vLast (readTele (teleOf [0])) = some 1
      ∧ c16Ok (ses0 159 2 3 peer0) 1 (readTele (teleOf [0])) = false
      ∧ ageOf (teleState tele0 none).stamp (readTele (teleOf [0])).echo < (ses0 159 2 3 peer0).lim := by decide +kernel

theorem witness_TelegramRoundTrip :
    0xFFFFFFFF < 2 ^ 32 ∧ (ses0 159 2 3 peer0).cid < 2 ^ 32 ∧ ([0xA5#8, 0x5A#8]).length ≤ 31
      ∧ ([0xA5#8, 0x5A#8]).length = (if false then 0 else (ses0 159 2 3 peer0).plen) ∧ (true = true → false = false)
      ∧ ([] : List Byte).length = (if true then 0 else (ses0 159 2 3 peer0).plen)
      ∧ crc16 (checkBlock 1 5 (teleBody [0])) ≠ crc16 (checkBlock 1 5 (teleBody [0xA5, 0x5A])) := by decide +kernel

/-! ### Witnesses: the switch -/

def qframe0 : QFrame := ⟨frame0, 64, 1, none, false, false⟩
/-- One port of the module in RUN. -/
def portState (p : Nat) (x : Port) : State := run0.setPort p x
/-- A port with a link at 1000 Mbit/s and one frame waiting in queue 5; queue 7 waits too, and is paused. -/
def linkPort : Port :=
  { Port.reset with link := some .m1000, queues := ⟨[(5, [qframe0]), (7, [qframe0])]⟩, pauseTo := ⟨[(15, 2000000)]⟩ }

theorem witness_LinkDownEmptiesPort :
    ((portState 4 linkPort).port 4).link = some .m1000 ∧ ((portState 3 Port.reset).port 3).link = none := by decide +kernel

theorem witness_PortsWork :
    run0.mode ≠ .reset ∧ run0.fget (F.NET_PCFG_en 0) = 1 ∧ speedOk run0 0 .m100 = true ∧ speedOk run0 4 .g2500 = true
      ∧ (run0.port 4).link = none ∧ ((portState 4 linkPort).port 4).link = some .m1000 ∧ gatesOf (portState 4 linkPort) 4 = []
      ∧ ((portState 4 linkPort).port 4).commit = none ∧ qframe0.f.etype ≠ etPtp ∧ pausedQ (portState 4 linkPort) 4 7 = true
      ∧ ((portState 4 linkPort).fput (F.NET_PCFG_rbrk 4) 1).fget (F.NET_PCFG_rbrk 4) = 1
      ∧ (10 : Nat) ∈ pausesOf (portState 2 { Port.reset with pauseTo := ⟨[(10, 1000000)]⟩ }) 2 2
      ∧ (3 : Nat) ∈ pausesOf (portState 2 { Port.reset with pauseTo := ⟨[(3, 1000000)]⟩ }) 2 3
      ∧ pausesOf (portState 4 linkPort) 4 7 = [15] ∧ (portState 4 linkPort).now < 2000000
      ∧ ((portState 4 linkPort).port 4).busyTo < ((portState 4 linkPort).now + 1) * 1000
      ∧ pickQueue (portState 4 linkPort) 4 .m1000 = some (5, qframe0) ∧ (5 < 7 ∧ 7 < 8)
      ∧ ((portState 1 { Port.reset with xoff := ⟨[(1, 999000)]⟩ }).port 1).xoff.find (1 : Fin 2).val = some 999000
      ∧ 999000 + 1000 ≤ run0.now ∧ (run0.port 1).pool.get 0 1 ≤ 8192 ∧ (run0.port 1).head.get 0 1 = 0
      ∧ run0.fget (F.NET_PCFG_fc 1) = 0 ∧ run0.fget (F.NET_PCFG_rbrk 1) = 0
      ∧ (run0.fput (F.NET_PCFG_rbrk 1) 1).fget (F.NET_PCFG_rbrk 1) = 1 ∧ (run0.fput (F.NET_PCFG_fc 1) 2).fget (F.NET_PCFG_fc 1) ≠ 0
      ∧ ((portState 2 { Port.reset with pauseTo := ⟨[(3, 1000000)]⟩ }).port 2).pauseTo.find 3 = some 1000000
      ∧ sesCfgOf (sesState 159 1 2 (half0 .run)) 159
          = some (ses0 159 1 2 [2, 0, 0, 0, 0, 0, 0, 0, 0, 0, 0, 0, 0, 0, 0, 0])
      ∧ (hopMac (sesState 159 1 2 (half0 .run)) (ses0 159 1 2 [2, 0, 0, 0, 0, 0, 0, 0, 0, 0, 0, 0, 0, 0, 0, 0])).isSome = false
      ∧ (hopOf (sesState 159 1 2 (half0 .run)) (ses0 159 1 2 [2, 0, 0, 0, 0, 0, 0, 0, 0, 0, 0, 0, 0, 0, 0, 0])).at_ + 1000000 ≤ run0.now
      ∧ ((portState 3 { Port.reset with commit := some [⟨0xFF, 15625⟩] }).port 3).commit = some [⟨0xFF, 15625⟩]
      ∧ 0 < gateCycle [⟨0xFF, 15625⟩] ∧ run0.asTime run0.now % (gateCycle [⟨0xFF, 15625⟩] : Int) = 0 ∧ gatesOf run0 3 = [] := by
  decide +kernel

/-- The switch forwards, VLAN 1 has all ports, and port 4 has a link. -/
def fwdState : State :=
  let s := (portState 4 linkPort).fput F.NET_CTL_fwd 1
  { s with net := { s.net with vlans := ⟨[(0, 0xBE000001#32)]⟩ } }
/-- A slave port whose last Sync came three intervals ago, with the hub on 802.1AS time. -/
def slaveState : State :=
  ((portState 4 { Port.reset with role := 2, syncAt := [1000000000 - 3 * syncNs run0] }).fput F.NET_TSTAT_sync 1).fput F.PRS_SYNC_src 2
/-- A port that heard an Announce three seconds ago. -/
def annState : State :=
  { portState 0 { Port.reset with best := some ⟨0, 0, 0, 0, 0, 0, 0, 0⟩, annAt := 0 } with tick := 3000000#64 }
/-- A stream that sends. -/
def streamState : State :=
  let s := sesState 159 1 3 (half0 .run)
  { s with streams := ⟨[(0, { Stream.reset with live := true, span := 16 })]⟩ }

theorem witness_FramesAndTime :
    (fwdState.port 4).link = some .m1000 ∧ fwdState.mode ≠ .reset ∧ fwdState.fget (F.NET_PCFG_en 4) = 1
      ∧ frameLen { frame0 with payload := [] } < 64 ∧ maxFrame fwdState 4 < frameLen { frame0 with payload := List.replicate 1505 0 }
      ∧ (64 ≤ frameLen frame0 ∧ frameLen frame0 ≤ maxFrame fwdState 4) ∧ frame0.fcsOk = true ∧ frame0.etype ≠ etPause
      ∧ frame0.etype ≠ etPtp ∧ fwdState.fget F.NET_CTL_fwd = 1 ∧ fwdState.fget (F.NET_PCFG_rbrk 4) = 0
      ∧ (fwdState.fput (F.NET_PCFG_rbrk 4) 1).fget (F.NET_PCFG_rbrk 4) = 1 ∧ vlanRing 0xBE000001#32 = false
      ∧ { frame0 with etype := etPause }.etype = etPause ∧ frameLen { frame0 with etype := etPause } ≤ maxFrame fwdState 4
      ∧ vlanOf fwdState (frameVid (classify fwdState 4 frame0)) = some 0xBE000001#32 ∧ vlanMember 0xBE000001#32 4 = true
      ∧ fwdState.net.macs.length < 4096 ∧ multicast frame0.src = false
      ∧ ((portState 4 { linkPort with role := 1 }).port 4).role = 1
      ∧ ((portState 4 { linkPort with role := 1 }).fput (F.NET_PSTAT_ascap 4) 1).fget (F.NET_PSTAT_ascap 4) = 1 ∧ linkPort.pdLost ≤ allowedLost ∧ dueAt run0 none (syncNs run0 / 1000) = true
      ∧ (slaveState.port 4).role = 2 ∧ (slaveState.port 4).syncAt.headD 0 + 3 * syncNs slaveState ≤ slaveState.now * 1000
      ∧ slaveState.fget F.NET_TSTAT_sync = 1 ∧ slaveState.mode = .run ∧ slaveState.fget F.PRS_SYNC_src = 2
      ∧ slaveState.hub.lost = false ∧ (annState.port 0).best.isSome = true ∧ (annState.port 0).annAt + 3000000 ≤ annState.now
      ∧ (⟨[(159, ⟨7, [], 996000⟩)]⟩ : Tab Frer).find 159 = some ⟨7, [], 996000⟩ ∧ 996000 + 4 * 1000 ≤ run0.now
      ∧ (imgA streamState).strOffs[(0 : Fin 8).val]? = some 0xBE50 ∧ (streamState.stream 0).live = true
      ∧ ((streamState.stream 0).frame + 1) * (streamState.stream 0).span + 9 ≤ streamState.now := by decide +kernel

/-! ### Witnesses: the Tandem pair -/

/-- A split request made at a microtick. -/
def reqState (at_ : Nat) : State := { run0.fput F.TND_STAT_spend 1 with tnd := { Tandem.reset with reqAt := at_ } }
def merge0 : State := split0.fput F.TND_STAT_mpend 1

theorem witness_SplitAndMerge :
    (reqState 999001).mode ≠ .reset ∧ (reqState 999001).tnd.halted = false ∧ (reqState 999001).fget F.TND_STAT_mode = 0
      ∧ (reqState 999001).fget F.TND_STAT_spend = 1 ∧ (reqState 999001).now < 999001 + 1000
      ∧ 999000 + 1000 ≤ (reqState 999000).now
      ∧ split0.isSplit = true ∧ split0.tnd.expired = false ∧ split0.tnd.warned = false
      ∧ split0.tnd.splitAt + 3 * (split0.tnd.budget * 1000) / 4 ≤ split0.now
      ∧ merge0.fget F.TND_STAT_mode = 1 ∧ merge0.fget F.TND_STAT_mpend = 1 ∧ merge0.tnd.halted = false
      ∧ merging0.fget F.TND_STAT_mode = 2 ∧ { merging0 with tick := 999999#64 }.now < merging0.tnd.mergeAt + 1000
      ∧ { merging0 with tick := 999999#64 }.now < budgetEnd merging0 ∧ merging0.tnd.haltReq = false ∧ merging0.mode = .run
      ∧ mtcmp (((run0.rput R.TND_MTCMPH 0#32).rput R.TND_MTCMPL 1000000#32)) ≤ run0.now := by decide +kernel

/-- The main core takes the timer interrupt. -/
def timerState : State :=
  { ((run0.fput F.TND_MSIP_msip 1).rput R.TND_MTCMPH 0#32).rput R.TND_MTCMPL 1000000#32 with tnd := { Tandem.reset with main := { Core.reset with csr := ⟨[(csrMstatus, 8#32), (csrMie, 0x880#32)]⟩ } } }
/-- The same with the software interrupt enabled as well. -/
def softState : State :=
  { timerState with tnd := { Tandem.reset with main := { Core.reset with csr := ⟨[(csrMstatus, 8#32), (csrMie, 0x88#32)]⟩ } } }

theorem witness_SplitAndMerge_interrupts :
    mipWord timerState = 0x88#32 ∧ (match exec .machineTimerInterrupt timerState with
        | .next t => t.tnd.main.csrOf csrMcause | _ => 0#32) = 0x80000007#32
      ∧ (match exec .machineTimerInterrupt softState with
        | .next t => t.tnd.main.csrOf csrMcause | _ => 0#32) = 0x80000003#32
      ∧ (coreInterrupts timerState).tnd.main.csrOf csrMcause = 0#32
      ∧ (coreInterrupts softState).tnd.main.csrOf csrMcause = 0x80000003#32
      ∧ (!run0.tnd.halted && (run0.tnd.main.csrOf csrMstatus).getLsbD 3) = false := by
  decide +kernel

/-- The debug module is active where SW1 allows it. -/
def debugState (mode : Mode) (on halted : Bool) : State :=
  { keyed mode with tnd := { Tandem.reset with dmact := on, halted := halted, haltC := halted, ddlEnd := 1000500 } }
/-- The same in TWIN, with hart 1 selected. -/
def twinDebug : State :=
  { (keyed .twin).fput F.TND_STAT_mode 3 with tnd := { Tandem.reset with dmact := true, hart := true } }

/-- Trigger 0 of the main core: a load at 0x20, with the action given. -/
def trigState (action : Word) : State :=
  { debugState .run true false with tnd := { (debugState .run true false).tnd with
      main := { Core.reset with trig := ⟨[(0, 0x28000041#32 ||| (action <<< 12)), (1, 0x20#32)]⟩ } } }
/-- A halted pair that is to step once when it resumes. -/
def stepState : State :=
  { debugState .run true true with tnd := { (debugState .run true true).tnd with main := Core.reset.csrBit csrDcsr 2 true } }

theorem witness_DebugWorks_triggers :
    trigOf (trigState 0) .pair onLoad 0x20#32 = some false ∧ trigOf (trigState 1) .pair onLoad 0x20#32 = some true
      ∧ trigOf (trigState 1) .pair onLoad 0x24#32 = none ∧ trigOf (trigState 1) .pair onFetch 0x20#32 = none
      ∧ offBus (trigState 1) .pair 0x20 = false ∧ (trigState 1).tnd.dmact = true ∧ (trigState 1).isSplit = false
      ∧ (trigState 1).mode ≠ .reset ∧ (stepState.tnd.main.csrOf csrDcsr).getLsbD 2 = true
      ∧ (Core.reset.csrOf csrDcsr).getLsbD 2 = false ∧ debugPermit stepState = true ∧ stepState.tnd.halted = true := by
  decide +kernel

theorem witness_DebugWorks :
    debugPermit (debugState .idle false false) = true ∧ (debugState .idle false false).tnd.halted = false
      ∧ debugPermit run0 = false ∧ ({ run0 with tnd := { Tandem.reset with dmact := true } }).tnd.dmact = true
      ∧ debugPermit { run0 with tnd := { Tandem.reset with dmact := true } } = false
      ∧ debugPermit (debugState .run true false) = true ∧ (debugState .run true false).isSplit = false
      ∧ (debugState .run true false).tnd.dropped = false ∧ (debugState .run true false).tnd.dmact = true
      ∧ selChk (debugState .run true false) = false
      ∧ debugPermit { debugState .run false false with tnd := { Tandem.reset with dropped := true } } = true
      ∧ debugPermit twinDebug = true ∧ twinDebug.tnd.dmact = true ∧ selChk twinDebug = true ∧ twinDebug.tnd.haltC = false
      ∧ debugPermit ((debugState .run true false).fput F.TND_STAT_mode 1) = true
      ∧ ((debugState .run true false).fput F.TND_STAT_mode 1).isSplit = true
      ∧ debugPermit (debugState .run true true) = true ∧ (debugState .run true true).tnd.halted = true
      ∧ (debugState .run true true).wf = true ∧ (0x20000001#32).toNat % 4 ≠ 0 ∧ (0x1003FFFC#32).toNat % 4 = 0
      ∧ regionOf (0x1003FFFC#32).toNat = .tcm ∧ (debugState .run true true).inLockstep = true
      ∧ (debugState .run true true).tnd.cmderr = 0 ∧ (debugState .run true false).tnd.cmderr = 0
      ∧ debugPermit { debugState .run true true with tnd := { (debugState .run true true).tnd with cmderr := 3 } } = true
      ∧ (debugState .run true true).tnd.dropped = false := by decide +kernel

/-! ### Witnesses: boot ROM and fuses -/

/-- A firmware image of 224 bytes whose entries are 0 and 8, signed so that u1 = u2 = 1 (made by hand from R473). -/
def fwBytes : List Byte :=
   [83, 84, 86, 70, 0, 1, 0, 0, 224, 0, 0, 0, 1, 0, 0, 0, 0, 0, 0, 0, 0, 0, 0, 0, 8, 0, 0, 0, 0, 0, 0, 0, 131, 45, 170, 213,
    76, 121, 186, 228, 161, 158, 96, 217, 13, 20, 194, 25, 2, 82, 73, 49, 150, 142, 170, 152, 97, 17, 140, 152, 107, 73, 23,
    140, 111, 0, 0, 0, 111, 0, 0, 0, 111, 0, 0, 0, 111, 0, 0, 0, 1, 0, 0, 0, 147, 208, 83, 240, 81, 241, 75, 255, 37, 36,
    199, 77, 227, 233, 174, 190, 57, 191, 116, 13, 82, 188, 23, 41, 76, 101, 166, 200, 182, 97, 162, 245, 112, 237, 179,
    192, 156, 168, 204, 64, 179, 213, 186, 226, 113, 16, 224, 22, 250, 192, 118, 19, 89, 253, 104, 142, 138, 205, 165, 10,
    153, 126, 90, 69, 131, 45, 170, 213, 76, 121, 186, 228, 161, 158, 96, 217, 13, 20, 194, 25, 2, 82, 73, 49, 150, 142,
    170, 152, 97, 17, 140, 152, 107, 73, 23, 140, 131, 45, 170, 213, 76, 121, 186, 228, 161, 158, 96, 217, 13, 20, 194, 25,
    2, 82, 73, 49, 150, 142, 170, 152, 97, 17, 140, 152, 107, 73, 23, 140, 0, 0, 0, 0, 0, 0, 0, 0, 0, 0, 0, 0]
/-- The vendor key hash that fits it. -/
def fwVendor : List Byte :=
   [234, 11, 156, 80, 157, 25, 1, 9, 7, 126, 185, 250, 4, 136, 227, 208, 16, 129, 26, 240, 195, 69, 174, 20, 24, 124, 180,
    160, 131, 14, 50, 66]
/-- SRAM holds these bytes from offset 0, and the fuses that key hash. -/
def romState (m : Mode) (l : List Byte) : State :=
  let s := inMode m
  { s with memc := { s.memc with sram := { s.memc.sram with bytes := memPutList 0 [] 0 l, valid := ⟨(List.range 60).map (fun i => (i, true))⟩ } }
           otp := { s.otp with shadow := { s.otp.shadow with vendor := fwVendor } }
           boot := { s.boot with phase := .hostWait, fwRun := false } }
/-- A call of the fuse service stands in SRAM: operation, index, address and level. -/
def heldCall (op : Byte) : State := romState .held [op, 0, 0, 0, 0, 0, 0, 0, 0, 0, 0, 0x20, 1, 0, 0, 0]

theorem witness_MailboxCommands :
    romServes (romState .held []) = true ∧ romServes (romState .startup fwBytes) = true ∧ romServes (romState .twin fwBytes) = true
      ∧ (romState .twin []).mode ≠ .held ∧ (heldCall 3).otp.call = false ∧ (16#24).toNat % 4 = 0 ∧ (0#24).toNat + 16 ≤ 0x100000
      ∧ (sramBytes (heldCall 3) (0#24).toNat 16).1 = some [3, 0, 0, 0, 0, 0, 0, 0, 0, 0, 0, 0x20, 1, 0, 0, 0]
      ∧ (1 ≤ le [3, 0, 0, 0] 0 4 ∧ le [3, 0, 0, 0] 0 4 ≤ 3) ∧ (romState .twin []).mode ≠ .startup
      ∧ romServes (sealing 3 none) = true ∧ romBusy (sealing 3 none) = true ∧ romBusy (romState .startup []) = false
      ∧ (romState .startup []).mode = .startup
      ∧ (sramImage (romState .startup [])).2.mode = .startup := by decide +kernel

theorem witness_MailboxCommands_accepted :
    sramImage (romState .startup fwBytes) = (fwBytes, romState .startup fwBytes)
      ∧ fwAccepted (imgOf fwBytes) fwBytes.length (romState .startup fwBytes).otp.shadow.vendor = true := by decide +kernel

theorem witness_MailboxCommands_refused :
    fwAccepted (imgOf (sramImage (romState .twin [])).1) (sramImage (romState .twin [])).1.length
      (romState .twin []).otp.shadow.vendor = false := by decide +kernel

/-- The fuse service may be called: IDLE with SW1 on. -/
def fuseState : State := keyed .idle

theorem witness_FuseCallsProgram :
    fuseState.mode ≠ .reset ∧ fuseState.otp.call = false ∧ (Requester.pair = .pair) ∧ (7 < 8 ∧ serviceState fuseState 1 = 0)
      ∧ serviceLock fuseState 7 = 0 ∧ (serviceData fuseState (0x20000000#32).toNat (slotLen 7)).1 = some (List.replicate (slotLen 7) 0)
      ∧ wouldClear fuseState (slotTarget 7 (List.replicate (slotLen 7) 0)) = false
      ∧ (8 < 9 ∧ serviceState fuseState 2 = 0) ∧ serviceLock fuseState 8 = 0 ∧ serviceState fuseState 3 = 0
      ∧ fuseState.fget F.OTP_LEVEL_lvl < (128#8).toNat ∧ (128#8).toNat ≤ 128 ∧ wouldClear fuseState (levelTarget 128) = false
      ∧ fuseState.mode ≠ .run ∧ run0.sw1 = false ∧ run0.otp.call = false
      ∧ aboveVintage { run0 with vint := some ⟨0, [], 0, 1024, 3⟩ } 3 = false := by decide +kernel

/-! ### Witnesses: memories -/

/-- A word of SRAM with its address bytes. -/
def wordState : State :=
  { run0 with memc := { MemCtl.reset with sram := { Ram.reset with bytes := [(0x20, 7#8)], valid := ⟨[(8, true)]⟩ } } }
/-- The same word with its valid pair broken. -/
def badWord : State :=
  { wordState with memc := { wordState.memc with sram := { wordState.memc.sram with err := ⟨[(8, ⟨0, 0, 0, 1⟩)]⟩ } } }
def scrubbing : State := { run0 with memc := { MemCtl.reset with scrub := some (0x20000000, 0x20000008, 0, true, 5) } }
def remapping : State := { run0.fput F.EDC_REMAP_busy 1 with memc := { MemCtl.reset with remap := some (15, 999000) } }

theorem witness_MemoryAccesses :
    wordState.wf = true ∧ wordState.mode ≠ .reset ∧ regionOf (0x20000020#32).toNat = .sram ∧ mapReads wordState .pair true 0x20000020 = true
      ∧ noTrigger wordState .pair onFetch 0x20000020#32 = true ∧ noTrigger wordState .pair onStore 0x20000020#32 = true
      ∧ (sramAt wordState 0x20).1 = mSram ∧ ((wordState.ram mSram).view 0x20 none).cls = 0
      ∧ (wordState.ram mSram).valid.get false 8 = true ∧ (wordState.ram mSram).err.find 8 = none ∧ wordState.memc.remap = none
      ∧ sramWriteOk wordState .pair 0x20 = true ∧ 8#4 ≠ 0
      ∧ offBus wordState .checker 0x20000020 = true ∧ offBus wordState .pair 0x20000020 = false
      ∧ mapReads wordState .pair true 0x40000000 = false ∧ regionOf 0x40000000 = .regs ∧ regionOf 0x90000000 = .none
      ∧ (regionOf (0x20000020#32).toNat = .sram ∧ sramWriteOk split0 .checker 0x20 = false) ∧ offBus split0 .checker 0x20000020 = false
      ∧ uncorrectable ((badWord.ram mSram).view 0x20 none).cls = true ∧ badWord.wf = true
      ∧ safetyRel badWord mSram (sysAddr badWord mSram (0x20 / 4 * 4)) = false
      ∧ scrubbing.memc.scrub = some (0x20000000, 0x20000008, 0, true, 5) ∧ remapping.memc.remap = some (15, 999000)
      ∧ remapping.memc.remapped = none ∧ remapping.fget F.EDC_REMAP_busy = 1 ∧ remapping.mode = .run
      ∧ remapping.memc.sram.err = Tab.empty := by decide +kernel
/-! ### The spec's own examples, and small steps -/

def digits : List Byte := [0x31, 0x32, 0x33, 0x34, 0x35, 0x36, 0x37, 0x38, 0x39]

/-- R282: the check value of CRC-32C. -/
theorem test_crc32c : crc32c digits = 0xE3069283#32 := by decide +kernel
/-- R500: the check value of CRC-16. -/
theorem test_crc16 : crc16 digits = 0x29B1#16 := by decide +kernel
/-- R427: the check value of CRC-32. -/
theorem test_crc32 : crc32With 0xEDB88320#32 digits = 0xCBF43926#32 := by decide +kernel
/-- 16_address_map_and_host_port.md, worked example: the CRC of a request. -/
theorem test_host_request_crc : crc16 [0x0B, 0x01, 0x0B, 0x20, 0x00, 0x0C] = 0x3EB6#16 := by decide +kernel
/-- The same example: three words are read, and the trailer says so. -/
theorem test_host_read :
    (match step { run0 with pending := [.readWords ⟨0x0B#8, 0x010B20#24, 12, [], 0x3EB6#16⟩] } with
     | .next t => (t.pending.length, t.spi.done, (t.spi.resp.drop 13).take 4)
     | _ => (9, 9, [])) = (0, 3, [0, 0, 0, 3]) := by decide +kernel

/-- The same request with another CRC delivers nothing, and the trailer has code 2 (R500, R502). -/
theorem test_host_crc :
    (match step { run0 with pending := [.readWords ⟨0x0B#8, 0x010B20#24, 12, [], 0x3EB7#16⟩] } with
     | .next t => (t.spi.code, t.spi.done)
     | _ => (9, 9)) = (2, 0) := by decide +kernel

/-- The bytes of slot 37, as the worked example "one cell entry" of 04_press_and_vintage.md gives them. -/
def doorZone : Img := fun a =>
  if a = 0x70 then 0 else if a = 0x71 then 1 else if a = 0x74 then 0x60 else if a = 0x75 then 2
  else if a < 0x350 then 0
  else ([0x10, 0x02, 0x18, 0x90, 0x01, 0x00, 0x00, 0x00, 0xC8, 0x90, 0x0C, 0x50, 0xC3, 0x00, 0x00, 0x00] : List Byte).getD (a - 0x350) 0
theorem test_cell_entry : doorZone.cell 37 = ⟨37, 0x10, true, 0, false, [24, 25, 0, 0], 200, 201, 0xC350, []⟩ := by
  decide +kernel

/-- An image of firmware is accepted only under its vendor key, and not with one byte changed (R474). -/
theorem test_firmware_other_key : fwSigOk (imgOf fwBytes) (0 :: fwVendor.tail) = false := by decide +kernel
theorem test_firmware_changed : fwAccepted (imgOf (fwBytes.set 0x41 1)) 224 fwVendor = false := by decide +kernel

/-- STEP on an empty queue idles. -/
theorem test_idle : step run0 = .next run0 := by rfl

/-- 12_cask_journal_and_calibration.md, worked example "the brake current": raw code 2400 at 52 degrees. -/
def brakeCal : State :=
  let s := { run0 with cask := { Cask.reset with
    recs := [⟨2048, 168, tCal, 12, 1, List.replicate 32 0 ++ [3, 0, 0x8C, 0xA0, 0x90, 1, 0x40, 6, 31, 0, 0, 0, 0, 0, 0, 0]⟩] } }
  (((s.fput F.CSK_CAL_vld 1).fput F.CSK_CAL_gen 1).fput F.CSK_CALCFG_gb 10).fput F.CSK_CALCFG_gt 30
theorem test_calibrate : calibrate brakeCal 12 2 2400 52 = (6013, true) := by decide +kernel
theorem test_calibrate_in_range : (calibrate brakeCal 12 2 1720 61).2 = false := by decide +kernel
end Sys2Proof.Tests
end

section
/-! PROOFS. FIELD_SAMPLE and the filters of an input (R93, R97): which parts of one microtick reach the filter, what the
integrating counter does in it, and the frame of the command. -/

namespace Sys2Proof.Machine

/-! ### The parts of a microtick that leave the filter alone -/

/-- The state of both filters, the registers and flags that set them and the end of the hold are the same in two front ends. -/
structure SameFilter (f g : Fe) : Prop where
  held      : g.held = f.held
  committed : g.committed = f.committed
  cfgFlt    : g.cfgFlt = f.cfgFlt
  holdEnd   : g.holdEnd = f.holdEnd
  count     : g.count = f.count
  inn       : g.inn = f.inn
  run       : g.run = f.run
  lastRaw   : g.lastRaw = f.lastRaw

/-- And so is RAW. -/
structure SameInput (f g : Fe) : Prop extends SameFilter f g where
  raw : g.raw = f.raw

theorem SameFilter.trans {f g h : Fe} (fg : SameFilter f g) (gh : SameFilter g h) : SameFilter f h where
  held := gh.held.trans fg.held
  committed := gh.committed.trans fg.committed
  cfgFlt := gh.cfgFlt.trans fg.cfgFlt
  holdEnd := gh.holdEnd.trans fg.holdEnd
  count := gh.count.trans fg.count
  inn := gh.inn.trans fg.inn
  run := gh.run.trans fg.run
  lastRaw := gh.lastRaw.trans fg.lastRaw

theorem SameFilter.live {f g : Fe} (h : SameFilter f g) : g.live = f.live := by
  rw [Fe.live, h.committed, h.cfgFlt, Fe.live]

theorem SameFilter.reg {f g : Fe} (h : SameFilter f g) (r : Nat) : g.reg r = f.reg r := by
  rw [Fe.reg, h.held, Fe.reg]

theorem SameFilter.mode {f g : Fe} (h : SameFilter f g) : g.mode = f.mode := by rw [Fe.mode, h.reg, Fe.mode]

theorem SameFilter.nLim {f g : Fe} (h : SameFilter f g) : g.nLim = f.nLim := by rw [Fe.nLim, h.reg, Fe.nLim]

theorem SameInput.refl (f : Fe) : SameInput f f := ⟨⟨rfl, rfl, rfl, rfl, rfl, rfl, rfl, rfl⟩, rfl⟩

theorem SameInput.trans {f g h : Fe} (fg : SameInput f g) (gh : SameInput g h) : SameInput f h :=
  ⟨fg.toSameFilter.trans gh.toSameFilter, gh.raw.trans fg.raw⟩

/-! Writes to fields that the filter does not read, with the values written as variables: an operation of the model is
compared with one of these without computing what it writes. -/

theorem sameInput_bookFields (f : Fe) (src : Source) (limHs limLs : Option Nat) :
    SameInput f { f with src := src, limHs := limHs, limLs := limLs } :=
  ⟨⟨rfl, rfl, rfl, rfl, rfl, rfl, rfl, rfl⟩, rfl⟩

theorem sameInput_exerciseFields (f : Fe) (bank : Bool) (x : Option ExRun) (self : Word) :
    SameInput f { f with liveB := bank, exRun := x, selfReg := self } :=
  ⟨⟨rfl, rfl, rfl, rfl, rfl, rfl, rfl, rfl⟩, rfl⟩

theorem sameInput_uplinkFields (f : Fe) (word : BitVec 64) (reg : Nat) (up : Option (BitVec 64)) :
    SameInput f { f with upWord := word, upReg := reg, up := up } :=
  ⟨⟨rfl, rfl, rfl, rfl, rfl, rfl, rfl, rfl⟩, rfl⟩

theorem sameFilter_decisionFields (f : Fe) (raw : Bool) (band : BitVec 2) (wbrk ind : Nat) :
    SameFilter f { f with raw := raw, mband := band, wbrk := wbrk, ind := ind } :=
  ⟨rfl, rfl, rfl, rfl, rfl, rfl, rfl, rfl⟩

/-- The books of source, switches and supply that a microtick keeps before it decides RAW (R45, R239, R260, R262). -/
def sampleBooks (f : Fe) (t : Nat) (o : FieldObs) : Fe :=
  sampleSupply { f with
    src := sourceLimit f o.limSrc t
    limHs := limitRun (f.hs && o.limHs) f.limHs t
    limLs := limitRun (f.ls && o.limLs) f.limLs t }

theorem sameInput_sampleSupply (f : Fe) : SameInput f (sampleSupply f) := by
  unfold sampleSupply
  dsimp only
  split <;> exact ⟨⟨rfl, rfl, rfl, rfl, rfl, rfl, rfl, rfl⟩, rfl⟩

theorem sameInput_sampleBooks (f : Fe) (t : Nat) (o : FieldObs) : SameInput f (sampleBooks f t o) :=
  SameInput.trans (sameInput_bookFields f _ _ _) (sameInput_sampleSupply _)

/-- The output-stage test moves switches and its own notes (R458). -/
theorem sameInput_stageSample (f : Fe) (t : Nat) (v : Int) : SameInput f (stageSample f t v) := by
  unfold stageSample
  cases f.stRun with
  | none => exact .refl f
  | some t0 =>
    dsimp only [stageStep]
    split <;> exact ⟨⟨rfl, rfl, rfl, rfl, rfl, rfl, rfl, rfl⟩, rfl⟩

/-- An exercise of the comparators moves the banks, FE_SELF and its own notes (R456, R457). -/
theorem sameInput_exerciseSample (f : Fe) (t : Nat) (differ : Bool) : SameInput f (exerciseSample f t differ) := by
  unfold exerciseSample
  cases f.exRun with
  | none => exact .refl f
  | some x =>
    dsimp only
    split
    · split
      · exact sameInput_exerciseFields f _ _ _
      · exact .refl f
    · split
      · exact sameInput_exerciseFields f f.liveB _ _
      · exact .refl f

/-- RAW, BAND and the filter of one microtick, on top of its books. -/
def sampleFiltered (f : Fe) (n t : Nat) (o : FieldObs) : Fe :=
  sampleInput (sampleBooks f t o) n ((sampleBooks f t o).readV n o) ((sampleBooks f t o).readI n o) t

/-- Once a powered front end has sampled its input, nothing else in the microtick touches RAW or the filter. -/
theorem sameInput_sampleFe {f : Fe} (h : f.powered = true) (n t now : Nat) (o : FieldObs) :
    SameInput (sampleFiltered f n t o) (sampleFe f n t now o) := by
  have hs := sameInput_stageSample (sampleFiltered f n t o) t ((sampleBooks f t o).readV n o)
  have he := hs.trans (sameInput_exerciseSample _ t
    (banksDiffer (sampleBooks f t o) n ((sampleBooks f t o).readV n o) ((sampleBooks f t o).readI n o)))
  refine he.trans ?_
  unfold sampleFe
  rw [if_neg (not_not_intro h)]
  dsimp only
  split
  · exact sameInput_uplinkFields _ _ _ _
  · exact sameInput_uplinkFields _ _ _ _

/-! ### The decision of RAW, and what the mode does with it -/

/-- RAW and BAND of one microtick with the counters of R50 and R51, before the filter. -/
def decideInput (f : Fe) (n : Nat) (v i : Int) (now : Nat) : Fe :=
  let band := if f.mode = 2 then bandOf i else 0
  let raw := if f.mode = 2 then band == 1
    else if isInputMode f.mode then rawOf n f.itype f.liveB f.trim v i f.raw else false
  if now < f.holdEnd then { f with raw := raw, mband := band }
  else { f with
    raw := raw, mband := band
    wbrk := if f.mode = 2 ∧ band = 2 then f.wbrk + 1 else 0
    ind := if f.mode = 2 ∧ band = 3 then f.ind + 1 else 0 }

theorem sameFilter_decideInput (f : Fe) (n : Nat) (v i : Int) (now : Nat) : SameFilter f (decideInput f n v i now) := by
  unfold decideInput
  dsimp only
  split
  · exact sameFilter_decisionFields f _ _ f.wbrk f.ind
  · exact sameFilter_decisionFields f _ _ _ _

/-- What an input does in its mode once RAW is decided. -/
theorem sampleInput_eq (f : Fe) (n : Nat) (v i : Int) (now : Nat) :
    sampleInput f n v i now =
      let g := decideInput f n v i now
      if ¬ g.live then { restartFilter g with raw := g.raw }
      else if f.mode = 1 ∨ f.mode = 2 then (if now < f.holdEnd then g else integrate g g.raw)
      else if f.mode = 3 ∨ f.mode = 7 then debounce g g.raw
      else { g with inn := false } := by
  unfold sampleInput decideInput
  by_cases h : now < f.holdEnd
  · simp only [if_pos h]
  · simp only [if_neg h]

/-! ### The integrating counter (R93) -/

/-- A front end works with the integrating counter: a configuration in force, of a safety or a monitored input. -/
def Fe.integrates (f : Fe) : Prop := f.live = true ∧ (f.mode = 1 ∨ f.mode = 2)

theorem SameFilter.integrates {f g : Fe} (h : SameFilter f g) (hf : f.integrates) : g.integrates := by
  rw [Fe.integrates, h.live, h.mode]
  exact hf

/-- With the integrating counter, the hold of R60 leaves the input as it is decided; out of it RAW goes into the counter. -/
theorem sampleInput_of_integrates {f : Fe} (hf : f.integrates) (n : Nat) (v i : Int) (now : Nat) :
    sampleInput f n v i now =
      let g := decideInput f n v i now
      if now < f.holdEnd then g else integrate g g.raw := by
  obtain ⟨live, -⟩ := (sameFilter_decideInput f n v i now).integrates hf
  rw [sampleInput_eq]
  dsimp only
  rw [if_neg (not_not_intro live), if_pos hf.2]

theorem SameFilter.integrate_congr {f g : Fe} (h : SameFilter f g) (raw : Bool) :
    SameFilter (integrate f raw) (integrate g raw) := by
  have hn := h.nLim
  obtain ⟨held, committed, cfgFlt, holdEnd, count, inn, run, lastRaw⟩ := h
  unfold integrate
  rw [hn, count, inn]
  exact ⟨held, committed, cfgFlt, holdEnd, rfl, rfl, run, lastRaw⟩

theorem integrate_count_le {f : Fe} (h : f.count ≤ f.nLim) (raw : Bool) : (integrate f raw).count ≤ f.nLim := by
  cases raw with
  | true => exact Nat.min_le_right _ _
  | false => exact (Nat.sub_le _ _).trans h

/-- One microtick of a front end in the hold leaves the filter alone. -/
theorem sampleFe_held {f : Fe} (hp : f.powered = true) (hf : f.integrates) (n now : Nat) (o : FieldObs) {t : Nat}
    (h : t < f.holdEnd) : SameFilter f (sampleFe f n t now o) := by
  have books := (sameInput_sampleBooks f t o).toSameFilter
  refine SameFilter.trans ?_ (sameInput_sampleFe hp n t now o).toSameFilter
  rw [sampleFiltered, sampleInput_of_integrates (books.integrates hf), books.holdEnd, if_pos h]
  exact books.trans (sameFilter_decideInput _ n _ _ t)

/-- One microtick of a front end out of the hold feeds its RAW into the integrating counter. -/
theorem sampleFe_counts {f : Fe} (hp : f.powered = true) (hf : f.integrates) (n now : Nat) (o : FieldObs) {t : Nat}
    (h : f.holdEnd ≤ t) : SameFilter (integrate f (sampleFe f n t now o).raw) (sampleFe f n t now o) := by
  have books := (sameInput_sampleBooks f t o).toSameFilter
  have rest := sameInput_sampleFe hp n t now o
  refine SameFilter.trans ?_ rest.toSameFilter
  rw [rest.raw, sampleFiltered, sampleInput_of_integrates (books.integrates hf), books.holdEnd, if_neg (Nat.not_lt.mpr h)]
  exact (books.trans (sameFilter_decideInput _ n _ _ t)).integrate_congr _

/-- The count of one microtick stays from 0 to N, in the hold and out of it. -/
theorem sampleFe_count_le {f : Fe} (hp : f.powered = true) (hf : f.integrates) (n t now : Nat) (o : FieldObs)
    (hc : f.count ≤ f.nLim) : (sampleFe f n t now o).count ≤ f.nLim := by
  rcases Nat.lt_or_ge t f.holdEnd with h | h
  · exact (sampleFe_held hp hf n now o h).count.trans_le hc
  · exact (sampleFe_counts hp hf n now o h).count.trans_le (integrate_count_le hc _)

/-! ### The command -/

/-- FIELD_SAMPLE takes one microtick of its front end and, of all else, at most the channel's book, where the latch of the
source has been set (R45). -/
theorem exec_fieldSample (ch : Fin 48) (o : FieldObs) (s : State) :
    ∃ t, exec (.fieldSample ch o) s = .next t ∧ t = { s with fes := t.fes, chans := t.chans }
      ∧ t.fe ch = sampleFe (s.fe ch) ch s.fieldNow s.now o ∧ sameFesBut s t [ch.val]
      ∧ ((s.fe ch).src.latched = false → t.chans = s.chans) := by
  generalize hg : sampleFe (s.fe ch) ch s.fieldNow s.now o = g
  have hexec : exec (.fieldSample ch o) s =
      .next (if (s.fe ch).src.latched && !g.src.latched then causeGone (s.setFe ch g) ch (fun k => k == .source)
        else s.setFe ch g) := by
    subst hg
    rfl
  have other : sameFesBut s (s.setFe ch g) [ch.val] :=
    fun m hm => State.setFe_fe_ne s g (List.ne_of_not_mem_cons hm)
  refine ⟨_, hexec, ?_⟩
  split
  next gone =>
    refine ⟨rfl, State.setFe_fe_same s _ _, other, fun h => ?_⟩
    rw [h] at gone
    exact absurd gone Bool.false_ne_true
  next => exact ⟨rfl, State.setFe_fe_same s _ _, other, fun _ => rfl⟩

/-- Settles O18: the count and IN of one microtick, in the hold and out of it, under the frame of FIELD_SAMPLE. -/
theorem integratingCounterCounts : Obligations.IntegratingCounterCounts := by
  unfold Obligations.IntegratingCounterCounts
  intro ch o s f hp hl hm
  obtain ⟨t, hexec, hframe, hfe, hothers, hchans⟩ := exec_fieldSample ch o s
  refine ⟨t, hexec, hframe, hothers, hchans, ?_⟩
  rw [hfe]
  refine ⟨sampleFe_count_le hp ⟨hl, hm⟩ ch _ _ o, fun h => ?_, fun h => ?_⟩
  · have same := sampleFe_held hp ⟨hl, hm⟩ ch s.now o h
    exact ⟨same.count, same.inn⟩
  · have same := sampleFe_counts hp ⟨hl, hm⟩ ch s.now o h
    refine ⟨same.count, ?_⟩
    rw [same.inn, same.count]
    rfl

end Sys2Proof.Machine
end

section
/-! PROOFS. LINK_CHANGE to down (R312): what leaves the egress queues, the links and the drop counters alone, what a port's flush
does to them, and the command. -/

namespace Sys2Proof.Machine

/-! ### Operations that leave the queues alone -/

/-- At most the registers, the switch and the hub differ. -/
def NetHubOnly (s t : State) : Prop := t = { s with regs := t.regs, net := t.net, hub := t.hub }

theorem NetHubOnly.trans {s t u : State} (h : NetHubOnly s t) (h' : NetHubOnly t u) : NetHubOnly s u := by
  unfold NetHubOnly at *
  rw [h', h]

theorem NetOnly.toNetHubOnly {s t : State} (h : NetOnly s t) : NetHubOnly s t := by
  unfold NetOnly NetHubOnly at *
  rw [h]

theorem NetHubOnly.keeps {s t : State} (h : NetHubOnly s t) :
    t.mode = s.mode ∧ sameFesBut s t [] ∧ sameMemories s t ∧ sameFuses s t := by
  rw [h]
  exact ⟨rfl, fun _ _ => rfl, ⟨fun _ => rfl, fun _ => rfl, fun _ => rfl, fun _ => rfl, fun _ => rfl, rfl, rfl⟩, rfl, rfl⟩

/-- Every port keeps its link, its egress queues and its register of drops, and nothing outside the registers, the switch and the
hub differs. -/
structure SameQueues (s t : State) : Prop where
  link   : ∀ p, (t.port p).link = (s.port p).link
  queues : ∀ p, (t.port p).queues = (s.port p).queues
  drops  : ∀ p, t.rget (R.NET_QDROP p) = s.rget (R.NET_QDROP p)
  rest   : NetHubOnly s t

namespace SameQueues

theorem refl (s : State) : SameQueues s s := ⟨fun _ => rfl, fun _ => rfl, fun _ => rfl, rfl⟩

theorem trans {s t u : State} (h : SameQueues s t) (h' : SameQueues t u) : SameQueues s u where
  link p := (h'.link p).trans (h.link p)
  queues p := (h'.queues p).trans (h.queues p)
  drops p := (h'.drops p).trans (h.drops p)
  rest := h.rest.trans h'.rest

/-- A field of any register but the drop counters: only these stand at 0x18 of a block of 256 bytes. -/
theorem fput {s t : State} (h : SameQueues s t) (f : Fld) (v : Nat) (hf : f.addr % 256 ≠ 0x18 := by decide) :
    SameQueues s (t.fput f v) :=
  h.trans ⟨fun _ => rfl, fun _ => rfl,
    fun p => State.fput_rget_ne t v (fun hp => hf (by rw [← hp, R.NET_QDROP]; omega)), rfl⟩

theorem setPort {s t : State} (h : SameQueues s t) (p : Nat) (x : Port)
    (hl : x.link = (t.port p).link := by rfl) (hq : x.queues = (t.port p).queues := by rfl) : SameQueues s (t.setPort p x) := by
  have kept (m : Nat) :
      ((t.setPort p x).port m).link = (t.port m).link ∧ ((t.setPort p x).port m).queues = (t.port m).queues := by
    by_cases hm : m = p
    · rw [hm, State.setPort_port_same]
      exact ⟨hl, hq⟩
    · rw [State.setPort_port_ne t x hm]
      exact ⟨rfl, rfl⟩
  exact h.trans ⟨fun m => (kept m).1, fun m => (kept m).2, fun _ => rfl, rfl⟩

theorem setNet {s t : State} (h : SameQueues s t) (n : Net) (hn : n.ports = t.net.ports := by rfl) :
    SameQueues s { t with net := n } :=
  have ports (p : Nat) : ({ t with net := n } : State).port p = t.port p := by rw [State.port, State.port, hn]
  h.trans ⟨fun p => congrArg Port.link (ports p), fun p => congrArg Port.queues (ports p), fun _ => rfl, rfl⟩

theorem setHub {s t : State} (h : SameQueues s t) (x : Hub) : SameQueues s { t with hub := x } :=
  h.trans ⟨fun _ => rfl, fun _ => rfl, fun _ => rfl, rfl⟩

theorem foldl {α : Type} {g : State → α → State} (hg : ∀ u a, SameQueues u (g u a)) (l : List α) {s t : State}
    (h : SameQueues s t) : SameQueues s (l.foldl g t) := by
  induction l generalizing t with
  | nil => exact h
  | cons a r ih => exact ih (h.trans (hg t a))

end SameQueues

theorem NET_PSTAT_mod_ne (p : Nat) : R.NET_PSTAT p % 256 ≠ 0x18 := by
  unfold R.NET_PSTAT
  omega

theorem setPool_sameQueues (s : State) (n : Nat) : SameQueues s (setPool s n) :=
  (((SameQueues.refl s).setNet { s.net with pool := n }).fput F.NET_BUF_used _).fput F.NET_BUF_peak _

/-- The account of a frame that leaves the buffer touches no queue (R322). -/
theorem release_sameQueues (s : State) (x : QFrame) : SameQueues s (release s x) := by
  unfold release
  split
  next => exact setPool_sameQueues s _
  next c =>
    dsimp only
    split
    next => exact (SameQueues.refl s).setPort _ _
    next => exact ((SameQueues.refl s).setPort _ _).trans (setPool_sameQueues _ _)

theorem linkEvent_sameQueues (s : State) (p : Nat) : SameQueues s (linkEvent s p) :=
  (SameQueues.refl s).fput F.NET_EV_link _

/-! ### The best master selection (R326, R327) -/

theorem loseSync_sameQueues (s : State) (cause : Nat) : SameQueues s (loseSync s cause) := by
  unfold loseSync
  split
  next => exact SameQueues.refl s
  next => exact (((((SameQueues.refl s).setHub _).fput _ _).fput _ _).fput _ _).fput _ _

theorem setSync_sameQueues (s : State) (b : Bool) : SameQueues s (setSync s b) := by
  unfold setSync
  have flags := ((SameQueues.refl s).fput F.NET_TSTAT_sync (if b then 1 else 0)).fput F.NET_EV_sync 1
  split
  next => exact SameQueues.refl s
  next =>
    dsimp only
    split
    next => exact flags.trans (loseSync_sameQueues _ 1)
    next => exact flags

theorem setRole_sameQueues (s : State) (p r : Nat) : SameQueues s (setRole s p r) :=
  ((SameQueues.refl s).setPort p _).fput (F.NET_PSTAT_role p) r (NET_PSTAT_mod_ne p)

/-- The best master selection gives roles to ports and ends synchronisation; what the ports hold for egress stays. -/
theorem selectMaster_sameQueues (s : State) : SameQueues s (selectMaster s) := by
  unfold selectMaster
  extract_lets own heard best win gid gm roled changed net named cleared flagged shown
  have roles : SameQueues s roled := by
    clear_value win
    refine (SameQueues.refl s).foldl (fun u p => ?_) _
    dsimp only
    repeat' split
    all_goals exact setRole_sameQueues u p _
  have names : SameQueues s named := roles.setNet _
  have clears : SameQueues s cleared := by
    unfold cleared
    split
    next => exact names.foldl (fun u p => (SameQueues.refl u).setPort _ _) _
    next => exact names
  have flags : SameQueues s shown := (clears.fput F.NET_TSTAT_gm _).fput F.NET_TSTAT_sport _
  exact flags.trans (setSync_sameQueues shown _)

/-! ### The flush and the command (R312) -/

/-- The frames that wait at a port. -/
def waitingFrames (s : State) (p : Nat) : List QFrame := (s.port p).queues.entries.flatMap (fun e => e.2)

theorem flushPort_netHubOnly (s : State) (p : Nat) : NetHubOnly s (flushPort s p) := by
  have released := (NetOnly.refl s).foldl release_netOnly (waitingFrames s p)
  refine NetOnly.toNetHubOnly (NetOnly.setPort (t := if waitingFrames s p = [] then _ else _) ?_ _ _)
  split
  next => exact released.fput _ _
  next => exact (released.fput _ _).fput _ _

theorem flushPort_queues (s : State) (p : Nat) : ((flushPort s p).port p).queues = Tab.empty :=
  congrArg Port.queues (State.setPort_port_same _ p _)

/-- Every discarded frame is counted, up to the counter's end. -/
theorem flushPort_tail (s : State) (p : Nat) :
    (flushPort s p).fget (F.NET_QDROP_tail p) = min (s.fget (F.NET_QDROP_tail p) + (waitingFrames s p).length) 65535 := by
  have released := (SameQueues.refl s).foldl release_sameQueues (waitingFrames s p)
  have kept : ((waitingFrames s p).foldl release s).fget (F.NET_QDROP_tail p) = s.fget (F.NET_QDROP_tail p) :=
    congrArg (fldVal _) (released.drops p)
  have counted (u : State) (n : Nat) :
      (u.faddSat (F.NET_QDROP_tail p) n).fget (F.NET_QDROP_tail p) = min (u.fget (F.NET_QDROP_tail p) + n) 65535 :=
    (State.fput_fget_same u (f := F.NET_QDROP_tail p) (show 16 ≤ 31 ∧ 31 < 32 by decide) _).trans
      (Nat.mod_eq_of_lt (Nat.lt_of_le_of_lt (Nat.min_le_right _ _) (show 65535 < 2 ^ 16 by decide)))
  rw [← kept, ← counted]
  unfold flushPort
  rw [State.setPort_fget]
  split
  next => rfl
  next => exact congrArg (fldVal _) (((SameQueues.refl _).fput F.NET_EV_qdrop 1).drops p)

/-- A port's link is taken away with all that rests on it: the neighbour's announcements, peer delay and times of sync. -/
def dropLink (s : State) (p : Nat) : State :=
  s.setPort p { s.port p with link := none, best := none, path := [], pdReqAt := none, pdLost := 0, pdResp := none, syncAt := [],
                              offsets := [], pendSync := none }

/-- NET_PSTAT of a port with no link. -/
def showNoLink (s : State) (p : Nat) : State :=
  ((((s.fput (F.NET_PSTAT_link p) 0).fput (F.NET_PSTAT_speed p) 0).fput (F.NET_PSTAT_ascap p) 0).fput
    (F.NET_PSTAT_pq p) 0).fput (F.NET_PSTAT_pdly p) 0

theorem showNoLink_sameQueues (s : State) (p : Nat) : SameQueues s (showNoLink s p) :=
  have ok := NET_PSTAT_mod_ne p
  (((((SameQueues.refl s).fput _ _ ok).fput _ _ ok).fput _ _ ok).fput _ _ ok).fput _ _ ok

/-- LINK_CHANGE to down: flush, lose the link, tell it, select the master again. -/
theorem exec_linkChange_down {p : Fin 5} {sp : Speed} {s : State} (h : (s.port p).link = some sp) :
    exec (.linkChange p none) s = .next (selectMaster (linkEvent (showNoLink (dropLink (flushPort s p) p) p) p)) :=
  if_neg (by rw [h]; exact Bool.false_ne_true)

/-- Settles O53: the flush empties and counts, the steps after it leave queues and counters alone, and a port without link takes
no frame. -/
theorem linkDownEmptiesPort : Obligations.LinkDownEmptiesPort := by
  unfold Obligations.LinkDownEmptiesPort
  intro p sp s hl
  have after : SameQueues (dropLink (flushPort s p) p) _ :=
    ((showNoLink_sameQueues _ p).trans (linkEvent_sameQueues _ p)).trans (selectMaster_sameQueues _)
  have frame : NetHubOnly s _ := (flushPort_netHubOnly s p).trans (NetHubOnly.trans (t := dropLink _ p) rfl after.rest)
  have dropped := State.setPort_port_same (flushPort s p) p
  refine ⟨_, exec_linkChange_down hl, ?_, fun q => ?_, ?_, fun u q f i pcp cut => enqueue_down u p q f i pcp cut, ?_⟩
  · rw [after.link, dropLink, dropped]
  · rw [after.queues, dropLink, dropped, flushPort_queues]
    rfl
  · exact (congrArg (fldVal _) (after.drops p)).trans (flushPort_tail s p)
  · exact frame.keeps

end Sys2Proof.Machine
end

section
/-! PROOFS. LOG_RELEASE (R376): how an accepted write of a register ends, what the release does to the log and its count, and what
the log's registers show of a free entry. -/

namespace Sys2Proof.Machine

/-! ### Words of a write -/

theorem getLsbD_withBit (w : Word) {k : Nat} (hk : k < 32) (i : Nat) :
    (withBit w k).getLsbD i = (w.getLsbD i || decide (i = k)) := by
  unfold withBit
  rw [BitVec.getLsbD_or, BitVec.getLsbD_shiftLeft, BitVec.getLsbD_one]
  congr 1
  rw [Bool.eq_iff_iff]
  simp
  omega

/-- A used bit keeps its value, a reserved one reads 0 (R11). -/
theorem getLsbD_maskUsed (d : RDesc) (w : Word) (i : Nat) :
    (maskUsed d w).getLsbD i = d.fields.any (fun f => w.getLsbD i && (fldMask ⟨0, f.hi, f.lo⟩).getLsbD i) := by
  have fold : ∀ (l : List FDesc) (m : Word),
      (l.foldl (fun m f => m ||| (w &&& fldMask ⟨0, f.hi, f.lo⟩)) m).getLsbD i
        = (m.getLsbD i || l.any (fun f => w.getLsbD i && (fldMask ⟨0, f.hi, f.lo⟩).getLsbD i)) := by
    intro l
    induction l with
    | nil => simp
    | cons f r ih => intro m; rw [List.foldl_cons, ih]; simp [Bool.or_assoc]
  rw [maskUsed, fold]
  simp

/-! ### How an accepted write ends -/

/-- A register of write-only fields alone keeps its word (R12). -/
theorem merged_of_wo {d : RDesc} (h : ∀ f ∈ d.fields, f.acc = .wo) (s : State) (a : Nat) (w : Word) :
    merged s d a w = s.rget a :=
  List.foldlRecOn d.fields (takeField a w) (motive := fun r => r = s.rget a) rfl
    (fun r hr f hf => by rw [takeField, h f hf]; exact hr)

theorem noteRws_of_wo {d : RDesc} (h : ∀ f ∈ d.fields, f.acc = .wo) (s : State) (req : Requester) (a : Nat) (w : Word) :
    noteRws s req d a w = id := by
  refine funext fun t => if_neg fun hany => ?_
  obtain ⟨f, hf, hx⟩ := List.any_eq_true.mp hany
  rw [h f hf] at hx
  exact Bool.false_ne_true hx

/-- A write that access codes, ranges and rules let pass leaves its effect, with the note of its RWS fields, or is refused by its
block. -/
theorem busWrite_accepted {s : State} {req : Requester} {a : Nat} {w : Word} {d : RDesc}
    (h : writeAccepted s req a w = true) (hd : regDesc a = some d) :
    busWrite s req a w = (regEffect s req d a (maskUsed d w)).elim (fieldRefuse s req a 5).2
      (noteRws s req d a (maskUsed d w)) := by
  have hw := regWrite_accepted h hd
  have inRegs : (regWrite s req a w).1 ≠ .region := by
    rw [hw]
    split <;> exact WRes.noConfusion
  rw [busWrite_done ((writeAccepted_iff s req a w).mp h).1 inRegs, hw]
  cases regEffect s req d a (maskUsed d w) <;> rfl

/-! ### The record of a refusal (R493, R494) -/

theorem refuse_refusedWith (s : State) (req : Requester) (a : Nat) {why : Nat} (hwhy : why < 8) :
    refusedWith s (refuse s req a why) req a why := by
  refine ⟨refuse_shape s req a why, fun b hb => ?_, refuse_refa s req a why, ?_, ?_, ?_, ?_⟩
  · simp only [List.mem_cons, List.not_mem_nil, or_false, not_or] at hb
    exact refuse_rget s req a why hb
  all_goals
    simp (disch := decide) only [refuse, State.fincSat, State.fbool, State.fput_fget_other, State.fput_fget_same,
      State.rput_fget_ne]
  · rfl
  · cases isHost req <;> rfl
  · exact Nat.mod_eq_of_lt hwhy
  · exact Nat.mod_eq_of_lt (Nat.lt_of_le_of_lt (Nat.min_le_right _ _) (by decide))

theorem fieldRefuse_refusedWith (s : State) (req : Requester) {a why : Nat} (ha : ¬ (a = R.BST_ORD0 ∨ a = R.BST_ORD1))
    (hwhy : why < 8) : refusedWith s (fieldRefuse s req a why).2 req a why := by
  unfold fieldRefuse
  dsimp only
  rw [if_neg ha]
  exact refuse_refusedWith s req a hwhy

/-! ### The log and its count -/

theorem putLog_sameRegsBut (s : State) (t : Tab LogEnt) : sameRegsBut s (putLog s t) [R.EDC_STAT] := fun _ hb =>
  State.fput_rget_ne _ _ (List.ne_of_not_mem_cons hb)

theorem putLog_nlog (s : State) (t : Tab LogEnt) : (putLog s t).fget F.EDC_STAT_nlog = t.entries.length % 32 :=
  State.fput_fget_same _ (by decide) _

/-- What is safety-relevant depends on the registers alone. -/
theorem safetyRel_congr {s t : State} (h : ∀ b, t.rget b = s.rget b) (m a : Nat) : safetyRel t m a = safetyRel s m a := by
  have fields (f : Fld) : t.fget f = s.fget f := by rw [State.fget, h, State.fget]
  unfold safetyRel State.flag
  simp only [fields]

/-! ### What the log's registers show of a free entry -/

theorem maskWo_zero (a : Nat) : maskWo a 0 = 0 := by
  unfold maskWo
  split
  · rfl
  · next d _ =>
    refine List.foldlRecOn d.fields _ (motive := fun r => r = 0) rfl (fun r hr f _ => ?_)
    rw [hr]
    split
    · simp [ins, fldIns]
    · rfl

theorem readWord_edc (s : State) {a : Nat} (h : a / 0x10000 = 0x4009) : readWord s a = maskWo a (readEdc s a) := by
  unfold readWord
  rw [if_neg (by omega)]
  simp only [h]

/-- All fields of a free entry read 0 (R376). -/
theorem readWord_logFree {s : State} (h : logSel s = none) {a : Nat}
    (ha : a ∈ [R.EDC_LADDR, R.EDC_LINFO, R.EDC_LFTS, R.EDC_LLTS, R.EDC_LDL]) : readWord s a = 0#32 := by
  have shown : a / 0x10000 = 0x4009 ∧ readEdc s a = 0 := by
    simp only [List.mem_cons, List.not_mem_nil, or_false] at ha
    rcases ha with rfl | rfl | rfl | rfl | rfl <;> exact ⟨by decide, by simp [readEdc, linfoWord, logWord, h]⟩
  rw [readWord_edc s shown.1, shown.2]
  exact maskWo_zero a

/-! ### The release -/

/-- An entry that a release may not free: its deadline runs, or it is hard in a safety-relevant region and not retired (R376). -/
def logEntryStays (s : State) (e : LogEnt) : Prop :=
  e.dl.isSome = true ∨ (e.hard = true ∧ safetyRel s e.mem e.addr.toNat = true ∧ e.ret = false)

theorem logReleaseWrite_stays {s : State} {w : Word} {e : LogEnt} (hgo : w.getLsbD 31 = true)
    (hf : s.memc.log.find (bits w.toNat 3 0) = some e) (h : logEntryStays s e) : logReleaseWrite s w = none := by
  unfold logReleaseWrite
  rw [if_neg (not_not.mpr hgo)]
  simp only [hf]
  exact if_pos (h.imp_right fun ⟨hh, hs, hr⟩ => ⟨hh, hs, by simp [hr]⟩)

theorem logReleaseWrite_frees {s : State} {w : Word} {e : LogEnt} (hgo : w.getLsbD 31 = true)
    (hf : s.memc.log.find (bits w.toNat 3 0) = some e) (h : ¬ logEntryStays s e) :
    logReleaseWrite s w = some (putLog s (s.memc.log.del (bits w.toNat 3 0))) := by
  unfold logReleaseWrite
  rw [if_neg (not_not.mpr hgo)]
  simp only [hf]
  exact if_neg fun hs => h (hs.imp_right fun ⟨hh, hs, hr⟩ => ⟨hh, hs, by simpa using hr⟩)

/-- The description of EDC_LREL: `go` and `idx`, both write-only. -/
def logReleaseDesc : RDesc := ⟨"EDC_LREL", 0x40090048, 0, 1, [⟨31, 31, .wo, 0x0⟩, ⟨3, 0, .wo, 0x0⟩]⟩

theorem regDesc_EDC_LREL : regDesc R.EDC_LREL = some logReleaseDesc := by decide

theorem logReleaseDesc_wo : ∀ f ∈ logReleaseDesc.fields, f.acc = .wo := by decide

/-- The word of a release as the register takes it. -/
def releaseWord (w : Word) : Word := maskUsed logReleaseDesc (withBit w 31)

theorem releaseWord_go (w : Word) : (releaseWord w).getLsbD 31 = true := by
  rw [releaseWord, getLsbD_maskUsed, getLsbD_withBit w (by decide)]
  simp [logReleaseDesc, getLsbD_fldMask]

theorem releaseWord_idx (w : Word) : bits (releaseWord w).toNat 3 0 = w.toNat % 16 := by
  have field : bits (releaseWord w).toNat 3 0 = fldVal ⟨0, 3, 0⟩ (releaseWord w) := rfl
  refine Nat.eq_of_testBit_eq fun i => ?_
  rw [field, testBit_fldVal, releaseWord, Nat.zero_add, getLsbD_maskUsed, getLsbD_withBit w (by decide),
    show (16 : Nat) = 2 ^ 4 from rfl, Nat.testBit_mod_two_pow, BitVec.testBit_toNat]
  by_cases hi : i < 4
  · have h31 : i < 31 := by omega
    simp only [logReleaseDesc, List.any_cons, List.any_nil, getLsbD_fldMask]
    simp [hi, h31.ne, h31.not_ge, h31.trans]
  · simp [hi]

/-- The register keeps its word, and the log takes the release. -/
theorem regEffect_EDC_LREL (s : State) (req : Requester) (w : Word) :
    regEffect s req logReleaseDesc R.EDC_LREL w = logReleaseWrite (s.rput R.EDC_LREL (s.rget R.EDC_LREL)) w := by
  rw [← merged_of_wo logReleaseDesc_wo s R.EDC_LREL w]
  rfl

theorem State.rput_self_rget (s : State) (a b : Nat) : (s.rput a (s.rget a)).rget b = s.rget b := by
  by_cases h : b = a
  · rw [h, State.rput_rget_same]
  · exact State.rput_rget_ne s _ h

theorem logEntryStays_congr {s t : State} (h : ∀ b, t.rget b = s.rget b) (e : LogEnt) :
    logEntryStays t e ↔ logEntryStays s e := by
  rw [logEntryStays, safetyRel_congr h, logEntryStays]

section
variable {s : State} {req : Requester} {w : Word} {e : LogEnt}

/-- LOG_RELEASE: the release that the log makes, or the refusal of EDC_LREL. -/
theorem exec_logRelease (ha : writeAccepted s req R.EDC_LREL (withBit w 31) = true) :
    exec (.logRelease req w) s = .next ((logReleaseWrite (s.rput R.EDC_LREL (s.rget R.EDC_LREL)) (releaseWord w)).elim
      (fieldRefuse s req R.EDC_LREL 5).2 id) := by
  have h := busWrite_accepted ha regDesc_EDC_LREL
  rw [noteRws_of_wo logReleaseDesc_wo, regEffect_EDC_LREL] at h
  exact congrArg _ h

theorem exec_logRelease_stays (ha : writeAccepted s req R.EDC_LREL (withBit w 31) = true)
    (hf : s.memc.log.find (w.toNat % 16) = some e) (h : logEntryStays s e) :
    exec (.logRelease req w) s = .next (fieldRefuse s req R.EDC_LREL 5).2 := by
  rw [exec_logRelease ha, logReleaseWrite_stays (releaseWord_go w) (by rwa [releaseWord_idx])
    ((logEntryStays_congr (State.rput_self_rget s _) e).mpr h)]
  rfl

theorem exec_logRelease_frees (ha : writeAccepted s req R.EDC_LREL (withBit w 31) = true)
    (hf : s.memc.log.find (w.toNat % 16) = some e) (h : ¬ logEntryStays s e) :
    exec (.logRelease req w) s
      = .next (putLog (s.rput R.EDC_LREL (s.rget R.EDC_LREL)) (s.memc.log.del (w.toNat % 16))) := by
  rw [exec_logRelease ha, logReleaseWrite_frees (releaseWord_go w) (by rwa [releaseWord_idx])
    (mt (logEntryStays_congr (State.rput_self_rget s _) e).mp h), releaseWord_idx]
  rfl

end

/-- Settles O41: a release ends as the refusal of EDC_LREL where the entry stays, and deletes the entry from the log otherwise. -/
theorem logReleaseFreesEntry : Obligations.LogReleaseFreesEntry := by
  unfold Obligations.LogReleaseFreesEntry
  intro s req w e hwf ha hf
  refine ⟨fun stays => ⟨_, exec_logRelease_stays ha hf stays, fieldRefuse_refusedWith s req (by decide) (by decide)⟩,
    fun free => ⟨_, exec_logRelease_frees ha hf free, ?_⟩⟩
  have rising : risingKeys s.memc.log.entries = true := by
    simp only [State.wf, Bool.and_eq_true] at hwf
    tauto
  have gone : (s.memc.log.del (w.toNat % 16)).find (w.toNat % 16) = none := Tab.find_del_same _ rising
  refine ⟨gone, fun k hk => Tab.find_del_ne _ hk, fun b hb => ?_, putLog_nlog _ _, rfl, fun sel b hb => ?_⟩
  · exact (putLog_sameRegsBut _ _ b hb).trans (State.rput_self_rget s _ b)
  · refine readWord_logFree ?_ hb
    rw [logSel, sel]
    exact gone

end Sys2Proof.Machine
end
